-- ==== Sys2Proof/Word.lean ====
section
/-! DEFINITION. The word types of the Savija machine (R5, R6): bytes, 32-bit registers, 64-bit
instruction words and completion words, 128-bit quads. -/

namespace Sys2Proof

/-- One byte of a memory. -/
abbrev Byte := BitVec 8

/-- One 32-bit register. -/
abbrev Word := BitVec 32

/-- A pair of registers, an instruction word, a completion word or an address. -/
abbrev DWord := BitVec 64

/-- An aligned quad of registers without its tag (R56). -/
abbrev Quad := BitVec 128

end Sys2Proof
end

