-- ==== Sys2Proof/Machine/Cipher.lean ====
section
/-! DEFINITION. The memory-encryption unit's cipher (R339, R429): AES-256 in XTS mode over one 16-byte unit,
whose tweak is its physical address. AES is that of FIPS 197, over bytes in memory order; the two keys and
the address are taken with their lowest byte first (DESIGN CHOICE, log 21). -/

namespace Sys2Proof.Machine

/-- The two keys of a slot: data and tweak (R339). -/
structure XtsKeys where
  data : BitVec 256
  tweak : BitVec 256
  deriving DecidableEq, Repr

/-- A byte times x in the field of AES. -/
def timesX (b : BitVec 8) : BitVec 8 := (b <<< 1) ^^^ (if b.getLsbD 7 then 0x1B else 0)

/-- The product of two bytes in the field: a times each power of x that b holds. -/
def fieldMul (a b : BitVec 8) : BitVec 8 :=
  ((List.range 8).foldl (fun (p : BitVec 8 × BitVec 8) i =>
    (if b.getLsbD i then p.1 ^^^ p.2 else p.1, timesX p.2)) (0, a)).1

/-- The inverse of a byte, its 254th power; 0 for 0. -/
def fieldInv (a : BitVec 8) : BitVec 8 :=
  ((List.range 7).foldl (fun (p : BitVec 8 × BitVec 8) _ =>
    (fieldMul p.1 (fieldMul p.2 p.2), fieldMul p.2 p.2)) (1, a)).1

/-- The exclusive or of a byte's rotations by the given counts. -/
def rotations (b : BitVec 8) (ns : List Nat) : BitVec 8 := ns.foldl (fun a n => a ^^^ b.rotateLeft n) 0

/-- The substitution of a byte and its inverse. -/
def subByte (b : BitVec 8) : BitVec 8 := rotations (fieldInv b) [0, 1, 2, 3, 4] ^^^ 0x63
def unsubByte (b : BitVec 8) : BitVec 8 := fieldInv (rotations b [1, 3, 6] ^^^ 0x05)

/-- Byte lists combined by exclusive or. -/
def xorBytes (a b : List (BitVec 8)) : List (BitVec 8) := List.zipWith (· ^^^ ·) a b

/-- Word i of the key schedule from the words before it, the latest first. -/
def nextKeyWord (i : Nat) (ws : List (List (BitVec 8))) : List (BitVec 8) :=
  let last := ws.headD []
  let t := if i % 8 = 0 then
      xorBytes ((last.drop 1 ++ last.take 1).map subByte)
        [(List.range (i / 8 - 1)).foldl (fun b _ => timesX b) 1, 0, 0, 0]
    else if i % 8 = 4 then last.map subByte
    else last
  xorBytes (ws.getD 7 []) t

/-- The bytes of the fifteen round keys of a 256-bit key, in order. -/
def keySchedule (key : List (BitVec 8)) : List (BitVec 8) :=
  let first := (List.range 8).map fun i => (key.drop (4 * i)).take 4
  (((List.range 52).foldl (fun ws i => nextKeyWord (i + 8) ws :: ws) first.reverse).reverse).flatten

/-- Round key r. -/
def roundKey (ks : List (BitVec 8)) (r : Nat) : List (BitVec 8) := (ks.drop (16 * r)).take 16

/-- The rows of a block moved: row r of column c comes from column c + step × r. -/
def moveRows (step : Nat) (b : List (BitVec 8)) : List (BitVec 8) :=
  (List.range 16).map fun i => b.getD (i % 4 + 4 * ((i / 4 + step * (i % 4)) % 4)) 0

/-- The columns of a block multiplied by a circulant matrix, given by its first row. -/
def mixColumns (row : List (BitVec 8)) (b : List (BitVec 8)) : List (BitVec 8) :=
  (List.range 16).map fun i =>
    (List.range 4).foldl (fun a j => a ^^^ fieldMul (row.getD ((j + 4 - i % 4) % 4) 0) (b.getD (i / 4 * 4 + j) 0)) 0

/-- A block encrypted under a key. -/
def aesEncrypt (key b : List (BitVec 8)) : List (BitVec 8) :=
  let ks := keySchedule key
  let step (b : List (BitVec 8)) : List (BitVec 8) := moveRows 1 (b.map subByte)
  let mid := (List.range 13).foldl
    (fun b r => xorBytes (mixColumns [2, 3, 1, 1] (step b)) (roundKey ks (r + 1))) (xorBytes b (roundKey ks 0))
  xorBytes (step mid) (roundKey ks 14)

/-- A block decrypted under a key. -/
def aesDecrypt (key b : List (BitVec 8)) : List (BitVec 8) :=
  let ks := keySchedule key
  let back (b : List (BitVec 8)) : List (BitVec 8) := (moveRows 3 b).map unsubByte
  let mid := (List.range 13).foldl
    (fun b r => back (mixColumns [14, 11, 13, 9] (xorBytes b (roundKey ks (13 - r)))))
    (back (xorBytes b (roundKey ks 14)))
  xorBytes mid (roundKey ks 0)

/-- The bytes of a number, lowest first. -/
def lowBytes (n v : Nat) : List (BitVec 8) := (List.range n).map fun i => BitVec.ofNat 8 (v / 256 ^ i)

/-- The mask of the unit at a physical address. -/
def XtsKeys.mask (k : XtsKeys) (pa : Nat) : List (BitVec 8) :=
  aesEncrypt (lowBytes 32 k.tweak.toNat) (lowBytes 16 pa)

/-- A 16-byte unit as it stands in DRAM, and back (R429). -/
def XtsKeys.encrypt (k : XtsKeys) (pa : Nat) (b : List (BitVec 8)) : List (BitVec 8) :=
  xorBytes (aesEncrypt (lowBytes 32 k.data.toNat) (xorBytes b (k.mask pa))) (k.mask pa)
def XtsKeys.decrypt (k : XtsKeys) (pa : Nat) (b : List (BitVec 8)) : List (BitVec 8) :=
  xorBytes (aesDecrypt (lowBytes 32 k.data.toNat) (xorBytes b (k.mask pa))) (k.mask pa)

end Sys2Proof.Machine
end

