-- ==== Sys2Proof/Config.lean ====
section
/-! DEFINITION. What an implementation fixes: the figures of the two dies (R8, R11), and the free
values, which are opaque constants with no body. -/

namespace Sys2Proof

/-- The two dies of R1. -/
inductive DieId where
  | craren
  | dukor
  deriving DecidableEq, Repr

namespace Config

/-- Cores of the die, without its display core (R11). -/
def cores : DieId → Nat
  | .craren => 16
  | .dukor => 256

/-- The number the model gives the display core of a die (R13): the one after the counted cores. -/
def displayCore (d : DieId) : Nat := cores d

/-- Virtual interfaces (R11). -/
def interfaces : DieId → Nat
  | .craren => 16
  | .dukor => 64

/-- Memory-encryption key slots (R11). -/
def keySlots : DieId → Nat
  | .craren => 16
  | .dukor => 64

/-- Heads of the scan-out engine (R11). -/
def heads : DieId → Nat
  | .craren => 2
  | .dukor => 4

/-- Bytes of DRAM (R11). -/
def dramBytes : DieId → Nat
  | .craren => 24 * 2 ^ 30
  | .dukor => 48 * 2 ^ 30

/-- Clusters of cores (R11). -/
def clusters : DieId → Nat
  | .craren => 1
  | .dukor => 16

/-- Slices of the L2, each of 2 MiB (R11). -/
def l2Slices : DieId → Nat
  | .craren => 8
  | .dukor => 48

def l2SliceBytes : Nat := 2 * 2 ^ 20

/-- Channels of the DRAM, where R11 counts them, and the bits of its bus. -/
def dramChannels : DieId → Option Nat
  | .craren => some 8
  | .dukor => none

def dramBits : DieId → Nat
  | .craren => 192
  | .dukor => 384

/-- Scan-out engines and link ports of a die (R11). -/
def scanEngines : Nat := 1
def linkPorts : Nat := 1

/-- Bytes of tag storage, one bit for each 16 bytes of DRAM, and of the home directory, two bits for each
granule (R190, R331). -/
def tagBytes (d : DieId) : Nat := dramBytes d / 128
def directoryBytes (d : DieId) : Nat := dramBytes d / 65536 / 4

/-- The DRAM below these two carve-outs, which lie at its end (R190; DESIGN CHOICE, log 109). -/
def mappable (d : DieId) : Nat := dramBytes d - tagBytes d - directoryBytes d

/-- Front-end entries (R283). -/
def frontEndEntries : DieId → Nat
  | .craren => 256
  | .dukor => 1024

/-- Bytes of scratchpad per core (R8). -/
def scratchBytes : Nat := 393216

/-- Bytes of the key spill area that placement adds for each cove (R37). -/
def spillBytes : Nat := 8192

/-- Lines the L1 array holds (R190). -/
def l1Lines : Nat := 341

/-- Decoded-op cache entries (R8). -/
def dopEntries : Nat := 256

/-- First-level TLB entries per core and second-level entries per cluster (R322). -/
def tlbEntries : Nat := 96
def tlb2Entries : Nat := 4096

/-- Named barriers per core (R8). -/
def barriers : Nat := 512

/-- Copies in flight per core (R283). -/
def copyQueue : Nat := 128

/-- Ray slots per core (R283). -/
def raySlots : Nat := 256

/-- Array queue entries per core (R273). -/
def arrayQueue : Nat := 8

/-- Block bitmap entries per core (R28). -/
def bitmapEntries : Nat := 256

/-- A free value of 128 bits for each draw (log 2): nothing constrains it. -/
opaque freeValue : Nat → BitVec 128

/-- The offset in ulps from the nearest value that the device returns for a bounded .f32 special
function (R143), by function number and operand; used only where the result stays in the bound. -/
opaque specialOffset : Nat → Word → Int

/-- The offset in ulps of the Gaussian response (R315), by opacity and squared distance. -/
opaque responseOffset : Word → Word → Int

/-- The die's entropy source (R428): the n-th 256-bit draw. -/
opaque entropy : DieId → Nat → BitVec 256

/-- Whether the ML-DSA-87 signature of a firmware image verifies under the key fused for a
life-cycle state, given as a number (R438). -/
opaque verifySignature : DieId → Nat → BitVec 512 → List Byte → Bool

/-- The fused minimum security version (R438). -/
opaque minSecurityVersion : DieId → Nat

/-- The identity seed, derived from the fused secret and measurement register 0 (R440). -/
opaque identitySeed : DieId → BitVec 512 → BitVec 512

/-- The public key of the identity key pair of a seed (R440). -/
opaque publicKey : BitVec 512 → List Byte

/-- The certificate of a public key, under the key of a die that is derived without measurements (R440). -/
opaque certify : DieId → List Byte → List Byte

/-- The ML-DSA-87 signature of a message under the identity key of a seed (R440). -/
opaque signReport : BitVec 512 → List Byte → List Byte

/-- Where the registers of an interface and of a head stand, as the device description gives it (R12, R286,
R355, R412): launch queue descriptor q, the fault queue's as 8, the debug policy word; and a head's base. -/
opaque queueOffset : Nat → Nat
opaque debugOffset : Nat
opaque headOffset : Nat → Nat

/-- Whether the Craren's host attachment port has an application processor behind it (R198, R231). -/
opaque hostAttached : Bool

end Config

end Sys2Proof
end

