-- ==== Sys2Proof/Syntax.lean ====
section
/-! DEFINITION. The syntax of the machine's steps: operands (R55), option codes (R70, R71), and
`Instr`, with one constructor for each row of the table of operations and events. An instruction's
constructor holds its decoded fields; an immediate twin (R54) holds its 20-bit immediate in place of
source B. An event's constructor holds what the event is about. -/

namespace Sys2Proof

/-- An operand field with its literal, if it has one (R51, R55). -/
inductive Opnd where
  | g (n : Fin 768)
  | k (n : Fin 64)
  | dist (n : Fin 8)
  | zero
  | lit (v : DWord)
  | lane
  | crew
  | tindex
  | cove
  | bay
  | h (n : Fin 16)
  | none
  deriving DecidableEq, Repr

/-- The predicate field (R53, R59). -/
structure Guard where
  idx : Fin 8
  neg : Bool
  deriving DecidableEq, Repr

/-- The type codes of R70. -/
inductive Ty where
  | none | i8 | i16 | i32 | i64 | n8 | n16 | n32 | n64 | b32 | b64 | b128
  | f16 | bf16 | f32 | f64 | e4m3 | e5m2 | q4
  deriving DecidableEq, Repr

/-- Rounding modes (R71, R130). -/
inductive Rnd where
  | rn | rz | ru | rd
  deriving DecidableEq, Repr

/-- Scopes (R71, R209). -/
inductive Scope where
  | thr | cove | bay | die | sys
  deriving DecidableEq, Repr

/-- Levels of the work hierarchy (R71). -/
inductive Level where
  | cove | launch | graph | phase | job
  deriving DecidableEq, Repr

/-- Conditions 0 to 13 of R71. -/
inductive Cond where
  | eq | ne | lt | le | gt | ge | un | or | equ | neu | ltu | leu | gtu | geu
  deriving DecidableEq, Repr

/-- Bit positions of movi (R119). -/
inductive Pos where
  | s0 | s12 | s32 | s44
  deriving DecidableEq, Repr

/-- A physical thread slot: die, core, slot and lane (R18). -/
structure TRef where
  die : DieId
  core : Nat
  slot : Nat
  lane : Nat
  deriving DecidableEq, Repr

/-- A resident cove: die, core and slot-table index of its bind record (R334). -/
structure CoveRef where
  die : DieId
  core : Nat
  idx : Nat
  deriving DecidableEq, Repr

/-- One bind record that firmware writes: core, slot-table index and record (R334). -/
structure Place where
  core : Nat
  idx : Nat
  record : Quad
  deriving DecidableEq, Repr

/-- The partner a link-up finds (R15). -/
inductive Partner where
  | peer
  | host
  deriving DecidableEq, Repr

/-- Life-cycle states (R436). -/
inductive LifeCycle where
  | manufacture | development | production | retired
  deriving DecidableEq, Repr

/-- Blocks with a clock and snapshot registers of their own (R437, R441). -/
inductive Block where
  | core (n : Nat) | fabric | frontEnd | scanout | linkPort | scrub | encryption
  deriving DecidableEq, Repr

/-- Device registers a write reaches without behaviour of their own row: queue descriptors (R286),
the debug policy word (R355), the display context of an interface and the interface of a head (R411), the head
registers of R412, and the kinds of fault record that trigger the snapshot registers (R437). -/
inductive DevReg where
  | launchQueue (vi q ctx : Nat)
  | faultQueue (vi ctx : Nat)
  | debugPolicy (vi : Nat)
  | displayContext (vi ctx : Nat)
  | headInterface (head vi : Nat)
  | snapshotKinds
  | snapshotPool
  | head (head : Nat) (offset : Nat)
  deriving DecidableEq, Repr

/-- What firmware fixes when it creates a context on a die (R324, R400, R428). -/
structure CtxSpec where
  vi : Nat
  root : Nat
  saveBase : Nat
  saveSize : Nat
  blocks : Nat
  protectedSlot : Option Nat
  mirrorHost : Bool
  mirrorBase : Nat
  mirrorSize : Nat
  mirrorEntries : Nat
  deriving DecidableEq, Repr

/-- Every step of the machine: the instructions, then the events. -/
inductive Instr where
  | add (gd : Guard) (t : Ty) (sat : Bool) (d a b : Opnd)
  | addImm (gd : Guard) (t : Ty) (sat : Bool) (d a : Opnd) (imm : BitVec 20)
  | sub (gd : Guard) (t : Ty) (sat : Bool) (d a b : Opnd)
  | subImm (gd : Guard) (t : Ty) (sat : Bool) (d a : Opnd) (imm : BitVec 20)
  | addc (gd : Guard) (t : Ty) (pc : Fin 7) (d a b : Opnd)
  | addcImm (gd : Guard) (t : Ty) (pc : Fin 7) (d a : Opnd) (imm : BitVec 20)
  | subb (gd : Guard) (t : Ty) (pc : Fin 7) (d a b : Opnd)
  | subbImm (gd : Guard) (t : Ty) (pc : Fin 7) (d a : Opnd) (imm : BitVec 20)
  | mul (gd : Guard) (t : Ty) (sat : Bool) (d a b : Opnd)
  | mulImm (gd : Guard) (t : Ty) (sat : Bool) (d a : Opnd) (imm : BitVec 20)
  | mulh (gd : Guard) (t : Ty) (d a b : Opnd)
  | mulhImm (gd : Guard) (t : Ty) (d a : Opnd) (imm : BitVec 20)
  | mad (gd : Guard) (t : Ty) (sat : Bool) (d a b c : Opnd)
  | div (gd : Guard) (t : Ty) (d a b : Opnd)
  | divImm (gd : Guard) (t : Ty) (d a : Opnd) (imm : BitVec 20)
  | rem (gd : Guard) (t : Ty) (d a b : Opnd)
  | remImm (gd : Guard) (t : Ty) (d a : Opnd) (imm : BitVec 20)
  | neg (gd : Guard) (t : Ty) (sat : Bool) (d a : Opnd)
  | abs (gd : Guard) (t : Ty) (sat : Bool) (d a : Opnd)
  | min (gd : Guard) (t : Ty) (d a b : Opnd)
  | minImm (gd : Guard) (t : Ty) (d a : Opnd) (imm : BitVec 20)
  | max (gd : Guard) (t : Ty) (d a b : Opnd)
  | maxImm (gd : Guard) (t : Ty) (d a : Opnd) (imm : BitVec 20)
  | lea (gd : Guard) (t : Ty) (sh : Fin 8) (d a b : Opnd)
  | leaImm (gd : Guard) (t : Ty) (sh : Fin 8) (d a : Opnd) (imm : BitVec 20)
  | sel (gd : Guard) (t : Ty) (inv : Bool) (pn : Fin 8) (d a b : Opnd)
  | selImm (gd : Guard) (t : Ty) (inv : Bool) (pn : Fin 8) (d a : Opnd) (imm : BitVec 20)
  | and (gd : Guard) (t : Ty) (d a b : Opnd)
  | andImm (gd : Guard) (t : Ty) (d a : Opnd) (imm : BitVec 20)
  | or (gd : Guard) (t : Ty) (d a b : Opnd)
  | orImm (gd : Guard) (t : Ty) (d a : Opnd) (imm : BitVec 20)
  | xor (gd : Guard) (t : Ty) (d a b : Opnd)
  | xorImm (gd : Guard) (t : Ty) (d a : Opnd) (imm : BitVec 20)
  | andn (gd : Guard) (t : Ty) (d a b : Opnd)
  | andnImm (gd : Guard) (t : Ty) (d a : Opnd) (imm : BitVec 20)
  | not (gd : Guard) (t : Ty) (d a : Opnd)
  | shl (gd : Guard) (t : Ty) (d a b : Opnd)
  | shlImm (gd : Guard) (t : Ty) (d a : Opnd) (imm : BitVec 20)
  | shr (gd : Guard) (t : Ty) (d a b : Opnd)
  | shrImm (gd : Guard) (t : Ty) (d a : Opnd) (imm : BitVec 20)
  | sar (gd : Guard) (t : Ty) (d a b : Opnd)
  | sarImm (gd : Guard) (t : Ty) (d a : Opnd) (imm : BitVec 20)
  | rol (gd : Guard) (t : Ty) (d a b : Opnd)
  | rolImm (gd : Guard) (t : Ty) (d a : Opnd) (imm : BitVec 20)
  | bfx (gd : Guard) (t : Ty) (d a b : Opnd)
  | bfxImm (gd : Guard) (t : Ty) (d a : Opnd) (imm : BitVec 20)
  | bfi (gd : Guard) (t : Ty) (d a b c : Opnd)
  | bfr (gd : Guard) (t : Ty) (d a : Opnd)
  | popc (gd : Guard) (t : Ty) (d a : Opnd)
  | clz (gd : Guard) (t : Ty) (d a : Opnd)
  | ctz (gd : Guard) (t : Ty) (d a : Opnd)
  | cmp (gd : Guard) (t : Ty) (pd : Fin 7) (cond : Cond) (d a b : Opnd)
  | cmpImm (gd : Guard) (t : Ty) (pd : Fin 7) (cond : Cond) (d a : Opnd) (imm : BitVec 20)
  | mov (gd : Guard) (t : Ty) (d a : Opnd)
  | movi (gd : Guard) (t : Ty) (pos : Pos) (d b : Opnd)
  | moviImm (gd : Guard) (t : Ty) (pos : Pos) (d : Opnd) (imm : BitVec 20)
  | pand (gd : Guard) (pd : Fin 7) (pa pb : Fin 8) (d : Opnd)
  | por (gd : Guard) (pd : Fin 7) (pa pb : Fin 8) (d : Opnd)
  | pxor (gd : Guard) (pd : Fin 7) (pa pb : Fin 8) (d : Opnd)
  | pnot (gd : Guard) (pd : Fin 7) (pa : Fin 8) (d : Opnd)
  | fadd (gd : Guard) (t : Ty) (rnd : Rnd) (d a b : Opnd)
  | faddImm (gd : Guard) (t : Ty) (rnd : Rnd) (d a : Opnd) (imm : BitVec 20)
  | fsub (gd : Guard) (t : Ty) (rnd : Rnd) (d a b : Opnd)
  | fsubImm (gd : Guard) (t : Ty) (rnd : Rnd) (d a : Opnd) (imm : BitVec 20)
  | fmul (gd : Guard) (t : Ty) (rnd : Rnd) (d a b : Opnd)
  | fmulImm (gd : Guard) (t : Ty) (rnd : Rnd) (d a : Opnd) (imm : BitVec 20)
  | fma (gd : Guard) (t : Ty) (rnd : Rnd) (d a b c : Opnd)
  | fmin (gd : Guard) (t : Ty) (d a b : Opnd)
  | fminImm (gd : Guard) (t : Ty) (d a : Opnd) (imm : BitVec 20)
  | fmax (gd : Guard) (t : Ty) (d a b : Opnd)
  | fmaxImm (gd : Guard) (t : Ty) (d a : Opnd) (imm : BitVec 20)
  | fminm (gd : Guard) (t : Ty) (d a b : Opnd)
  | fminmImm (gd : Guard) (t : Ty) (d a : Opnd) (imm : BitVec 20)
  | fmaxm (gd : Guard) (t : Ty) (d a b : Opnd)
  | fmaxmImm (gd : Guard) (t : Ty) (d a : Opnd) (imm : BitVec 20)
  | fcmp (gd : Guard) (t : Ty) (pd : Fin 7) (cond : Cond) (d a b : Opnd)
  | fcmpImm (gd : Guard) (t : Ty) (pd : Fin 7) (cond : Cond) (d a : Opnd) (imm : BitVec 20)
  | fsgn (gd : Guard) (t : Ty) (sop : Fin 3) (d a b : Opnd)
  | fclass (gd : Guard) (t : Ty) (d a : Opnd)
  | frnd (gd : Guard) (t : Ty) (rnd : Rnd) (d a : Opnd)
  | fcvt (gd : Guard) (sat : Bool) (rnd : Rnd) (t ts : Ty) (d a : Opnd)
  | f2i (gd : Guard) (sat : Bool) (rnd : Rnd) (t ts : Ty) (d a : Opnd)
  | i2f (gd : Guard) (sat : Bool) (rnd : Rnd) (t ts : Ty) (d a : Opnd)
  | rcp (gd : Guard) (t : Ty) (rnd : Rnd) (d a : Opnd)
  | rsq (gd : Guard) (t : Ty) (d a : Opnd)
  | sqrt (gd : Guard) (t : Ty) (rnd : Rnd) (d a : Opnd)
  | ex2 (gd : Guard) (t : Ty) (d a : Opnd)
  | lg2 (gd : Guard) (t : Ty) (d a : Opnd)
  | sin (gd : Guard) (t : Ty) (d a : Opnd)
  | cos (gd : Guard) (t : Ty) (d a : Opnd)
  | hadd2 (gd : Guard) (t : Ty) (rnd : Rnd) (d a b : Opnd)
  | hmul2 (gd : Guard) (t : Ty) (rnd : Rnd) (d a b : Opnd)
  | hfma2 (gd : Guard) (t : Ty) (rnd : Rnd) (d a b c : Opnd)
  | qpack (gd : Guard) (t : Ty) (rnd : Rnd) (d a b : Opnd)
  | qunpk (gd : Guard) (t : Ty) (d a b : Opnd)
  | qscale (gd : Guard) (t : Ty) (d a b : Opnd)
  | spcmp (gd : Guard) (t : Ty) (n : Fin 3) (d a b c : Opnd)
  | spexp (gd : Guard) (t : Ty) (n : Fin 3) (d a b c : Opnd)
  | br (gd : Guard) (b : Opnd)
  | brImm (gd : Guard) (imm : BitVec 20)
  | brx (gd : Guard) (a : Opnd)
  | call (gd : Guard) (d b : Opnd)
  | callImm (gd : Guard) (d : Opnd) (imm : BitVec 20)
  | callx (gd : Guard) (d a : Opnd)
  | ret (gd : Guard) (a : Opnd)
  | exit (gd : Guard)
  | yield (gd : Guard)
  | nap (gd : Guard) (a b : Opnd)
  | brk (gd : Guard)
  | kadd (d a b : Opnd)
  | kaddImm (d a : Opnd) (imm : BitVec 20)
  | ksub (d a b : Opnd)
  | ksubImm (d a : Opnd) (imm : BitVec 20)
  | kmul (d a b : Opnd)
  | kmulImm (d a : Opnd) (imm : BitVec 20)
  | kand (d a b : Opnd)
  | kandImm (d a : Opnd) (imm : BitVec 20)
  | kor (d a b : Opnd)
  | korImm (d a : Opnd) (imm : BitVec 20)
  | kxor (d a b : Opnd)
  | kxorImm (d a : Opnd) (imm : BitVec 20)
  | kshl (d a b : Opnd)
  | kshlImm (d a : Opnd) (imm : BitVec 20)
  | kshr (d a b : Opnd)
  | kshrImm (d a : Opnd) (imm : BitVec 20)
  | kmov (d a : Opnd)
  | kmovi (pos : Bool) (d b : Opnd)
  | kmoviImm (pos : Bool) (d : Opnd) (imm : BitVec 20)
  | kcmp (t : Ty) (cond : Cond) (d a b : Opnd)
  | kcmpImm (t : Ty) (cond : Cond) (d a : Opnd) (imm : BitVec 20)
  | klea (sh : Fin 8) (d a b : Opnd)
  | kleaImm (sh : Fin 8) (d a : Opnd) (imm : BitVec 20)
  | kmerge
  | xpull (gd : Guard) (t : Ty) (d a b c : Opnd)
  | xpullImm (gd : Guard) (t : Ty) (d a : Opnd) (imm : BitVec 20)
  | xpush (gd : Guard) (t : Ty) (cm : Bool) (d a b c : Opnd)
  | xvote (gd : Guard) (vop : Fin 3) (d a c : Opnd)
  | xfirst (gd : Guard) (t : Ty) (d a c : Opnd)
  | xred (gd : Guard) (t : Ty) (rop : Fin 6) (d a c : Opnd)
  | xscan (gd : Guard) (t : Ty) (exc : Bool) (rop : Fin 6) (d a c : Opnd)
  | xmatch (gd : Guard) (t : Ty) (d a c : Opnd)
  | rdv (gd : Guard) (c : Opnd)
  | rast (gd : Guard) (d a b c : Opnd)
  | mma (gd : Guard) (d a b c : Opnd)
  | mmaSp (gd : Guard) (d a b c : Opnd)
  | mmaSc (gd : Guard) (d a b c : Opnd)
  | mzero (gd : Guard) (d a : Opnd)
  | chdef (gd : Guard) (ch : Fin 8) (a b : Opnd)
  | chrun (gd : Guard) (ch : Fin 8) (d a : Opnd)
  | perfRd (gd : Guard) (d b : Opnd)
  | ld (gd : Guard) (t : Ty) (hint : Fin 3) (d a b : Opnd)
  | ldImm (gd : Guard) (t : Ty) (hint : Fin 3) (d a : Opnd) (imm : BitVec 20)
  | st (gd : Guard) (t : Ty) (hint : Fin 3) (a b c : Opnd)
  | ldK (gd : Guard) (t : Ty) (hint : Fin 3) (d a b : Opnd)
  | ldKImm (gd : Guard) (t : Ty) (hint : Fin 3) (d a : Opnd) (imm : BitVec 20)
  | atom (gd : Guard) (t : Ty) (scope : Scope) (aop : Fin 10) (d a b c : Opnd)
  | acq (gd : Guard) (scope : Scope) (d a b : Opnd)
  | rel (gd : Guard) (scope : Scope) (a b c : Opnd)
  | fence (gd : Guard) (scope : Scope)
  | icinv (gd : Guard) (scope : Scope)
  | pf (gd : Guard) (a b : Opnd)
  | pfImm (gd : Guard) (a : Opnd) (imm : BitVec 20)
  | pfi (gd : Guard) (a b : Opnd)
  | pfiImm (gd : Guard) (a : Opnd) (imm : BitVec 20)
  | stashWb (gd : Guard) (a b c : Opnd)
  | stashInv (gd : Guard) (a b c : Opnd)
  | capNew (gd : Guard) (d a b c : Opnd)
  | capSet (gd : Guard) (d a b : Opnd)
  | capAdd (gd : Guard) (d a b : Opnd)
  | capBnd (gd : Guard) (d a b : Opnd)
  | capPrm (gd : Guard) (d a b : Opnd)
  | capChk (gd : Guard) (d a b c : Opnd)
  | capGet (gd : Guard) (d a b : Opnd)
  | cpBlk (gd : Guard) (d a b c : Opnd)
  | cpTile (gd : Guard) (d a b c : Opnd)
  | cpGat (gd : Guard) (d a b c : Opnd)
  | cpSct (gd : Guard) (d a b c : Opnd)
  | cpMc (gd : Guard) (d a b c : Opnd)
  | cpFill (gd : Guard) (d a c : Opnd)
  | hwait (gd : Guard) (a : Opnd)
  | htest (gd : Guard) (d a : Opnd)
  | hcancel (gd : Guard) (a : Opnd)
  | hmov (gd : Guard) (d a : Opnd)
  | rayGo (gd : Guard) (d a b : Opnd)
  | rayNext (gd : Guard) (d a : Opnd)
  | rayEnd (gd : Guard) (a : Opnd)
  | meSrch (gd : Guard) (d a b c : Opnd)
  | smp (gd : Guard) (t : Ty) (d a b c : Opnd)
  | smpG (gd : Guard) (t : Ty) (d a b c : Opnd)
  | imgSt (gd : Guard) (t : Ty) (d a b c : Opnd)
  | bind (gd : Guard) (a b c : Opnd)
  | unbind (gd : Guard) (a : Opnd)
  | tlbinv (gd : Guard) (a b c : Opnd)
  | keyz (gd : Guard) (a : Opnd)
  | ptsync (gd : Guard)
  | sysr (gd : Guard) (t : Ty) (d b : Opnd)
  | sysrImm (gd : Guard) (t : Ty) (d : Opnd) (imm : BitVec 20)
  | sysw (gd : Guard) (t : Ty) (a b : Opnd)
  | syswImm (gd : Guard) (t : Ty) (a : Opnd) (imm : BitVec 20)
  | trap (gd : Guard) (b : Opnd)
  | trapImm (gd : Guard) (imm : BitVec 20)
  | tret (gd : Guard)
  | ckpt (gd : Guard) (d : Opnd)
  | barIni (gd : Guard) (a b : Opnd)
  | barIniImm (gd : Guard) (a : Opnd) (imm : BitVec 20)
  | barArr (gd : Guard) (d a b : Opnd)
  | barArrImm (gd : Guard) (d a : Opnd) (imm : BitVec 20)
  | barWt (gd : Guard) (a b : Opnd)
  | barWtImm (gd : Guard) (a : Opnd) (imm : BitVec 20)
  | barArw (gd : Guard) (d a b : Opnd)
  | barArwImm (gd : Guard) (d a : Opnd) (imm : BitVec 20)
  | cntAdd (gd : Guard) (a b : Opnd)
  | cntRd (gd : Guard) (lv : Level) (d a : Opnd)
  | cntWt (gd : Guard) (lv : Level) (a : Opnd)
  | launch (gd : Guard) (d a b : Opnd)
  | nodePut (gd : Guard) (d a b : Opnd)
  | nodeFl (gd : Guard) (a : Opnd)
  | cancel (gd : Guard) (lv : Level) (a : Opnd)
  | clauseIssue (die : DieId) (core pipe : Nat)
  | decodedOpMissFill (die : DieId) (core : Nat)
  | faultReportArrival (die : DieId)
  | replayRestore (die : DieId) (entry : Nat)
  | napCountExpiry (r : TRef)
  | napEarlyEnd (r : TRef)
  | stashEviction (cv : CoveRef) (window sector : Nat)
  | l1Eviction (die : DieId) (core idx : Nat)
  | decodedOpEviction (die : DieId) (core idx : Nat)
  | copyComplete (die : DieId) (core idx : Nat)
  | rayRoundComplete (die : DieId) (core idx : Nat)
  | meSrchComplete (die : DieId) (core idx : Nat)
  | smpComplete (die : DieId) (core idx : Nat)
  | imgStComplete (die : DieId) (core idx : Nat)
  | arrayOpComplete (die : DieId) (core : Nat)
  | chdefApply (die : DieId) (core : Nat)
  | chrunComplete (die : DieId) (core : Nat)
  | launchQueueWriteIndex (die : DieId) (vi q : Nat) (index : BitVec 16)
  | frontEndRecordRead (die : DieId) (vi q : Nat)
  | placementPass (die : DieId) (core idx : Nat) (record : Quad)
  | launchRetire (die : DieId) (entry : Nat)
  | coalesceFire (die : DieId) (entry : Nat)
  | preemption (ctx : Nat)
  | preemptAckComplete (cv : CoveRef)
  | restore (ctx : Nat) (die : DieId) (places : List Place)
  | migration (ctx : Nat) (places : List Place)
  | checkpoint (ctx : Nat)
  | checkpointStream (ctx : Nat)
  | commitRecordWrite (ctx : Nat)
  | commitAck (ctx : Nat)
  | transferRequest (die : DieId) (ctx : Nat) (va : Nat)
  | transferData (die : DieId) (ctx : Nat) (va : Nat)
  | transferAck (die : DieId) (ctx : Nat) (va : Nat)
  | forwardedAccess (id : Nat)
  | linkReceipt (id : Nat)
  | nonpostedCompletion (id : Nat) (failed : Bool) (data : Quad)
  | hostWriteAck (id : Nat) (failed : Bool)
  | packetReceive (die : DieId) (pa lines : Nat) (payload : List Byte)
  | linkUp (partner : Partner)
  | requestedUndock (places : List (Nat × List Place))
  | undockDrainComplete
  | surpriseRemoval
  | surpriseRecovery (ctx : Nat) (places : List Place)
  | lineAdvance (die : DieId) (head : Nat)
  | bandLaunch (die : DieId) (head : Nat)
  | guardLine (die : DieId) (head : Nat)
  | fallbackFill (die : DieId) (head : Nat)
  | relayBandSend (die : DieId) (head : Nat)
  | relayBandArrival (die : DieId) (head : Nat)
  | hctlWrite (die : DieId) (head : Nat) (v : DWord)
  | hstatWrite (die : DieId) (head : Nat) (v : DWord)
  | hqueueRead (die : DieId) (head : Nat)
  | registerWrite (die : DieId) (reg : DevReg) (v : Quad)
  | scrubStep (die : DieId)
  | virtualInterfaceReset (die : DieId) (vi : Nat)
  | deviceReset (die : DieId)
  | lifeCycleChange (die : DieId) (state : LifeCycle)
  | powerGood (die : DieId) (image : List Byte) (signature : List Byte) (secVersion : Nat)
  | deviceDescriptionPublish (die : DieId)
  | measurementExtend (die : DieId) (reg : Fin 8) (component : List Byte)
  | attestationRequest (die : DieId) (vi : Nat) (nonce : BitVec 512)
  | snapshotTrigger (die : DieId) (seq : BitVec 16)
  | d3Entry (die : DieId) (cold : Bool)
  | d0Return (die : DieId)
  | clockChange (die : DieId) (block : Block) (kilohertz : Nat)
  | contextCreate (die : DieId) (ctx : Nat) (spec : CtxSpec)
  | granularityTableWrite (die : DieId) (vi : Nat) (p : Fin 4) (v : BitVec 16)
  | tlbEviction (die : DieId) (core idx : Nat)
  | snapshotRearm (die : DieId) (block : Block)
  | peerWriteAcknowledgement (id : Nat)
  | replicaInvalidation (die : DieId) (idx : Nat)
  | hostAccess (die : DieId) (pa : Nat) (data : List Byte)
  | virtualInterfaceCreate (die : DieId) (vi : Nat) (system : Bool)
  deriving DecidableEq, Repr

end Sys2Proof
end

