-- ==== Sys2Proof/Machine/Encoding.lean ====
section
/-! DEFINITION. The encoding tables of the spec: operand numbers (R55), type and option codes (R70,
R71), and for every opcode of R66 its class (R67), the types and options it may hold (R72), the
operands it takes, and the immediate twin if R69 gives one. Decoding and encoding are both written
over these tables. -/

namespace Sys2Proof

/-- The width of an operand or of a result: a register, a pair or a quad (R56). -/
inductive Width where
  | w32 | w64 | w128
  deriving DecidableEq, Repr

/-- Registers a width takes. -/
def Width.regs : Width → Nat
  | .w32 => 1
  | .w64 => 2
  | .w128 => 4

/-- Instruction classes (R50). -/
inductive Cls where
  | a | m | x | e | s
  deriving DecidableEq, Repr

/-- The header's class-mask bit of a class (R49, R50). -/
def Cls.bit : Cls → Nat
  | .a => 5
  | .m => 6
  | .x => 7
  | .e => 8
  | .s => 9

/-- The decode key (R62): ISA version and declared counts. -/
structure DecodeKey where
  isa : Nat
  regs : Nat
  keys : Nat
  deriving DecidableEq, Repr

/-- The decode key with every count at its largest. -/
def DecodeKey.widest : DecodeKey := ⟨2, 768, 64⟩

/-- What a source field may hold. -/
inductive SrcK where
  | no
  | v (w : Width)
  | opt32
  | quad (zero dist : Bool)
  | cap (w : Width)
  | move (w : Width)
  | kquad
  | greg
  | kreg
  | key9
  | ks
  | mask
  | disp
  | hOrNo
  | hmov
  | group (w : Width)
  | store (w : Width)
  | tab64
  | sysw (w : Width)
  deriving DecidableEq, Repr

/-- What a destination field may hold; `req` forbids none. -/
inductive DstK where
  | no
  | g (w : Width) (req : Bool)
  | key
  | h (req : Bool)
  deriving DecidableEq, Repr

/-- One opcode and F value: class, operands, producer width (R58), placement (R52, R68), key class
(R33), and the instruction it makes of its operands. -/
structure Row where
  cls : Cls
  d : DstK
  a : SrcK
  b : SrcK
  c : SrcK
  prod : Option Width := none
  ctl : Bool := false
  last : Bool := false
  key : Bool := false
  extra : Option Nat := none
  make : Guard → Opnd → Opnd → Opnd → Opnd → Instr
  makeImm : Option (Guard → Opnd → Opnd → BitVec 20 → Instr) := none

/-- The fields of an instruction word (R53), with its operands in place of their numbers. -/
structure Fields where
  op : Nat
  F : Nat
  gd : Guard
  d : Opnd
  a : Opnd
  b : Opnd
  c : Opnd
  imm : Option (BitVec 20)
  deriving DecidableEq, Repr

/-- The guard that always executes (R59). -/
def always : Guard := ⟨7, false⟩

/-- The code of a type (R70). -/
def Ty.code : Ty → Nat
  | .none => 0 | .i8 => 1 | .i16 => 2 | .i32 => 3 | .i64 => 4
  | .n8 => 5 | .n16 => 6 | .n32 => 7 | .n64 => 8
  | .b32 => 9 | .b64 => 10 | .b128 => 11
  | .f16 => 12 | .bf16 => 13 | .f32 => 14 | .f64 => 15
  | .e4m3 => 16 | .e5m2 => 17 | .q4 => 18

/-- The type of a code; codes 0x13 to 0x1F are reserved (R70). -/
def Ty.ofCode : Nat → Option Ty
  | 0 => some .none | 1 => some .i8 | 2 => some .i16 | 3 => some .i32 | 4 => some .i64
  | 5 => some .n8 | 6 => some .n16 | 7 => some .n32 | 8 => some .n64
  | 9 => some .b32 | 10 => some .b64 | 11 => some .b128
  | 12 => some .f16 | 13 => some .bf16 | 14 => some .f32 | 15 => some .f64
  | 16 => some .e4m3 | 17 => some .e5m2 | 18 => some .q4
  | _ => Option.none

/-- The conversion source code of a type (R71). -/
def Ty.sourceCode : Ty → Nat
  | .e4m3 => 9
  | .e5m2 => 10
  | t => t.code

/-- The type of a conversion source code; 0x0 and 0xB are reserved (R71). -/
def Ty.ofSource : Nat → Option Ty
  | 0 => Option.none
  | 9 => some .e4m3
  | 10 => some .e5m2
  | 11 => Option.none
  | n => if n < 16 then Ty.ofCode n else Option.none

/-- The floating types of R127. -/
def Ty.isFloat (t : Ty) : Bool := t ∈ [Ty.f16, .bf16, .f32, .f64, .e4m3, .e5m2]

/-- The registers an operand of a type takes (R105, R128). -/
def Ty.width : Ty → Width
  | .i64 | .n64 | .b64 | .f64 => .w64
  | .b128 => .w128
  | _ => .w32

/-- The bytes of an element of a type. -/
def Ty.bytes : Ty → Nat
  | .none => 0
  | .i8 | .n8 | .e4m3 | .e5m2 | .q4 => 1
  | .i16 | .n16 | .f16 | .bf16 => 2
  | .i32 | .n32 | .b32 | .f32 => 4
  | .i64 | .n64 | .b64 | .f64 => 8
  | .b128 => 16

def intTys : List Ty := [.i8, .i16, .i32, .i64, .n8, .n16, .n32, .n64]
def signedTys : List Ty := [.i8, .i16, .i32, .i64]
def wordTys : List Ty := [.i32, .i64, .n32, .n64]
def bitTys : List Ty := [.b32, .b64]
def quadTys : List Ty := [.b32, .b64, .b128]
def floatTys : List Ty := [.f16, .bf16, .f32, .f64]
def float3Tys : List Ty := [.f16, .bf16, .f32]
def halfTys : List Ty := [.f16, .bf16]
def smpTys : List Ty := [.f16, .f32]
def loadTys : List Ty := [.i8, .n8, .i16, .n16, .b32, .b64, .b128]
def sparseTys : List Ty := [.f16, .bf16, .e4m3, .e5m2, .i8, .n8]
def cvtTys : List Ty := intTys ++ floatTys ++ [.e4m3, .e5m2]

/-- The types of xred and xscan by operation (R72). -/
def reduceTys (op : Fin 6) : List Ty := if op.val < 3 then [.i32, .n32, .f32] else [.b32]

/-- The types of atom by operation (R72). -/
def atomTys (op : Fin 10) : List Ty :=
  if op.val ∈ [0, 4, 5, 8, 9] then [.i32, .n32, .i64, .n64] else [.b32, .b64]

def Rnd.code : Rnd → Nat
  | .rn => 0 | .rz => 1 | .ru => 2 | .rd => 3

def Rnd.ofCode : Nat → Option Rnd
  | 0 => some .rn | 1 => some .rz | 2 => some .ru | 3 => some .rd | _ => none

def Scope.code : Scope → Nat
  | .thr => 0 | .cove => 1 | .bay => 2 | .die => 3 | .sys => 4

def Scope.ofCode : Nat → Option Scope
  | 0 => some .thr | 1 => some .cove | 2 => some .bay | 3 => some .die | 4 => some .sys | _ => none

def Level.code : Level → Nat
  | .cove => 0 | .launch => 1 | .graph => 2 | .phase => 3 | .job => 4

def Level.ofCode : Nat → Option Level
  | 0 => some .cove | 1 => some .launch | 2 => some .graph | 3 => some .phase | 4 => some .job
  | _ => none

def Cond.code : Cond → Nat
  | .eq => 0 | .ne => 1 | .lt => 2 | .le => 3 | .gt => 4 | .ge => 5 | .un => 6 | .or => 7
  | .equ => 8 | .neu => 9 | .ltu => 10 | .leu => 11 | .gtu => 12 | .geu => 13

def Cond.ofCode : Nat → Option Cond
  | 0 => some .eq | 1 => some .ne | 2 => some .lt | 3 => some .le | 4 => some .gt | 5 => some .ge
  | 6 => some .un | 7 => some .or | 8 => some .equ | 9 => some .neu | 10 => some .ltu
  | 11 => some .leu | 12 => some .gtu | 13 => some .geu | _ => none

/-- Conditions of cmp and kcmp: 6 and above are reserved (R71). -/
def Cond.ofInt (n : Nat) : Option Cond := if n < 6 then Cond.ofCode n else none

/-- Conditions of fcmp (R72). -/
def Cond.floating (c : Cond) : Bool := decide (c.code < 14)

def Pos.code : Pos → Nat
  | .s0 => 0 | .s12 => 1 | .s32 => 2 | .s44 => 3

/-- Positions .s32 and .s44 stand only with .b64 (R72). -/
def Pos.allowed (t : Ty) (p : Pos) : Bool := p.code < 2 || t = .b64

def Pos.ofCode (t : Ty) (n : Nat) : Option Pos :=
  let p : Option Pos :=
    match n with
    | 0 => some .s0 | 1 => some .s12 | 2 => some .s32 | 3 => some .s44 | _ => none
  p.filter (Pos.allowed t)

/-- The bit position a movi places its field at (R119). -/
def Pos.shift : Pos → Nat
  | .s0 => 0 | .s12 => 12 | .s32 => 32 | .s44 => 44

/-- Bits [lo+len-1:lo] of the F field. -/
def fld (F lo len : Nat) : Nat := F / 2 ^ lo % 2 ^ len

def flag (F lo : Nat) : Bool := fld F lo 1 == 1

def finOf (n v : Nat) : Option (Fin n) := if h : v < n then some ⟨v, h⟩ else none

def boolOf : Nat → Option Bool
  | 0 => some false
  | 1 => some true
  | _ => none

/-- The type code of F, if the opcode lists it. -/
def tyIn (l : List Ty) (F : Nat) : Option Ty := (Ty.ofCode (F % 32)).filter (· ∈ l)

def noTy (F : Nat) : Option Unit := if F % 32 = 0 then some () else none

/-- F has no bit outside the listed ones (R72). -/
def only (F m : Nat) : Option Unit := if F &&& (0xFFF ^^^ m) = 0 then some () else none

/-- Encodings reserved under ISA version 1 (R74). -/
def since2 (ver : Nat) : Option Unit := if 2 ≤ ver then some () else none

/-- The conversion group: the types choose the mnemonic, integer to integer is refused and the
source differs from the destination (R72). -/
def convertRow (sat : Bool) (rnd : Rnd) (t ts : Ty) : Option Row :=
  if t.isFloat then
    if ts.isFloat then
      if t = ts then none
      else some { cls := .a, d := .g t.width false, a := .v ts.width, b := .no, c := .no
                  prod := some t.width, make := fun gd d a _ _ => .fcvt gd sat rnd t ts d a }
    else some { cls := .a, d := .g t.width false, a := .v ts.width, b := .no, c := .no
                prod := some t.width, make := fun gd d a _ _ => .i2f gd sat rnd t ts d a }
  else if ts.isFloat then
    some { cls := .a, d := .g t.width false, a := .v ts.width, b := .no, c := .no
           prod := some t.width, make := fun gd d a _ _ => .f2i gd sat rnd t ts d a }
  else none

/-- Opcodes 0x00 to 0x0F of R66, with the types and options of R72. -/
def row0 (op F _ver : Nat) (_cNone : Bool) : Option Row :=
  match op with
  | 0x01 => do
      let t ← tyIn intTys F
      let sat := flag F 5
      only F 0x03F
      some { cls := .a, d := (.g t.width false), a := (.v t.width), b := (.v t.width), c := .no, prod := some t.width
             make := fun gd d a b _ => .add gd t sat d a b
             makeImm := some (fun gd d a imm => .addImm gd t sat d a imm) }
  | 0x02 => do
      let t ← tyIn intTys F
      let sat := flag F 5
      only F 0x03F
      some { cls := .a, d := (.g t.width false), a := (.v t.width), b := (.v t.width), c := .no, prod := some t.width
             make := fun gd d a b _ => .sub gd t sat d a b
             makeImm := some (fun gd d a imm => .subImm gd t sat d a imm) }
  | 0x03 => do
      let t ← tyIn wordTys F
      let pc ← finOf 7 (fld F 5 3)
      only F 0x0FF
      some { cls := .a, d := (.g t.width false), a := (.v t.width), b := (.v t.width), c := .no, prod := some t.width
             make := fun gd d a b _ => .addc gd t pc d a b
             makeImm := some (fun gd d a imm => .addcImm gd t pc d a imm) }
  | 0x04 => do
      let t ← tyIn wordTys F
      let pc ← finOf 7 (fld F 5 3)
      only F 0x0FF
      some { cls := .a, d := (.g t.width false), a := (.v t.width), b := (.v t.width), c := .no, prod := some t.width
             make := fun gd d a b _ => .subb gd t pc d a b
             makeImm := some (fun gd d a imm => .subbImm gd t pc d a imm) }
  | 0x05 => do
      let t ← tyIn intTys F
      let sat := flag F 5
      only F 0x03F
      some { cls := .a, d := (.g t.width false), a := (.v t.width), b := (.v t.width), c := .no, prod := some t.width
             make := fun gd d a b _ => .mul gd t sat d a b
             makeImm := some (fun gd d a imm => .mulImm gd t sat d a imm) }
  | 0x06 => do
      let t ← tyIn intTys F
      only F 0x01F
      some { cls := .a, d := (.g t.width false), a := (.v t.width), b := (.v t.width), c := .no, prod := some t.width
             make := fun gd d a b _ => .mulh gd t d a b
             makeImm := some (fun gd d a imm => .mulhImm gd t d a imm) }
  | 0x07 => do
      let t ← tyIn intTys F
      let sat := flag F 5
      only F 0x03F
      some { cls := .a, d := (.g t.width false), a := (.v t.width), b := (.v t.width), c := (.v t.width), prod := some t.width
             make := fun gd d a b c => .mad gd t sat d a b c }
  | 0x08 => do
      let t ← tyIn intTys F
      only F 0x01F
      some { cls := .a, d := (.g t.width false), a := (.v t.width), b := (.v t.width), c := .no, prod := some t.width
             make := fun gd d a b _ => .div gd t d a b
             makeImm := some (fun gd d a imm => .divImm gd t d a imm) }
  | 0x09 => do
      let t ← tyIn intTys F
      only F 0x01F
      some { cls := .a, d := (.g t.width false), a := (.v t.width), b := (.v t.width), c := .no, prod := some t.width
             make := fun gd d a b _ => .rem gd t d a b
             makeImm := some (fun gd d a imm => .remImm gd t d a imm) }
  | 0x0A => do
      let t ← tyIn signedTys F
      let sat := flag F 5
      only F 0x03F
      some { cls := .a, d := (.g t.width false), a := (.v t.width), b := .no, c := .no, prod := some t.width
             make := fun gd d a _ _ => .neg gd t sat d a }
  | 0x0B => do
      let t ← tyIn signedTys F
      let sat := flag F 5
      only F 0x03F
      some { cls := .a, d := (.g t.width false), a := (.v t.width), b := .no, c := .no, prod := some t.width
             make := fun gd d a _ _ => .abs gd t sat d a }
  | 0x0C => do
      let t ← tyIn intTys F
      only F 0x01F
      some { cls := .a, d := (.g t.width false), a := (.v t.width), b := (.v t.width), c := .no, prod := some t.width
             make := fun gd d a b _ => .min gd t d a b
             makeImm := some (fun gd d a imm => .minImm gd t d a imm) }
  | 0x0D => do
      let t ← tyIn intTys F
      only F 0x01F
      some { cls := .a, d := (.g t.width false), a := (.v t.width), b := (.v t.width), c := .no, prod := some t.width
             make := fun gd d a b _ => .max gd t d a b
             makeImm := some (fun gd d a imm => .maxImm gd t d a imm) }
  | 0x0E => do
      let t ← tyIn [.n32, .n64] F
      let sh ← finOf 8 (fld F 5 3)
      only F 0x0FF
      some { cls := .a, d := (.g t.width false), a := (.v t.width), b := (.v .w32), c := .no, prod := some t.width
             make := fun gd d a b _ => .lea gd t sh d a b
             makeImm := some (fun gd d a imm => .leaImm gd t sh d a imm) }
  | 0x0F => do
      let t ← tyIn quadTys F
      let inv := flag F 8
      let pn ← finOf 8 (fld F 5 3)
      only F 0x1FF
      some { cls := .a, d := (.g t.width false), a := (.cap t.width), b := (.cap t.width), c := .no, prod := some t.width
             make := fun gd d a b _ => .sel gd t inv pn d a b
             makeImm := if t ∈ [.b128] then none else some (fun gd d a imm => .selImm gd t inv pn d a imm) }
  | _ => none

/-- Opcodes 0x10 to 0x1F of R66, with the types and options of R72. -/
def row1 (op F _ver : Nat) (_cNone : Bool) : Option Row :=
  match op with
  | 0x10 => do
      let t ← tyIn bitTys F
      only F 0x01F
      some { cls := .a, d := (.g t.width false), a := (.v t.width), b := (.v t.width), c := .no, prod := some t.width
             make := fun gd d a b _ => .and gd t d a b
             makeImm := some (fun gd d a imm => .andImm gd t d a imm) }
  | 0x11 => do
      let t ← tyIn bitTys F
      only F 0x01F
      some { cls := .a, d := (.g t.width false), a := (.v t.width), b := (.v t.width), c := .no, prod := some t.width
             make := fun gd d a b _ => .or gd t d a b
             makeImm := some (fun gd d a imm => .orImm gd t d a imm) }
  | 0x12 => do
      let t ← tyIn bitTys F
      only F 0x01F
      some { cls := .a, d := (.g t.width false), a := (.v t.width), b := (.v t.width), c := .no, prod := some t.width
             make := fun gd d a b _ => .xor gd t d a b
             makeImm := some (fun gd d a imm => .xorImm gd t d a imm) }
  | 0x13 => do
      let t ← tyIn bitTys F
      only F 0x01F
      some { cls := .a, d := (.g t.width false), a := (.v t.width), b := (.v t.width), c := .no, prod := some t.width
             make := fun gd d a b _ => .andn gd t d a b
             makeImm := some (fun gd d a imm => .andnImm gd t d a imm) }
  | 0x14 => do
      let t ← tyIn bitTys F
      only F 0x01F
      some { cls := .a, d := (.g t.width false), a := (.v t.width), b := .no, c := .no, prod := some t.width
             make := fun gd d a _ _ => .not gd t d a }
  | 0x15 => do
      let t ← tyIn bitTys F
      only F 0x01F
      some { cls := .a, d := (.g t.width false), a := (.v t.width), b := (.v .w32), c := .no, prod := some t.width
             make := fun gd d a b _ => .shl gd t d a b
             makeImm := some (fun gd d a imm => .shlImm gd t d a imm) }
  | 0x16 => do
      let t ← tyIn bitTys F
      only F 0x01F
      some { cls := .a, d := (.g t.width false), a := (.v t.width), b := (.v .w32), c := .no, prod := some t.width
             make := fun gd d a b _ => .shr gd t d a b
             makeImm := some (fun gd d a imm => .shrImm gd t d a imm) }
  | 0x17 => do
      let t ← tyIn bitTys F
      only F 0x01F
      some { cls := .a, d := (.g t.width false), a := (.v t.width), b := (.v .w32), c := .no, prod := some t.width
             make := fun gd d a b _ => .sar gd t d a b
             makeImm := some (fun gd d a imm => .sarImm gd t d a imm) }
  | 0x18 => do
      let t ← tyIn bitTys F
      only F 0x01F
      some { cls := .a, d := (.g t.width false), a := (.v t.width), b := (.v .w32), c := .no, prod := some t.width
             make := fun gd d a b _ => .rol gd t d a b
             makeImm := some (fun gd d a imm => .rolImm gd t d a imm) }
  | 0x19 => do
      let t ← tyIn wordTys F
      only F 0x01F
      some { cls := .a, d := (.g t.width false), a := (.v t.width), b := (.v .w32), c := .no, prod := some t.width
             make := fun gd d a b _ => .bfx gd t d a b
             makeImm := some (fun gd d a imm => .bfxImm gd t d a imm) }
  | 0x1A => do
      let t ← tyIn bitTys F
      only F 0x01F
      some { cls := .a, d := (.g t.width false), a := (.v t.width), b := (.v t.width), c := (.v .w32), prod := some t.width
             make := fun gd d a b c => .bfi gd t d a b c }
  | 0x1B => do
      let t ← tyIn bitTys F
      only F 0x01F
      some { cls := .a, d := (.g t.width false), a := (.v t.width), b := .no, c := .no, prod := some t.width
             make := fun gd d a _ _ => .bfr gd t d a }
  | 0x1C => do
      let t ← tyIn bitTys F
      only F 0x01F
      some { cls := .a, d := (.g .w32 false), a := (.v t.width), b := .no, c := .no, prod := some .w32
             make := fun gd d a _ _ => .popc gd t d a }
  | 0x1D => do
      let t ← tyIn bitTys F
      only F 0x01F
      some { cls := .a, d := (.g .w32 false), a := (.v t.width), b := .no, c := .no, prod := some .w32
             make := fun gd d a _ _ => .clz gd t d a }
  | 0x1E => do
      let t ← tyIn bitTys F
      only F 0x01F
      some { cls := .a, d := (.g .w32 false), a := (.v t.width), b := .no, c := .no, prod := some .w32
             make := fun gd d a _ _ => .ctz gd t d a }
  | 0x1F => do
      let t ← tyIn intTys F
      let pd ← finOf 7 (fld F 9 3)
      let cond ← Cond.ofInt (fld F 5 4)
      some { cls := .a, d := (.g .w32 false), a := (.v t.width), b := (.v t.width), c := .no, prod := some .w32
             make := fun gd d a b _ => .cmp gd t pd cond d a b
             makeImm := some (fun gd d a imm => .cmpImm gd t pd cond d a imm) }
  | _ => none

/-- Opcodes 0x20 to 0x2F of R66, with the types and options of R72. -/
def row2 (op F _ver : Nat) (_cNone : Bool) : Option Row :=
  match op with
  | 0x20 => do
      let t ← tyIn quadTys F
      only F 0x01F
      some { cls := .a, d := (.g t.width false), a := (.move t.width), b := .no, c := .no, prod := some t.width
             make := fun gd d a _ _ => .mov gd t d a }
  | 0x21 => do
      let t ← tyIn bitTys F
      let pos ← Pos.ofCode t (fld F 5 2)
      only F 0x07F
      some { cls := .a, d := (.g t.width false), a := .no, b := (.v t.width), c := .no, prod := some t.width
             make := fun gd d _ b _ => .movi gd t pos d b
             makeImm := some (fun gd d _ imm => .moviImm gd t pos d imm) }
  | 0x22 =>
    if fld F 0 3 = 0 then do
      let pd ← finOf 7 (fld F 9 3)
      let pa ← finOf 8 (fld F 6 3)
      let pb ← finOf 8 (fld F 3 3)
      some { cls := .a, d := (.g .w32 false), a := .no, b := .no, c := .no, prod := some .w32
             make := fun gd d _ _ _ => .pand gd pd pa pb d }
    else if fld F 0 3 = 2 then do
      let pd ← finOf 7 (fld F 9 3)
      let pa ← finOf 8 (fld F 6 3)
      let pb ← finOf 8 (fld F 3 3)
      some { cls := .a, d := (.g .w32 false), a := .no, b := .no, c := .no, prod := some .w32
             make := fun gd d _ _ _ => .por gd pd pa pb d }
    else if fld F 0 3 = 4 then do
      let pd ← finOf 7 (fld F 9 3)
      let pa ← finOf 8 (fld F 6 3)
      let pb ← finOf 8 (fld F 3 3)
      some { cls := .a, d := (.g .w32 false), a := .no, b := .no, c := .no, prod := some .w32
             make := fun gd d _ _ _ => .pxor gd pd pa pb d }
    else if fld F 0 6 = 6 then do
      let pd ← finOf 7 (fld F 9 3)
      let pa ← finOf 8 (fld F 6 3)
      some { cls := .a, d := (.g .w32 false), a := .no, b := .no, c := .no, prod := some .w32
             make := fun gd d _ _ _ => .pnot gd pd pa d }
    else none
  | 0x23 => do
      let t ← tyIn floatTys F
      let rnd ← Rnd.ofCode (fld F 5 2)
      only F 0x07F
      some { cls := .a, d := (.g t.width false), a := (.v t.width), b := (.v t.width), c := .no, prod := some t.width
             make := fun gd d a b _ => .fadd gd t rnd d a b
             makeImm := if t ∈ [.f16, .bf16] then none else some (fun gd d a imm => .faddImm gd t rnd d a imm) }
  | 0x24 => do
      let t ← tyIn float3Tys F
      let rnd ← Rnd.ofCode (fld F 5 2)
      only F 0x07F
      some { cls := .a, d := (.g t.width false), a := (.v t.width), b := (.v t.width), c := .no, prod := some t.width
             make := fun gd d a b _ => .fsub gd t rnd d a b
             makeImm := if t ∈ [.f16, .bf16] then none else some (fun gd d a imm => .fsubImm gd t rnd d a imm) }
  | 0x25 => do
      let t ← tyIn floatTys F
      let rnd ← Rnd.ofCode (fld F 5 2)
      only F 0x07F
      some { cls := .a, d := (.g t.width false), a := (.v t.width), b := (.v t.width), c := .no, prod := some t.width
             make := fun gd d a b _ => .fmul gd t rnd d a b
             makeImm := if t ∈ [.f16, .bf16] then none else some (fun gd d a imm => .fmulImm gd t rnd d a imm) }
  | 0x26 => do
      let t ← tyIn floatTys F
      let rnd ← Rnd.ofCode (fld F 5 2)
      only F 0x07F
      some { cls := .a, d := (.g t.width false), a := (.v t.width), b := (.v t.width), c := (.v t.width), prod := some t.width
             make := fun gd d a b c => .fma gd t rnd d a b c }
  | 0x27 =>
    if fld F 5 2 = 0 then do
      let t ← tyIn float3Tys F
      only F 0x07F
      some { cls := .a, d := (.g t.width false), a := (.v t.width), b := (.v t.width), c := .no, prod := some t.width
             make := fun gd d a b _ => .fmin gd t d a b
             makeImm := if t ∈ [.f16, .bf16] then none else some (fun gd d a imm => .fminImm gd t d a imm) }
    else if fld F 5 2 = 1 then do
      let t ← tyIn float3Tys F
      only F 0x07F
      some { cls := .a, d := (.g t.width false), a := (.v t.width), b := (.v t.width), c := .no, prod := some t.width
             make := fun gd d a b _ => .fmax gd t d a b
             makeImm := if t ∈ [.f16, .bf16] then none else some (fun gd d a imm => .fmaxImm gd t d a imm) }
    else if fld F 5 2 = 2 then do
      let t ← tyIn float3Tys F
      only F 0x07F
      some { cls := .a, d := (.g t.width false), a := (.v t.width), b := (.v t.width), c := .no, prod := some t.width
             make := fun gd d a b _ => .fminm gd t d a b
             makeImm := if t ∈ [.f16, .bf16] then none else some (fun gd d a imm => .fminmImm gd t d a imm) }
    else if fld F 5 2 = 3 then do
      let t ← tyIn float3Tys F
      only F 0x07F
      some { cls := .a, d := (.g t.width false), a := (.v t.width), b := (.v t.width), c := .no, prod := some t.width
             make := fun gd d a b _ => .fmaxm gd t d a b
             makeImm := if t ∈ [.f16, .bf16] then none else some (fun gd d a imm => .fmaxmImm gd t d a imm) }
    else none
  | 0x28 => do
      let t ← tyIn float3Tys F
      let pd ← finOf 7 (fld F 9 3)
      let cond ← Cond.ofCode (fld F 5 4)
      some { cls := .a, d := (.g .w32 false), a := (.v t.width), b := (.v t.width), c := .no, prod := some .w32
             make := fun gd d a b _ => .fcmp gd t pd cond d a b
             makeImm := if t ∈ [.f16, .bf16] then none else some (fun gd d a imm => .fcmpImm gd t pd cond d a imm) }
  | 0x29 => do
      let t ← tyIn float3Tys F
      let sop ← finOf 3 (fld F 5 2)
      only F 0x07F
      some { cls := .a, d := (.g t.width false), a := (.v t.width), b := (.v t.width), c := .no, prod := some t.width
             make := fun gd d a b _ => .fsgn gd t sop d a b }
  | 0x2A => do
      let t ← tyIn float3Tys F
      only F 0x01F
      some { cls := .a, d := (.g .w32 false), a := (.v t.width), b := .no, c := .no, prod := some .w32
             make := fun gd d a _ _ => .fclass gd t d a }
  | 0x2B => do
      let t ← tyIn float3Tys F
      let rnd ← Rnd.ofCode (fld F 5 2)
      only F 0x07F
      some { cls := .a, d := (.g t.width false), a := (.v t.width), b := .no, c := .no, prod := some t.width
             make := fun gd d a _ _ => .frnd gd t rnd d a }
  | 0x2C => do
      let t ← tyIn cvtTys F
      let ts ← Ty.ofSource (fld F 5 4)
      let rnd ← Rnd.ofCode (fld F 9 2)
      let sat := flag F 11
      convertRow sat rnd t ts
  | 0x2D =>
    if fld F 5 3 = 0 then do
      let t ← tyIn smpTys F
      let rnd ← Rnd.ofCode (fld F 8 2)
      only F 0x3FF
      some { cls := .a, d := (.g t.width false), a := (.v t.width), b := .no, c := .no, prod := some t.width
             make := fun gd d a _ _ => .rcp gd t rnd d a }
    else if fld F 5 3 = 1 then do
      let t ← tyIn smpTys F
      only F 0x0FF
      some { cls := .a, d := (.g t.width false), a := (.v t.width), b := .no, c := .no, prod := some t.width
             make := fun gd d a _ _ => .rsq gd t d a }
    else if fld F 5 3 = 2 then do
      let t ← tyIn smpTys F
      let rnd ← Rnd.ofCode (fld F 8 2)
      only F 0x3FF
      some { cls := .a, d := (.g t.width false), a := (.v t.width), b := .no, c := .no, prod := some t.width
             make := fun gd d a _ _ => .sqrt gd t rnd d a }
    else if fld F 5 3 = 3 then do
      let t ← tyIn smpTys F
      only F 0x0FF
      some { cls := .a, d := (.g t.width false), a := (.v t.width), b := .no, c := .no, prod := some t.width
             make := fun gd d a _ _ => .ex2 gd t d a }
    else if fld F 5 3 = 4 then do
      let t ← tyIn smpTys F
      only F 0x0FF
      some { cls := .a, d := (.g t.width false), a := (.v t.width), b := .no, c := .no, prod := some t.width
             make := fun gd d a _ _ => .lg2 gd t d a }
    else if fld F 5 3 = 5 then do
      let t ← tyIn smpTys F
      only F 0x0FF
      some { cls := .a, d := (.g t.width false), a := (.v t.width), b := .no, c := .no, prod := some t.width
             make := fun gd d a _ _ => .sin gd t d a }
    else if fld F 5 3 = 6 then do
      let t ← tyIn smpTys F
      only F 0x0FF
      some { cls := .a, d := (.g t.width false), a := (.v t.width), b := .no, c := .no, prod := some t.width
             make := fun gd d a _ _ => .cos gd t d a }
    else none
  | 0x2E => do
      let t ← tyIn halfTys F
      let rnd ← Rnd.ofCode (fld F 5 2)
      only F 0x07F
      some { cls := .a, d := (.g .w32 false), a := (.v .w32), b := (.v .w32), c := .no, prod := some .w32
             make := fun gd d a b _ => .hadd2 gd t rnd d a b }
  | 0x2F => do
      let t ← tyIn halfTys F
      let rnd ← Rnd.ofCode (fld F 5 2)
      only F 0x07F
      some { cls := .a, d := (.g .w32 false), a := (.v .w32), b := (.v .w32), c := .no, prod := some .w32
             make := fun gd d a b _ => .hmul2 gd t rnd d a b }
  | _ => none

/-- Opcodes 0x30 to 0x3F of R66, with the types and options of R72. -/
def row3 (op F ver : Nat) (cNone : Bool) : Option Row :=
  match op with
  | 0x30 => do
      let t ← tyIn halfTys F
      let rnd ← Rnd.ofCode (fld F 5 2)
      only F 0x07F
      some { cls := .a, d := (.g .w32 false), a := (.v .w32), b := (.v .w32), c := (.v .w32), prod := some .w32
             make := fun gd d a b c => .hfma2 gd t rnd d a b c }
  | 0x31 => do
      since2 ver
      let t ← tyIn float3Tys F
      let rnd ← Rnd.ofCode (fld F 5 2)
      only F 0x07F
      some { cls := .a, d := (.g .w32 false), a := (.quad true true), b := (.v .w32), c := .no, prod := some .w32
             make := fun gd d a b _ => .qpack gd t rnd d a b }
  | 0x32 => do
      since2 ver
      let t ← tyIn float3Tys F
      only F 0x01F
      some { cls := .a, d := (.g .w128 false), a := (.v .w32), b := (.v .w32), c := .no, prod := some .w128
             make := fun gd d a b _ => .qunpk gd t d a b }
  | 0x33 => do
      since2 ver
      let t ← tyIn float3Tys F
      only F 0x01F
      some { cls := .a, d := (.g .w64 false), a := (.v t.width), b := (.v .w32), c := .no, prod := some .w64
             make := fun gd d a b _ => .qscale gd t d a b }
  | 0x34 => do
      since2 ver
      let t ← tyIn sparseTys F
      let n ← finOf 3 (fld F 5 2)
      only F 0x07F
      some { cls := .a, d := (.g (if cNone then .w32 else .w128) false), a := (.quad true true), b := (if t.bytes = 2 then .v .w64 else .no), c := .opt32, prod := some (if cNone then .w32 else .w128)
             make := fun gd d a b c => .spcmp gd t n d a b c }
  | 0x35 => do
      since2 ver
      let t ← tyIn sparseTys F
      let n ← finOf 3 (fld F 5 2)
      only F 0x07F
      some { cls := .a, d := (.g .w128 false), a := (.quad true true), b := (.v .w32), c := (if t.bytes = 2 then .v .w32 else .no), prod := some .w128
             make := fun gd d a b c => .spexp gd t n d a b c }
  | 0x37 => do
      noTy F
      only F 0x01F
      some { cls := .a, d := .no, a := .no, b := .disp, c := .no, ctl := true, last := true
             make := fun gd _ _ b _ => .br gd b
             makeImm := some (fun gd _ _ imm => .brImm gd imm) }
  | 0x38 => do
      noTy F
      only F 0x01F
      some { cls := .a, d := .no, a := (.v .w64), b := .no, c := .no, ctl := true, last := true
             make := fun gd _ a _ _ => .brx gd a }
  | 0x39 => do
      noTy F
      only F 0x01F
      some { cls := .a, d := (.g .w64 false), a := .no, b := .disp, c := .no, ctl := true, last := true
             make := fun gd d _ b _ => .call gd d b
             makeImm := some (fun gd d _ imm => .callImm gd d imm) }
  | 0x3A => do
      noTy F
      only F 0x01F
      some { cls := .a, d := (.g .w64 false), a := (.v .w64), b := .no, c := .no, ctl := true, last := true
             make := fun gd d a _ _ => .callx gd d a }
  | 0x3B => do
      noTy F
      only F 0x01F
      some { cls := .a, d := .no, a := (.v .w64), b := .no, c := .no, ctl := true, last := true
             make := fun gd _ a _ _ => .ret gd a }
  | 0x3C => do
      noTy F
      only F 0x01F
      some { cls := .a, d := .no, a := .no, b := .no, c := .no, ctl := true, last := true
             make := fun gd _ _ _ _ => .exit gd }
  | 0x3D => do
      noTy F
      only F 0x01F
      some { cls := .a, d := .no, a := .no, b := .no, c := .no, ctl := true, last := true
             make := fun gd _ _ _ _ => .yield gd }
  | 0x3E => do
      noTy F
      only F 0x01F
      some { cls := .a, d := .no, a := (.quad false false), b := (.v .w32), c := .no, ctl := true, last := true
             make := fun gd _ a b _ => .nap gd a b }
  | 0x3F => do
      noTy F
      only F 0x01F
      some { cls := .a, d := .no, a := .no, b := .no, c := .no, ctl := true, last := true
             make := fun gd _ _ _ _ => .brk gd }
  | _ => none

/-- Opcodes 0x40 to 0x4F of R66, with the types and options of R72. -/
def row4 (op F ver : Nat) (_cNone : Bool) : Option Row :=
  match op with
  | 0x40 => do
      noTy F
      only F 0x01F
      some { cls := .a, d := .key, a := .ks, b := .ks, c := .no, prod := some .w32, key := true
             make := fun _ d a b _ => .kadd d a b
             makeImm := some (fun _ d a imm => .kaddImm d a imm) }
  | 0x41 => do
      noTy F
      only F 0x01F
      some { cls := .a, d := .key, a := .ks, b := .ks, c := .no, prod := some .w32, key := true
             make := fun _ d a b _ => .ksub d a b
             makeImm := some (fun _ d a imm => .ksubImm d a imm) }
  | 0x42 => do
      noTy F
      only F 0x01F
      some { cls := .a, d := .key, a := .ks, b := .ks, c := .no, prod := some .w32, key := true
             make := fun _ d a b _ => .kmul d a b
             makeImm := some (fun _ d a imm => .kmulImm d a imm) }
  | 0x43 => do
      noTy F
      only F 0x01F
      some { cls := .a, d := .key, a := .ks, b := .ks, c := .no, prod := some .w32, key := true
             make := fun _ d a b _ => .kand d a b
             makeImm := some (fun _ d a imm => .kandImm d a imm) }
  | 0x44 => do
      noTy F
      only F 0x01F
      some { cls := .a, d := .key, a := .ks, b := .ks, c := .no, prod := some .w32, key := true
             make := fun _ d a b _ => .kor d a b
             makeImm := some (fun _ d a imm => .korImm d a imm) }
  | 0x45 => do
      noTy F
      only F 0x01F
      some { cls := .a, d := .key, a := .ks, b := .ks, c := .no, prod := some .w32, key := true
             make := fun _ d a b _ => .kxor d a b
             makeImm := some (fun _ d a imm => .kxorImm d a imm) }
  | 0x46 => do
      noTy F
      only F 0x01F
      some { cls := .a, d := .key, a := .ks, b := .ks, c := .no, prod := some .w32, key := true
             make := fun _ d a b _ => .kshl d a b
             makeImm := some (fun _ d a imm => .kshlImm d a imm) }
  | 0x47 => do
      noTy F
      only F 0x01F
      some { cls := .a, d := .key, a := .ks, b := .ks, c := .no, prod := some .w32, key := true
             make := fun _ d a b _ => .kshr d a b
             makeImm := some (fun _ d a imm => .kshrImm d a imm) }
  | 0x48 => do
      noTy F
      only F 0x01F
      some { cls := .a, d := .key, a := .ks, b := .no, c := .no, prod := some .w32, key := true
             make := fun _ d a _ _ => .kmov d a }
  | 0x49 => do
      noTy F
      let pos ← boolOf (fld F 5 2)
      only F 0x07F
      some { cls := .a, d := .key, a := .no, b := .ks, c := .no, prod := some .w32, key := true
             make := fun _ d _ b _ => .kmovi pos d b
             makeImm := some (fun _ d _ imm => .kmoviImm pos d imm) }
  | 0x4A => do
      let t ← tyIn [.i32, .n32] F
      let cond ← Cond.ofInt (fld F 5 4)
      only F 0x1FF
      some { cls := .a, d := .key, a := .ks, b := .ks, c := .no, prod := some .w32, key := true
             make := fun _ d a b _ => .kcmp t cond d a b
             makeImm := some (fun _ d a imm => .kcmpImm t cond d a imm) }
  | 0x4B => do
      noTy F
      let sh ← finOf 8 (fld F 5 3)
      only F 0x0FF
      some { cls := .a, d := .key, a := .ks, b := .ks, c := .no, prod := some .w32, key := true
             make := fun _ d a b _ => .klea sh d a b
             makeImm := some (fun _ d a imm => .kleaImm sh d a imm) }
  | 0x4C => do
      since2 ver
      noTy F
      only F 0x01F
      some { cls := .a, d := .no, a := .no, b := .no, c := .no, key := true
             make := fun _ _ _ _ _ => .kmerge }
  | _ => none

/-- Opcodes 0x50 to 0x5F of R66, with the types and options of R72. -/
def row5 (op F ver : Nat) (_cNone : Bool) : Option Row :=
  match op with
  | 0x50 => do
      let t ← tyIn bitTys F
      only F 0x01F
      some { cls := .x, d := (.g t.width false), a := (.v t.width), b := (.v .w32), c := .mask
             make := fun gd d a b c => .xpull gd t d a b c
             makeImm := some (fun gd d a imm => .xpullImm gd t d a imm) }
  | 0x51 => do
      let t ← tyIn bitTys F
      let cm := flag F 5
      only F 0x03F
      some { cls := .x, d := (.g t.width false), a := (.v t.width), b := (.v .w32), c := .mask, extra := (if cm then some (if t = .b32 then 1 else 2) else none)
             make := fun gd d a b c => .xpush gd t cm d a b c }
  | 0x52 => do
      noTy F
      let vop ← finOf 3 (fld F 5 2)
      only F 0x07F
      some { cls := .x, d := (.g .w32 false), a := (.v .w32), b := .no, c := .mask
             make := fun gd d a _ c => .xvote gd vop d a c }
  | 0x53 => do
      let t ← tyIn bitTys F
      only F 0x01F
      some { cls := .x, d := (.g t.width false), a := (.v t.width), b := .no, c := .mask
             make := fun gd d a _ c => .xfirst gd t d a c }
  | 0x54 => do
      let rop ← finOf 6 (fld F 5 3)
      let t ← tyIn (reduceTys rop) F
      only F 0x0FF
      some { cls := .x, d := (.g .w32 false), a := (.v .w32), b := .no, c := .mask
             make := fun gd d a _ c => .xred gd t rop d a c }
  | 0x55 => do
      let exc := flag F 8
      let rop ← finOf 6 (fld F 5 3)
      let t ← tyIn (reduceTys rop) F
      only F 0x1FF
      some { cls := .x, d := (.g .w32 false), a := (.v .w32), b := .no, c := .mask
             make := fun gd d a _ c => .xscan gd t exc rop d a c }
  | 0x56 => do
      let t ← tyIn bitTys F
      only F 0x01F
      some { cls := .x, d := (.g .w32 false), a := (.v t.width), b := .no, c := .mask
             make := fun gd d a _ c => .xmatch gd t d a c }
  | 0x57 => do
      noTy F
      only F 0x01F
      some { cls := .x, d := .no, a := .no, b := .no, c := .mask
             make := fun gd _ _ _ c => .rdv gd c }
  | 0x58 => do
      since2 ver
      noTy F
      only F 0x01F
      some { cls := .x, d := (.g .w128 false), a := .key9, b := .kreg, c := .mask
             make := fun gd d a b c => .rast gd d a b c }
  | 0x59 =>
    if fld F 5 2 = 0 then do
      noTy F
      only F 0x07F
      some { cls := .x, d := (.h true), a := (.quad false false), b := .greg, c := .kreg
             make := fun gd d a b c => .mma gd d a b c }
    else if fld F 5 2 = 1 then do
      noTy F
      only F 0x07F
      some { cls := .x, d := (.h true), a := (.quad false false), b := .greg, c := .kreg
             make := fun gd d a b c => .mmaSp gd d a b c }
    else if fld F 5 2 = 2 then do
      since2 ver
      noTy F
      only F 0x07F
      some { cls := .x, d := (.h true), a := (.quad false false), b := .greg, c := .kreg
             make := fun gd d a b c => .mmaSc gd d a b c }
    else none
  | 0x5A => do
      noTy F
      only F 0x01F
      some { cls := .x, d := (.h true), a := (.quad false false), b := .no, c := .no
             make := fun gd d a _ _ => .mzero gd d a }
  | 0x5B => do
      noTy F
      let ch ← finOf 8 (fld F 5 3)
      only F 0x0FF
      some { cls := .x, d := .no, a := (.quad false false), b := (.v .w32), c := .no
             make := fun gd _ a b _ => .chdef gd ch a b }
  | 0x5C => do
      noTy F
      let ch ← finOf 8 (fld F 5 3)
      only F 0x0FF
      some { cls := .x, d := (.h true), a := (.quad false false), b := .no, c := .no
             make := fun gd d a _ _ => .chrun gd ch d a }
  | 0x5F => do
      noTy F
      only F 0x01F
      some { cls := .s, d := (.g .w64 false), a := .no, b := (.v .w32), c := .no
             make := fun gd d _ b _ => .perfRd gd d b }
  | _ => none

/-- Opcodes 0x60 to 0x6F of R66, with the types and options of R72. -/
def row6 (op F ver : Nat) (_cNone : Bool) : Option Row :=
  match op with
  | 0x60 => do
      let t ← tyIn loadTys F
      let hint ← finOf 3 (fld F 5 2)
      only F 0x07F
      some { cls := .m, d := (.g t.width false), a := (.quad false false), b := (.v .w32), c := .no
             make := fun gd d a b _ => .ld gd t hint d a b
             makeImm := if t ∈ [.b128] then none else some (fun gd d a imm => .ldImm gd t hint d a imm) }
  | 0x61 => do
      let t ← tyIn loadTys F
      let hint ← finOf 3 (fld F 5 2)
      only F 0x07F
      some { cls := .m, d := .no, a := (.quad false false), b := (.v .w32), c := (.store t.width)
             make := fun gd _ a b c => .st gd t hint a b c }
  | 0x62 => do
      let t ← tyIn quadTys F
      let hint ← finOf 3 (fld F 5 2)
      only F 0x07F
      some { cls := .m, d := (.g t.width false), a := .kquad, b := .ks, c := .no
             make := fun gd d a b _ => .ldK gd t hint d a b
             makeImm := if t ∈ [.b128] then none else some (fun gd d a imm => .ldKImm gd t hint d a imm) }
  | 0x63 => do
      let scope ← Scope.ofCode (fld F 9 3)
      let aop ← finOf 10 (fld F 5 4)
      let t ← tyIn (atomTys aop) F
      some { cls := .m, d := (.g t.width false), a := (.quad false false), b := (.v .w32), c := (if aop.val = 7 then .group (if t.width = .w32 then .w64 else .w128) else .v t.width)
             make := fun gd d a b c => .atom gd t scope aop d a b c }
  | 0x64 => do
      let _ ← tyIn [.b64] F
      let scope ← Scope.ofCode (fld F 9 3)
      only F 0xE1F
      some { cls := .m, d := (.g .w64 false), a := (.quad false false), b := (.v .w32), c := .no
             make := fun gd d a b _ => .acq gd scope d a b }
  | 0x65 => do
      let _ ← tyIn [.b64] F
      let scope ← Scope.ofCode (fld F 9 3)
      only F 0xE1F
      some { cls := .m, d := .no, a := (.quad false false), b := (.v .w32), c := (.v .w64)
             make := fun gd _ a b c => .rel gd scope a b c }
  | 0x66 => do
      noTy F
      let scope ← Scope.ofCode (fld F 9 3)
      only F 0xE1F
      some { cls := .m, d := .no, a := .no, b := .no, c := .no
             make := fun gd _ _ _ _ => .fence gd scope }
  | 0x67 => do
      noTy F
      let scope ← Scope.ofCode (fld F 9 3)
      only F 0xE1F
      some { cls := .m, d := .no, a := .no, b := .no, c := .no
             make := fun gd _ _ _ _ => .icinv gd scope }
  | 0x68 =>
    if fld F 5 1 = 0 then do
      noTy F
      only F 0x03F
      some { cls := .m, d := .no, a := (.quad false false), b := (.v .w32), c := .no
             make := fun gd _ a b _ => .pf gd a b
             makeImm := some (fun gd _ a imm => .pfImm gd a imm) }
    else if fld F 5 1 = 1 then do
      noTy F
      only F 0x03F
      some { cls := .m, d := .no, a := (.quad false false), b := (.v .w32), c := .no
             make := fun gd _ a b _ => .pfi gd a b
             makeImm := some (fun gd _ a imm => .pfiImm gd a imm) }
    else none
  | 0x69 =>
    if fld F 5 1 = 0 then do
      noTy F
      only F 0x03F
      some { cls := .m, d := .no, a := (.quad false false), b := (.v .w32), c := .opt32
             make := fun gd _ a b c => .stashWb gd a b c }
    else if fld F 5 1 = 1 then do
      noTy F
      only F 0x03F
      some { cls := .m, d := .no, a := (.quad false false), b := (.v .w32), c := .opt32
             make := fun gd _ a b c => .stashInv gd a b c }
    else none
  | 0x6A =>
    if fld F 5 3 = 0 then do
      noTy F
      only F 0x0FF
      some { cls := .m, d := (.g .w128 false), a := (.quad false false), b := (.v .w64), c := (.v .w32)
             make := fun gd d a b c => .capNew gd d a b c }
    else if fld F 5 3 = 1 then do
      noTy F
      only F 0x0FF
      some { cls := .m, d := (.g .w128 false), a := (.quad false false), b := (.v .w64), c := .no
             make := fun gd d a b _ => .capSet gd d a b }
    else if fld F 5 3 = 2 then do
      noTy F
      only F 0x0FF
      some { cls := .m, d := (.g .w128 false), a := (.quad false false), b := (.v .w32), c := .no
             make := fun gd d a b _ => .capAdd gd d a b }
    else if fld F 5 3 = 3 then do
      noTy F
      only F 0x0FF
      some { cls := .m, d := (.g .w128 false), a := (.quad false false), b := (.v .w32), c := .no
             make := fun gd d a b _ => .capBnd gd d a b }
    else if fld F 5 3 = 4 then do
      noTy F
      only F 0x0FF
      some { cls := .m, d := (.g .w128 false), a := (.quad false false), b := (.v .w32), c := .no
             make := fun gd d a b _ => .capPrm gd d a b }
    else if fld F 5 3 = 5 then do
      noTy F
      only F 0x0FF
      some { cls := .m, d := (.g .w32 false), a := (.quad false false), b := (.v .w32), c := (.v .w32)
             make := fun gd d a b c => .capChk gd d a b c }
    else if fld F 5 3 = 6 then do
      noTy F
      only F 0x0FF
      some { cls := .m, d := (.g .w64 false), a := (.quad false false), b := (.v .w32), c := .no
             make := fun gd d a b _ => .capGet gd d a b }
    else none
  | 0x6B =>
    if fld F 5 3 = 0 then do
      noTy F
      only F 0x0FF
      some { cls := .e, d := (.h false), a := (.quad false false), b := (.quad false false), c := (.quad false false)
             make := fun gd d a b c => .cpBlk gd d a b c }
    else if fld F 5 3 = 1 then do
      noTy F
      only F 0x0FF
      some { cls := .e, d := (.h false), a := (.quad false false), b := (.quad false false), c := (.quad false false)
             make := fun gd d a b c => .cpTile gd d a b c }
    else if fld F 5 3 = 2 then do
      noTy F
      only F 0x0FF
      some { cls := .e, d := (.h false), a := (.quad false false), b := (.quad false false), c := (.quad false false)
             make := fun gd d a b c => .cpGat gd d a b c }
    else if fld F 5 3 = 3 then do
      noTy F
      only F 0x0FF
      some { cls := .e, d := (.h false), a := (.quad false false), b := (.quad false false), c := (.quad false false)
             make := fun gd d a b c => .cpSct gd d a b c }
    else if fld F 5 3 = 4 then do
      noTy F
      only F 0x0FF
      some { cls := .e, d := (.h false), a := (.quad false false), b := (.quad false false), c := (.quad false false)
             make := fun gd d a b c => .cpMc gd d a b c }
    else if fld F 5 3 = 5 then do
      noTy F
      only F 0x0FF
      some { cls := .e, d := (.h false), a := (.quad false false), b := .no, c := (.quad false false)
             make := fun gd d a _ c => .cpFill gd d a c }
    else none
  | 0x6C =>
    if fld F 5 2 = 0 then do
      noTy F
      only F 0x07F
      some { cls := .e, d := .no, a := (.v .w32), b := .no, c := .no, last := true
             make := fun gd _ a _ _ => .hwait gd a }
    else if fld F 5 2 = 1 then do
      noTy F
      only F 0x07F
      some { cls := .e, d := (.g .w64 true), a := (.v .w32), b := .no, c := .no
             make := fun gd d a _ _ => .htest gd d a }
    else if fld F 5 2 = 2 then do
      noTy F
      only F 0x07F
      some { cls := .e, d := .no, a := (.v .w32), b := .no, c := .no
             make := fun gd _ a _ _ => .hcancel gd a }
    else if fld F 5 2 = 3 then do
      noTy F
      only F 0x07F
      some { cls := .e, d := (.h true), a := .hmov, b := .no, c := .no
             make := fun gd d a _ _ => .hmov gd d a }
    else none
  | 0x6D =>
    if fld F 5 2 = 0 then do
      noTy F
      only F 0x07F
      some { cls := .e, d := (.h true), a := (.quad false false), b := (.v .w32), c := .no
             make := fun gd d a b _ => .rayGo gd d a b }
    else if fld F 5 2 = 1 then do
      noTy F
      only F 0x07F
      some { cls := .e, d := (.h true), a := (.v .w32), b := .no, c := .no
             make := fun gd d a _ _ => .rayNext gd d a }
    else if fld F 5 2 = 2 then do
      noTy F
      only F 0x07F
      some { cls := .e, d := .no, a := (.v .w32), b := .no, c := .no
             make := fun gd _ a _ _ => .rayEnd gd a }
    else none
  | 0x6E => do
      since2 ver
      noTy F
      only F 0x01F
      some { cls := .e, d := (.h false), a := (.quad false false), b := (.quad false false), c := (.quad false false)
             make := fun gd d a b c => .meSrch gd d a b c }
  | 0x6F =>
    if fld F 5 1 = 0 then do
      let t ← tyIn smpTys F
      only F 0x03F
      some { cls := .e, d := (.g (if t = .f32 then .w128 else .w64) true), a := (.quad false false), b := (.v .w64), c := .hOrNo
             make := fun gd d a b c => .smp gd t d a b c }
    else if fld F 5 1 = 1 then do
      let t ← tyIn smpTys F
      only F 0x03F
      some { cls := .e, d := (.g (if t = .f32 then .w128 else .w64) true), a := (.quad false false), b := (.v .w64), c := .hOrNo
             make := fun gd d a b c => .smpG gd t d a b c }
    else none
  | _ => none

/-- Opcodes 0x70 to 0x7F of R66, with the types and options of R72. -/
def row7 (op F _ver : Nat) (_cNone : Bool) : Option Row :=
  match op with
  | 0x70 => do
      let t ← tyIn [.f16, .f32, .b32] F
      only F 0x01F
      some { cls := .e, d := (.h false), a := (.quad false false), b := (.v .w64), c := (if t = .f32 then .quad false false else if t = .f16 then .v .w64 else .v .w32)
             make := fun gd d a b c => .imgSt gd t d a b c }
  | 0x71 => do
      noTy F
      only F 0x01F
      some { cls := .s, d := .no, a := (.quad false false), b := (.v .w32), c := .tab64
             make := fun gd _ a b c => .bind gd a b c }
  | 0x72 => do
      noTy F
      only F 0x01F
      some { cls := .s, d := .no, a := (.v .w32), b := .no, c := .no
             make := fun gd _ a _ _ => .unbind gd a }
  | 0x73 => do
      noTy F
      only F 0x01F
      some { cls := .s, d := .no, a := .tab64, b := (.v .w32), c := (.v .w32)
             make := fun gd _ a b c => .tlbinv gd a b c }
  | 0x74 => do
      noTy F
      only F 0x01F
      some { cls := .s, d := .no, a := (.v .w32), b := .no, c := .no
             make := fun gd _ a _ _ => .keyz gd a }
  | 0x75 => do
      noTy F
      only F 0x01F
      some { cls := .s, d := .no, a := .no, b := .no, c := .no
             make := fun gd _ _ _ _ => .ptsync gd }
  | 0x76 => do
      let t ← tyIn bitTys F
      only F 0x01F
      some { cls := .s, d := (.g t.width false), a := .no, b := (.v .w32), c := .no
             make := fun gd d _ b _ => .sysr gd t d b
             makeImm := some (fun gd d _ imm => .sysrImm gd t d imm) }
  | 0x77 => do
      let t ← tyIn bitTys F
      only F 0x01F
      some { cls := .s, d := .no, a := (.sysw t.width), b := (.v .w32), c := .no
             make := fun gd _ a b _ => .sysw gd t a b
             makeImm := some (fun gd _ a imm => .syswImm gd t a imm) }
  | 0x78 => do
      noTy F
      only F 0x01F
      some { cls := .s, d := .no, a := .no, b := (.v .w32), c := .no
             make := fun gd _ _ b _ => .trap gd b
             makeImm := some (fun gd _ _ imm => .trapImm gd imm) }
  | 0x79 => do
      noTy F
      only F 0x01F
      some { cls := .s, d := .no, a := .no, b := .no, c := .no, last := true
             make := fun gd _ _ _ _ => .tret gd }
  | 0x7A => do
      noTy F
      only F 0x01F
      some { cls := .s, d := (.g .w32 false), a := .no, b := .no, c := .no
             make := fun gd d _ _ _ => .ckpt gd d }
  | 0x7B =>
    if fld F 5 2 = 0 then do
      noTy F
      only F 0x07F
      some { cls := .s, d := .no, a := (.v .w32), b := (.v .w32), c := .no
             make := fun gd _ a b _ => .barIni gd a b
             makeImm := some (fun gd _ a imm => .barIniImm gd a imm) }
    else if fld F 5 2 = 1 then do
      noTy F
      only F 0x07F
      some { cls := .s, d := (.g .w32 false), a := .opt32, b := (.v .w32), c := .no
             make := fun gd d a b _ => .barArr gd d a b
             makeImm := some (fun gd d a imm => .barArrImm gd d a imm) }
    else if fld F 5 2 = 2 then do
      noTy F
      only F 0x07F
      some { cls := .s, d := .no, a := (.v .w32), b := (.v .w32), c := .no, last := true
             make := fun gd _ a b _ => .barWt gd a b
             makeImm := some (fun gd _ a imm => .barWtImm gd a imm) }
    else if fld F 5 2 = 3 then do
      noTy F
      only F 0x07F
      some { cls := .s, d := (.g .w32 false), a := .opt32, b := (.v .w32), c := .no, last := true
             make := fun gd d a b _ => .barArw gd d a b
             makeImm := some (fun gd d a imm => .barArwImm gd d a imm) }
    else none
  | 0x7C =>
    if fld F 5 5 = 4 then do
      noTy F
      only F 0x3FF
      some { cls := .s, d := .no, a := (.v .w32), b := (.v .w32), c := .no
             make := fun gd _ a b _ => .cntAdd gd a b }
    else if fld F 5 2 = 1 then do
      noTy F
      let lv ← Level.ofCode (fld F 7 3)
      only F 0x3FF
      some { cls := .s, d := (.g .w64 false), a := (.v .w32), b := .no, c := .no
             make := fun gd d a _ _ => .cntRd gd lv d a }
    else if fld F 5 2 = 2 then do
      noTy F
      let lv ← Level.ofCode (fld F 7 3)
      only F 0x3FF
      some { cls := .s, d := .no, a := (.v .w32), b := .no, c := .no, last := true
             make := fun gd _ a _ _ => .cntWt gd lv a }
    else none
  | 0x7D => do
      noTy F
      only F 0x01F
      some { cls := .s, d := (.g .w32 false), a := (.quad false false), b := (.v .w32), c := .no
             make := fun gd d a b _ => .launch gd d a b }
  | 0x7E =>
    if fld F 5 1 = 0 then do
      noTy F
      only F 0x03F
      some { cls := .s, d := (.g .w32 false), a := (.quad false false), b := (.quad false false), c := .no
             make := fun gd d a b _ => .nodePut gd d a b }
    else if fld F 5 1 = 1 then do
      noTy F
      only F 0x03F
      some { cls := .s, d := .no, a := (.quad false false), b := .no, c := .no
             make := fun gd _ a _ _ => .nodeFl gd a }
    else none
  | 0x7F => do
      noTy F
      let lv ← Level.ofCode (fld F 7 3)
      only F 0x39F
      some { cls := .s, d := .no, a := (.v .w32), b := .no, c := .no
             make := fun gd _ a _ _ => .cancel gd lv a }
  | _ => none

/-- The row of a lower-half opcode; type code 0x12 is reserved under version 1 (R66, R74). -/
def lowerRow (op F ver : Nat) (cNone : Bool) : Option Row :=
  match op / 16 with
  | 0 => row0 op F ver cNone
  | 1 => row1 op F ver cNone
  | 2 => row2 op F ver cNone
  | 3 => row3 op F ver cNone
  | 4 => row4 op F ver cNone
  | 5 => row5 op F ver cNone
  | 6 => row6 op F ver cNone
  | 7 => row7 op F ver cNone
  | _ => none

/-- The row of any opcode: an upper-half opcode is the twin of the one 0x80 below, where that one
has a twin for the type (R54, R69). -/
def row (op F ver : Nat) (cNone : Bool) : Option Row :=
  if op < 0x80 then lowerRow op F ver cNone
  else (lowerRow (op - 0x80) F ver true).filter (·.makeImm.isSome)

/-- The opcode, the F field and the operands of an instruction (R53); none for an event. -/
def Instr.fields : Instr → Option Fields
  | .add gd t sat d a b =>
    some ⟨0x01, t.code + sat.toNat * 32, gd, d, a, b, .none, none⟩
  | .addImm gd t sat d a imm =>
    some ⟨0x81, t.code + sat.toNat * 32, gd, d, a, .none, .none, some imm⟩
  | .sub gd t sat d a b =>
    some ⟨0x02, t.code + sat.toNat * 32, gd, d, a, b, .none, none⟩
  | .subImm gd t sat d a imm =>
    some ⟨0x82, t.code + sat.toNat * 32, gd, d, a, .none, .none, some imm⟩
  | .addc gd t pc d a b =>
    some ⟨0x03, t.code + pc.val * 32, gd, d, a, b, .none, none⟩
  | .addcImm gd t pc d a imm =>
    some ⟨0x83, t.code + pc.val * 32, gd, d, a, .none, .none, some imm⟩
  | .subb gd t pc d a b =>
    some ⟨0x04, t.code + pc.val * 32, gd, d, a, b, .none, none⟩
  | .subbImm gd t pc d a imm =>
    some ⟨0x84, t.code + pc.val * 32, gd, d, a, .none, .none, some imm⟩
  | .mul gd t sat d a b =>
    some ⟨0x05, t.code + sat.toNat * 32, gd, d, a, b, .none, none⟩
  | .mulImm gd t sat d a imm =>
    some ⟨0x85, t.code + sat.toNat * 32, gd, d, a, .none, .none, some imm⟩
  | .mulh gd t d a b =>
    some ⟨0x06, t.code, gd, d, a, b, .none, none⟩
  | .mulhImm gd t d a imm =>
    some ⟨0x86, t.code, gd, d, a, .none, .none, some imm⟩
  | .mad gd t sat d a b c =>
    some ⟨0x07, t.code + sat.toNat * 32, gd, d, a, b, c, none⟩
  | .div gd t d a b =>
    some ⟨0x08, t.code, gd, d, a, b, .none, none⟩
  | .divImm gd t d a imm =>
    some ⟨0x88, t.code, gd, d, a, .none, .none, some imm⟩
  | .rem gd t d a b =>
    some ⟨0x09, t.code, gd, d, a, b, .none, none⟩
  | .remImm gd t d a imm =>
    some ⟨0x89, t.code, gd, d, a, .none, .none, some imm⟩
  | .neg gd t sat d a =>
    some ⟨0x0A, t.code + sat.toNat * 32, gd, d, a, .none, .none, none⟩
  | .abs gd t sat d a =>
    some ⟨0x0B, t.code + sat.toNat * 32, gd, d, a, .none, .none, none⟩
  | .min gd t d a b =>
    some ⟨0x0C, t.code, gd, d, a, b, .none, none⟩
  | .minImm gd t d a imm =>
    some ⟨0x8C, t.code, gd, d, a, .none, .none, some imm⟩
  | .max gd t d a b =>
    some ⟨0x0D, t.code, gd, d, a, b, .none, none⟩
  | .maxImm gd t d a imm =>
    some ⟨0x8D, t.code, gd, d, a, .none, .none, some imm⟩
  | .lea gd t sh d a b =>
    some ⟨0x0E, t.code + sh.val * 32, gd, d, a, b, .none, none⟩
  | .leaImm gd t sh d a imm =>
    some ⟨0x8E, t.code + sh.val * 32, gd, d, a, .none, .none, some imm⟩
  | .sel gd t inv pn d a b =>
    some ⟨0x0F, t.code + inv.toNat * 256 + pn.val * 32, gd, d, a, b, .none, none⟩
  | .selImm gd t inv pn d a imm =>
    some ⟨0x8F, t.code + inv.toNat * 256 + pn.val * 32, gd, d, a, .none, .none, some imm⟩
  | .and gd t d a b =>
    some ⟨0x10, t.code, gd, d, a, b, .none, none⟩
  | .andImm gd t d a imm =>
    some ⟨0x90, t.code, gd, d, a, .none, .none, some imm⟩
  | .or gd t d a b =>
    some ⟨0x11, t.code, gd, d, a, b, .none, none⟩
  | .orImm gd t d a imm =>
    some ⟨0x91, t.code, gd, d, a, .none, .none, some imm⟩
  | .xor gd t d a b =>
    some ⟨0x12, t.code, gd, d, a, b, .none, none⟩
  | .xorImm gd t d a imm =>
    some ⟨0x92, t.code, gd, d, a, .none, .none, some imm⟩
  | .andn gd t d a b =>
    some ⟨0x13, t.code, gd, d, a, b, .none, none⟩
  | .andnImm gd t d a imm =>
    some ⟨0x93, t.code, gd, d, a, .none, .none, some imm⟩
  | .not gd t d a =>
    some ⟨0x14, t.code, gd, d, a, .none, .none, none⟩
  | .shl gd t d a b =>
    some ⟨0x15, t.code, gd, d, a, b, .none, none⟩
  | .shlImm gd t d a imm =>
    some ⟨0x95, t.code, gd, d, a, .none, .none, some imm⟩
  | .shr gd t d a b =>
    some ⟨0x16, t.code, gd, d, a, b, .none, none⟩
  | .shrImm gd t d a imm =>
    some ⟨0x96, t.code, gd, d, a, .none, .none, some imm⟩
  | .sar gd t d a b =>
    some ⟨0x17, t.code, gd, d, a, b, .none, none⟩
  | .sarImm gd t d a imm =>
    some ⟨0x97, t.code, gd, d, a, .none, .none, some imm⟩
  | .rol gd t d a b =>
    some ⟨0x18, t.code, gd, d, a, b, .none, none⟩
  | .rolImm gd t d a imm =>
    some ⟨0x98, t.code, gd, d, a, .none, .none, some imm⟩
  | .bfx gd t d a b =>
    some ⟨0x19, t.code, gd, d, a, b, .none, none⟩
  | .bfxImm gd t d a imm =>
    some ⟨0x99, t.code, gd, d, a, .none, .none, some imm⟩
  | .bfi gd t d a b c =>
    some ⟨0x1A, t.code, gd, d, a, b, c, none⟩
  | .bfr gd t d a =>
    some ⟨0x1B, t.code, gd, d, a, .none, .none, none⟩
  | .popc gd t d a =>
    some ⟨0x1C, t.code, gd, d, a, .none, .none, none⟩
  | .clz gd t d a =>
    some ⟨0x1D, t.code, gd, d, a, .none, .none, none⟩
  | .ctz gd t d a =>
    some ⟨0x1E, t.code, gd, d, a, .none, .none, none⟩
  | .cmp gd t pd cond d a b =>
    some ⟨0x1F, t.code + pd.val * 512 + cond.code * 32, gd, d, a, b, .none, none⟩
  | .cmpImm gd t pd cond d a imm =>
    some ⟨0x9F, t.code + pd.val * 512 + cond.code * 32, gd, d, a, .none, .none, some imm⟩
  | .mov gd t d a =>
    some ⟨0x20, t.code, gd, d, a, .none, .none, none⟩
  | .movi gd t pos d b =>
    some ⟨0x21, t.code + pos.code * 32, gd, d, .none, b, .none, none⟩
  | .moviImm gd t pos d imm =>
    some ⟨0xA1, t.code + pos.code * 32, gd, d, .none, .none, .none, some imm⟩
  | .pand gd pd pa pb d =>
    some ⟨0x22, pd.val * 512 + pa.val * 64 + pb.val * 8, gd, d, .none, .none, .none, none⟩
  | .por gd pd pa pb d =>
    some ⟨0x22, pd.val * 512 + pa.val * 64 + pb.val * 8 + 2, gd, d, .none, .none, .none, none⟩
  | .pxor gd pd pa pb d =>
    some ⟨0x22, pd.val * 512 + pa.val * 64 + pb.val * 8 + 4, gd, d, .none, .none, .none, none⟩
  | .pnot gd pd pa d =>
    some ⟨0x22, pd.val * 512 + pa.val * 64 + 6, gd, d, .none, .none, .none, none⟩
  | .fadd gd t rnd d a b =>
    some ⟨0x23, t.code + rnd.code * 32, gd, d, a, b, .none, none⟩
  | .faddImm gd t rnd d a imm =>
    some ⟨0xA3, t.code + rnd.code * 32, gd, d, a, .none, .none, some imm⟩
  | .fsub gd t rnd d a b =>
    some ⟨0x24, t.code + rnd.code * 32, gd, d, a, b, .none, none⟩
  | .fsubImm gd t rnd d a imm =>
    some ⟨0xA4, t.code + rnd.code * 32, gd, d, a, .none, .none, some imm⟩
  | .fmul gd t rnd d a b =>
    some ⟨0x25, t.code + rnd.code * 32, gd, d, a, b, .none, none⟩
  | .fmulImm gd t rnd d a imm =>
    some ⟨0xA5, t.code + rnd.code * 32, gd, d, a, .none, .none, some imm⟩
  | .fma gd t rnd d a b c =>
    some ⟨0x26, t.code + rnd.code * 32, gd, d, a, b, c, none⟩
  | .fmin gd t d a b =>
    some ⟨0x27, t.code, gd, d, a, b, .none, none⟩
  | .fminImm gd t d a imm =>
    some ⟨0xA7, t.code, gd, d, a, .none, .none, some imm⟩
  | .fmax gd t d a b =>
    some ⟨0x27, t.code + 32, gd, d, a, b, .none, none⟩
  | .fmaxImm gd t d a imm =>
    some ⟨0xA7, t.code + 32, gd, d, a, .none, .none, some imm⟩
  | .fminm gd t d a b =>
    some ⟨0x27, t.code + 64, gd, d, a, b, .none, none⟩
  | .fminmImm gd t d a imm =>
    some ⟨0xA7, t.code + 64, gd, d, a, .none, .none, some imm⟩
  | .fmaxm gd t d a b =>
    some ⟨0x27, t.code + 96, gd, d, a, b, .none, none⟩
  | .fmaxmImm gd t d a imm =>
    some ⟨0xA7, t.code + 96, gd, d, a, .none, .none, some imm⟩
  | .fcmp gd t pd cond d a b =>
    some ⟨0x28, t.code + pd.val * 512 + cond.code * 32, gd, d, a, b, .none, none⟩
  | .fcmpImm gd t pd cond d a imm =>
    some ⟨0xA8, t.code + pd.val * 512 + cond.code * 32, gd, d, a, .none, .none, some imm⟩
  | .fsgn gd t sop d a b =>
    some ⟨0x29, t.code + sop.val * 32, gd, d, a, b, .none, none⟩
  | .fclass gd t d a =>
    some ⟨0x2A, t.code, gd, d, a, .none, .none, none⟩
  | .frnd gd t rnd d a =>
    some ⟨0x2B, t.code + rnd.code * 32, gd, d, a, .none, .none, none⟩
  | .fcvt gd sat rnd t ts d a =>
    some ⟨0x2C, t.code + ts.sourceCode * 32 + rnd.code * 512 + sat.toNat * 2048, gd, d, a, .none, .none, none⟩
  | .f2i gd sat rnd t ts d a =>
    some ⟨0x2C, t.code + ts.sourceCode * 32 + rnd.code * 512 + sat.toNat * 2048, gd, d, a, .none, .none, none⟩
  | .i2f gd sat rnd t ts d a =>
    some ⟨0x2C, t.code + ts.sourceCode * 32 + rnd.code * 512 + sat.toNat * 2048, gd, d, a, .none, .none, none⟩
  | .rcp gd t rnd d a =>
    some ⟨0x2D, t.code + rnd.code * 256, gd, d, a, .none, .none, none⟩
  | .rsq gd t d a =>
    some ⟨0x2D, t.code + 32, gd, d, a, .none, .none, none⟩
  | .sqrt gd t rnd d a =>
    some ⟨0x2D, t.code + rnd.code * 256 + 64, gd, d, a, .none, .none, none⟩
  | .ex2 gd t d a =>
    some ⟨0x2D, t.code + 96, gd, d, a, .none, .none, none⟩
  | .lg2 gd t d a =>
    some ⟨0x2D, t.code + 128, gd, d, a, .none, .none, none⟩
  | .sin gd t d a =>
    some ⟨0x2D, t.code + 160, gd, d, a, .none, .none, none⟩
  | .cos gd t d a =>
    some ⟨0x2D, t.code + 192, gd, d, a, .none, .none, none⟩
  | .hadd2 gd t rnd d a b =>
    some ⟨0x2E, t.code + rnd.code * 32, gd, d, a, b, .none, none⟩
  | .hmul2 gd t rnd d a b =>
    some ⟨0x2F, t.code + rnd.code * 32, gd, d, a, b, .none, none⟩
  | .hfma2 gd t rnd d a b c =>
    some ⟨0x30, t.code + rnd.code * 32, gd, d, a, b, c, none⟩
  | .qpack gd t rnd d a b =>
    some ⟨0x31, t.code + rnd.code * 32, gd, d, a, b, .none, none⟩
  | .qunpk gd t d a b =>
    some ⟨0x32, t.code, gd, d, a, b, .none, none⟩
  | .qscale gd t d a b =>
    some ⟨0x33, t.code, gd, d, a, b, .none, none⟩
  | .spcmp gd t n d a b c =>
    some ⟨0x34, t.code + n.val * 32, gd, d, a, b, c, none⟩
  | .spexp gd t n d a b c =>
    some ⟨0x35, t.code + n.val * 32, gd, d, a, b, c, none⟩
  | .br gd b =>
    some ⟨0x37, 0, gd, .none, .none, b, .none, none⟩
  | .brImm gd imm =>
    some ⟨0xB7, 0, gd, .none, .none, .none, .none, some imm⟩
  | .brx gd a =>
    some ⟨0x38, 0, gd, .none, a, .none, .none, none⟩
  | .call gd d b =>
    some ⟨0x39, 0, gd, d, .none, b, .none, none⟩
  | .callImm gd d imm =>
    some ⟨0xB9, 0, gd, d, .none, .none, .none, some imm⟩
  | .callx gd d a =>
    some ⟨0x3A, 0, gd, d, a, .none, .none, none⟩
  | .ret gd a =>
    some ⟨0x3B, 0, gd, .none, a, .none, .none, none⟩
  | .exit gd =>
    some ⟨0x3C, 0, gd, .none, .none, .none, .none, none⟩
  | .yield gd =>
    some ⟨0x3D, 0, gd, .none, .none, .none, .none, none⟩
  | .nap gd a b =>
    some ⟨0x3E, 0, gd, .none, a, b, .none, none⟩
  | .brk gd =>
    some ⟨0x3F, 0, gd, .none, .none, .none, .none, none⟩
  | .kadd d a b =>
    some ⟨0x40, 0, always, d, a, b, .none, none⟩
  | .kaddImm d a imm =>
    some ⟨0xC0, 0, always, d, a, .none, .none, some imm⟩
  | .ksub d a b =>
    some ⟨0x41, 0, always, d, a, b, .none, none⟩
  | .ksubImm d a imm =>
    some ⟨0xC1, 0, always, d, a, .none, .none, some imm⟩
  | .kmul d a b =>
    some ⟨0x42, 0, always, d, a, b, .none, none⟩
  | .kmulImm d a imm =>
    some ⟨0xC2, 0, always, d, a, .none, .none, some imm⟩
  | .kand d a b =>
    some ⟨0x43, 0, always, d, a, b, .none, none⟩
  | .kandImm d a imm =>
    some ⟨0xC3, 0, always, d, a, .none, .none, some imm⟩
  | .kor d a b =>
    some ⟨0x44, 0, always, d, a, b, .none, none⟩
  | .korImm d a imm =>
    some ⟨0xC4, 0, always, d, a, .none, .none, some imm⟩
  | .kxor d a b =>
    some ⟨0x45, 0, always, d, a, b, .none, none⟩
  | .kxorImm d a imm =>
    some ⟨0xC5, 0, always, d, a, .none, .none, some imm⟩
  | .kshl d a b =>
    some ⟨0x46, 0, always, d, a, b, .none, none⟩
  | .kshlImm d a imm =>
    some ⟨0xC6, 0, always, d, a, .none, .none, some imm⟩
  | .kshr d a b =>
    some ⟨0x47, 0, always, d, a, b, .none, none⟩
  | .kshrImm d a imm =>
    some ⟨0xC7, 0, always, d, a, .none, .none, some imm⟩
  | .kmov d a =>
    some ⟨0x48, 0, always, d, a, .none, .none, none⟩
  | .kmovi pos d b =>
    some ⟨0x49, pos.toNat * 32, always, d, .none, b, .none, none⟩
  | .kmoviImm pos d imm =>
    some ⟨0xC9, pos.toNat * 32, always, d, .none, .none, .none, some imm⟩
  | .kcmp t cond d a b =>
    some ⟨0x4A, t.code + cond.code * 32, always, d, a, b, .none, none⟩
  | .kcmpImm t cond d a imm =>
    some ⟨0xCA, t.code + cond.code * 32, always, d, a, .none, .none, some imm⟩
  | .klea sh d a b =>
    some ⟨0x4B, sh.val * 32, always, d, a, b, .none, none⟩
  | .kleaImm sh d a imm =>
    some ⟨0xCB, sh.val * 32, always, d, a, .none, .none, some imm⟩
  | .kmerge =>
    some ⟨0x4C, 0, always, .none, .none, .none, .none, none⟩
  | .xpull gd t d a b c =>
    some ⟨0x50, t.code, gd, d, a, b, c, none⟩
  | .xpullImm gd t d a imm =>
    some ⟨0xD0, t.code, gd, d, a, .none, .none, some imm⟩
  | .xpush gd t cm d a b c =>
    some ⟨0x51, t.code + cm.toNat * 32, gd, d, a, b, c, none⟩
  | .xvote gd vop d a c =>
    some ⟨0x52, vop.val * 32, gd, d, a, .none, c, none⟩
  | .xfirst gd t d a c =>
    some ⟨0x53, t.code, gd, d, a, .none, c, none⟩
  | .xred gd t rop d a c =>
    some ⟨0x54, t.code + rop.val * 32, gd, d, a, .none, c, none⟩
  | .xscan gd t exc rop d a c =>
    some ⟨0x55, t.code + exc.toNat * 256 + rop.val * 32, gd, d, a, .none, c, none⟩
  | .xmatch gd t d a c =>
    some ⟨0x56, t.code, gd, d, a, .none, c, none⟩
  | .rdv gd c =>
    some ⟨0x57, 0, gd, .none, .none, .none, c, none⟩
  | .rast gd d a b c =>
    some ⟨0x58, 0, gd, d, a, b, c, none⟩
  | .mma gd d a b c =>
    some ⟨0x59, 0, gd, d, a, b, c, none⟩
  | .mmaSp gd d a b c =>
    some ⟨0x59, 32, gd, d, a, b, c, none⟩
  | .mmaSc gd d a b c =>
    some ⟨0x59, 64, gd, d, a, b, c, none⟩
  | .mzero gd d a =>
    some ⟨0x5A, 0, gd, d, a, .none, .none, none⟩
  | .chdef gd ch a b =>
    some ⟨0x5B, ch.val * 32, gd, .none, a, b, .none, none⟩
  | .chrun gd ch d a =>
    some ⟨0x5C, ch.val * 32, gd, d, a, .none, .none, none⟩
  | .perfRd gd d b =>
    some ⟨0x5F, 0, gd, d, .none, b, .none, none⟩
  | .ld gd t hint d a b =>
    some ⟨0x60, t.code + hint.val * 32, gd, d, a, b, .none, none⟩
  | .ldImm gd t hint d a imm =>
    some ⟨0xE0, t.code + hint.val * 32, gd, d, a, .none, .none, some imm⟩
  | .st gd t hint a b c =>
    some ⟨0x61, t.code + hint.val * 32, gd, .none, a, b, c, none⟩
  | .ldK gd t hint d a b =>
    some ⟨0x62, t.code + hint.val * 32, gd, d, a, b, .none, none⟩
  | .ldKImm gd t hint d a imm =>
    some ⟨0xE2, t.code + hint.val * 32, gd, d, a, .none, .none, some imm⟩
  | .atom gd t scope aop d a b c =>
    some ⟨0x63, t.code + scope.code * 512 + aop.val * 32, gd, d, a, b, c, none⟩
  | .acq gd scope d a b =>
    some ⟨0x64, 10 + scope.code * 512, gd, d, a, b, .none, none⟩
  | .rel gd scope a b c =>
    some ⟨0x65, 10 + scope.code * 512, gd, .none, a, b, c, none⟩
  | .fence gd scope =>
    some ⟨0x66, scope.code * 512, gd, .none, .none, .none, .none, none⟩
  | .icinv gd scope =>
    some ⟨0x67, scope.code * 512, gd, .none, .none, .none, .none, none⟩
  | .pf gd a b =>
    some ⟨0x68, 0, gd, .none, a, b, .none, none⟩
  | .pfImm gd a imm =>
    some ⟨0xE8, 0, gd, .none, a, .none, .none, some imm⟩
  | .pfi gd a b =>
    some ⟨0x68, 32, gd, .none, a, b, .none, none⟩
  | .pfiImm gd a imm =>
    some ⟨0xE8, 32, gd, .none, a, .none, .none, some imm⟩
  | .stashWb gd a b c =>
    some ⟨0x69, 0, gd, .none, a, b, c, none⟩
  | .stashInv gd a b c =>
    some ⟨0x69, 32, gd, .none, a, b, c, none⟩
  | .capNew gd d a b c =>
    some ⟨0x6A, 0, gd, d, a, b, c, none⟩
  | .capSet gd d a b =>
    some ⟨0x6A, 32, gd, d, a, b, .none, none⟩
  | .capAdd gd d a b =>
    some ⟨0x6A, 64, gd, d, a, b, .none, none⟩
  | .capBnd gd d a b =>
    some ⟨0x6A, 96, gd, d, a, b, .none, none⟩
  | .capPrm gd d a b =>
    some ⟨0x6A, 128, gd, d, a, b, .none, none⟩
  | .capChk gd d a b c =>
    some ⟨0x6A, 160, gd, d, a, b, c, none⟩
  | .capGet gd d a b =>
    some ⟨0x6A, 192, gd, d, a, b, .none, none⟩
  | .cpBlk gd d a b c =>
    some ⟨0x6B, 0, gd, d, a, b, c, none⟩
  | .cpTile gd d a b c =>
    some ⟨0x6B, 32, gd, d, a, b, c, none⟩
  | .cpGat gd d a b c =>
    some ⟨0x6B, 64, gd, d, a, b, c, none⟩
  | .cpSct gd d a b c =>
    some ⟨0x6B, 96, gd, d, a, b, c, none⟩
  | .cpMc gd d a b c =>
    some ⟨0x6B, 128, gd, d, a, b, c, none⟩
  | .cpFill gd d a c =>
    some ⟨0x6B, 160, gd, d, a, .none, c, none⟩
  | .hwait gd a =>
    some ⟨0x6C, 0, gd, .none, a, .none, .none, none⟩
  | .htest gd d a =>
    some ⟨0x6C, 32, gd, d, a, .none, .none, none⟩
  | .hcancel gd a =>
    some ⟨0x6C, 64, gd, .none, a, .none, .none, none⟩
  | .hmov gd d a =>
    some ⟨0x6C, 96, gd, d, a, .none, .none, none⟩
  | .rayGo gd d a b =>
    some ⟨0x6D, 0, gd, d, a, b, .none, none⟩
  | .rayNext gd d a =>
    some ⟨0x6D, 32, gd, d, a, .none, .none, none⟩
  | .rayEnd gd a =>
    some ⟨0x6D, 64, gd, .none, a, .none, .none, none⟩
  | .meSrch gd d a b c =>
    some ⟨0x6E, 0, gd, d, a, b, c, none⟩
  | .smp gd t d a b c =>
    some ⟨0x6F, t.code, gd, d, a, b, c, none⟩
  | .smpG gd t d a b c =>
    some ⟨0x6F, t.code + 32, gd, d, a, b, c, none⟩
  | .imgSt gd t d a b c =>
    some ⟨0x70, t.code, gd, d, a, b, c, none⟩
  | .bind gd a b c =>
    some ⟨0x71, 0, gd, .none, a, b, c, none⟩
  | .unbind gd a =>
    some ⟨0x72, 0, gd, .none, a, .none, .none, none⟩
  | .tlbinv gd a b c =>
    some ⟨0x73, 0, gd, .none, a, b, c, none⟩
  | .keyz gd a =>
    some ⟨0x74, 0, gd, .none, a, .none, .none, none⟩
  | .ptsync gd =>
    some ⟨0x75, 0, gd, .none, .none, .none, .none, none⟩
  | .sysr gd t d b =>
    some ⟨0x76, t.code, gd, d, .none, b, .none, none⟩
  | .sysrImm gd t d imm =>
    some ⟨0xF6, t.code, gd, d, .none, .none, .none, some imm⟩
  | .sysw gd t a b =>
    some ⟨0x77, t.code, gd, .none, a, b, .none, none⟩
  | .syswImm gd t a imm =>
    some ⟨0xF7, t.code, gd, .none, a, .none, .none, some imm⟩
  | .trap gd b =>
    some ⟨0x78, 0, gd, .none, .none, b, .none, none⟩
  | .trapImm gd imm =>
    some ⟨0xF8, 0, gd, .none, .none, .none, .none, some imm⟩
  | .tret gd =>
    some ⟨0x79, 0, gd, .none, .none, .none, .none, none⟩
  | .ckpt gd d =>
    some ⟨0x7A, 0, gd, d, .none, .none, .none, none⟩
  | .barIni gd a b =>
    some ⟨0x7B, 0, gd, .none, a, b, .none, none⟩
  | .barIniImm gd a imm =>
    some ⟨0xFB, 0, gd, .none, a, .none, .none, some imm⟩
  | .barArr gd d a b =>
    some ⟨0x7B, 32, gd, d, a, b, .none, none⟩
  | .barArrImm gd d a imm =>
    some ⟨0xFB, 32, gd, d, a, .none, .none, some imm⟩
  | .barWt gd a b =>
    some ⟨0x7B, 64, gd, .none, a, b, .none, none⟩
  | .barWtImm gd a imm =>
    some ⟨0xFB, 64, gd, .none, a, .none, .none, some imm⟩
  | .barArw gd d a b =>
    some ⟨0x7B, 96, gd, d, a, b, .none, none⟩
  | .barArwImm gd d a imm =>
    some ⟨0xFB, 96, gd, d, a, .none, .none, some imm⟩
  | .cntAdd gd a b =>
    some ⟨0x7C, 128, gd, .none, a, b, .none, none⟩
  | .cntRd gd lv d a =>
    some ⟨0x7C, lv.code * 128 + 32, gd, d, a, .none, .none, none⟩
  | .cntWt gd lv a =>
    some ⟨0x7C, lv.code * 128 + 64, gd, .none, a, .none, .none, none⟩
  | .launch gd d a b =>
    some ⟨0x7D, 0, gd, d, a, b, .none, none⟩
  | .nodePut gd d a b =>
    some ⟨0x7E, 0, gd, d, a, b, .none, none⟩
  | .nodeFl gd a =>
    some ⟨0x7E, 32, gd, .none, a, .none, .none, none⟩
  | .cancel gd lv a =>
    some ⟨0x7F, lv.code * 128, gd, .none, a, .none, .none, none⟩
  | .clauseIssue _ _ _ => none
  | .decodedOpMissFill _ _ => none
  | .faultReportArrival _ => none
  | .replayRestore _ _ => none
  | .napCountExpiry _ => none
  | .napEarlyEnd _ => none
  | .stashEviction _ _ _ => none
  | .l1Eviction _ _ _ => none
  | .decodedOpEviction _ _ _ => none
  | .copyComplete _ _ _ => none
  | .rayRoundComplete _ _ _ => none
  | .meSrchComplete _ _ _ => none
  | .smpComplete _ _ _ => none
  | .imgStComplete _ _ _ => none
  | .arrayOpComplete _ _ => none
  | .chdefApply _ _ => none
  | .chrunComplete _ _ => none
  | .launchQueueWriteIndex _ _ _ _ => none
  | .frontEndRecordRead _ _ _ => none
  | .placementPass _ _ _ _ => none
  | .launchRetire _ _ => none
  | .coalesceFire _ _ => none
  | .preemption _ => none
  | .preemptAckComplete _ => none
  | .restore _ _ _ => none
  | .migration _ _ => none
  | .checkpoint _ => none
  | .checkpointStream _ => none
  | .commitRecordWrite _ => none
  | .commitAck _ => none
  | .transferRequest _ _ _ => none
  | .transferData _ _ _ => none
  | .transferAck _ _ _ => none
  | .forwardedAccess _ => none
  | .linkReceipt _ => none
  | .nonpostedCompletion _ _ _ => none
  | .hostWriteAck _ _ => none
  | .packetReceive _ _ _ _ => none
  | .linkUp _ => none
  | .requestedUndock _ => none
  | .undockDrainComplete => none
  | .surpriseRemoval => none
  | .surpriseRecovery _ _ => none
  | .lineAdvance _ _ => none
  | .bandLaunch _ _ => none
  | .guardLine _ _ => none
  | .fallbackFill _ _ => none
  | .relayBandSend _ _ => none
  | .relayBandArrival _ _ => none
  | .hctlWrite _ _ _ => none
  | .hstatWrite _ _ _ => none
  | .hqueueRead _ _ => none
  | .registerWrite _ _ _ => none
  | .scrubStep _ => none
  | .virtualInterfaceReset _ _ => none
  | .deviceReset _ => none
  | .lifeCycleChange _ _ => none
  | .powerGood _ _ _ _ => none
  | .deviceDescriptionPublish _ => none
  | .measurementExtend _ _ _ => none
  | .attestationRequest _ _ _ => none
  | .snapshotTrigger _ _ => none
  | .d3Entry _ _ => none
  | .d0Return _ => none
  | .clockChange _ _ _ => none
  | .contextCreate _ _ _ => none
  | .granularityTableWrite _ _ _ _ => none
  | .tlbEviction _ _ _ => none
  | .snapshotRearm _ _ => none
  | .peerWriteAcknowledgement _ => none
  | .replicaInvalidation _ _ => none
  | .hostAccess _ _ _ => none
  | .virtualInterfaceCreate _ _ _ => none

/-- The 10-bit number of an operand (R55). -/
def Opnd.code : Opnd → Nat
  | .g n => n.val
  | .k n => 768 + n.val
  | .dist n => 832 + n.val
  | .zero => 840
  | .lit _ => 841
  | .lane => 842
  | .crew => 843
  | .tindex => 844
  | .cove => 845
  | .bay => 846
  | .h n => 848 + n.val
  | .none => 1023

/-- The operand of a 10-bit number, with the literal it would take; none for a reserved number
(R55). -/
def Opnd.ofCode (v : Nat) (literal : DWord) : Option Opnd :=
  if h : v < 768 then some (.g ⟨v, h⟩)
  else if h : v - 768 < 64 then some (.k ⟨v - 768, h⟩)
  else if h : v - 832 < 8 then some (.dist ⟨v - 832, h⟩)
  else if v = 840 then some .zero
  else if v = 841 then some (.lit literal)
  else if v = 842 then some .lane
  else if v = 843 then some .crew
  else if v = 844 then some .tindex
  else if v = 845 then some .cove
  else if v = 846 then some .bay
  else if v = 847 then Option.none
  else if h : v - 848 < 16 then some (.h ⟨v - 848, h⟩)
  else if v = 1023 then some .none
  else Option.none

/-- The literal value an operand carries, if it has one. -/
def Opnd.literal? : Opnd → Option DWord
  | .lit v => some v
  | _ => Option.none

/-- A register group of a width at number n lies below the count and is aligned (R56). -/
def regOk (limit : Nat) (w : Width) (n : Nat) : Bool :=
  n % w.regs == 0 && decide (n + w.regs ≤ limit)

/-- A distance operand has its producer, and the producer is as wide as the read (R58). -/
def distOk (prods : List Width) (w : Width) (n : Nat) : Bool :=
  match prods[n]? with
  | some p => decide (w.regs ≤ p.regs)
  | none => false

/-- The value sources of R55 at 32 or 64 bits. -/
def valueOk (key : DecodeKey) (prods : List Width) (w : Width) : Opnd → Bool
  | .g n => regOk key.regs w n
  | .k n => regOk key.keys w n
  | .dist n => distOk prods w n
  | .zero | .lit _ | .lane | .crew | .tindex | .cove | .bay => true
  | .h _ | .none => false

/-- A general or key register group (R56). -/
def groupOk (key : DecodeKey) (w : Width) : Opnd → Bool
  | .g n => regOk key.regs w n
  | .k n => regOk key.keys w n
  | _ => false

/-- A quad source; class A also reads a 128-bit distance value, and zero but where its rule names a general or
key quad (R55, R58, R105, R117, R118). -/
def quadOk (key : DecodeKey) (prods : List Width) (zero dist : Bool) : Opnd → Bool
  | .dist n => dist && distOk prods .w128 n
  | .zero => zero
  | o => groupOk key .w128 o

/-- Key-class sources and ld.k offsets (R123, R238). -/
def keySourceOk (key : DecodeKey) : Opnd → Bool
  | .k n => regOk key.keys .w32 n
  | .zero | .lit _ | .crew | .cove | .bay => true
  | _ => false

/-- Whether an operand may stand in a source field (check 8 of R62). -/
def SrcK.ok (key : DecodeKey) (prods : List Width) (k : SrcK) (o : Opnd) : Bool :=
  match k with
  | .no => o == .none
  | .v w => valueOk key prods w o
  | .opt32 => o == .none || valueOk key prods .w32 o
  | .quad z d => quadOk key prods z d o
  | .cap w => if w = .w128 then quadOk key prods true true o else valueOk key prods w o
  | .move w => if w = .w128 then quadOk key prods false true o else valueOk key prods w o
  | .kquad => match o with | .k n => regOk key.keys .w128 n | _ => false
  | .greg => match o with | .g n => regOk key.regs .w32 n | _ => false
  | .kreg => match o with | .k n => regOk key.keys .w32 n | _ => false
  | .key9 => match o with | .k n => decide (n.val + 9 ≤ key.keys) | _ => false
  | .ks => keySourceOk key o
  | .mask => match o with | .k n => regOk key.keys .w32 n | .lit _ | .none => true | _ => false
  | .disp => match o with | .lit _ | .zero => true | _ => false
  | .hOrNo => match o with | .h _ | .none => true | _ => false
  | .hmov => match o with | .h _ | .zero => true | .g n => regOk key.regs .w64 n | _ => false
  | .group w => groupOk key w o
  | .store w => if w = .w128 then groupOk key .w128 o else valueOk key prods w o
  | .tab64 => match o with | .zero | .lit _ => true | _ => groupOk key .w64 o
  | .sysw w =>
    match o with
    | .lane | .crew | .tindex | .cove | .bay => w == .w32
    | _ => valueOk key prods w o

/-- Whether an operand may stand in the destination field, with the further register that follows
it where the form writes one (R55, R56, R179). -/
def DstK.ok (key : DecodeKey) (extra : Option Nat) (k : DstK) (o : Opnd) : Bool :=
  match k, o with
  | .no, .none => true
  | .g w _, .g n => regOk key.regs w n && (extra.all fun e => decide (n.val + e < key.regs))
  | .g _ req, .none => !req
  | .key, .k n => regOk key.keys .w32 n
  | .key, .none => true
  | .h _, .h _ => true
  | .h req, .none => !req
  | _, _ => false

/-- Registers and handles as R60 and R61 count them. -/
inductive RegName where
  | g (n : Nat)
  | k (n : Nat)
  | h (n : Nat)
  deriving DecidableEq, Repr

/-- The registers of a group. -/
def Opnd.names (o : Opnd) (w : Width) : List RegName :=
  match o with
  | .g n => (List.range w.regs).map fun j => .g (n.val + j)
  | .k n => (List.range w.regs).map fun j => .k (n.val + j)
  | .h n => [.h n.val]
  | _ => []

def SrcK.width : SrcK → Width
  | .v w | .cap w | .move w | .group w | .store w | .sysw w => w
  | .quad _ _ | .kquad => .w128
  | .hmov | .tab64 => .w64
  | _ => .w32

def DstK.width : DstK → Width
  | .g w _ => w
  | _ => .w32

/-- The destinations a row names, for R60: D with the register after it where one is written, the
token of rast, and the handle in C of smp; none where the form names no destination. -/
def Row.dests (r : Row) (d b c : Opnd) : List RegName :=
  (if r.d = .no then [] else d.names r.d.width)
    ++ (match r.extra, d with | some e, .g n => [.g (n.val + e)] | _, _ => [])
    ++ (if r.a = .key9 then b.names .w32 else [])
    ++ (if r.c = .hOrNo then c.names .w32 else [])

/-- The registers and handles a row reads, for R61, D among them where the form reads it (R119,
R159). -/
def Row.reads (r : Row) (d a b c : Opnd) : List RegName :=
  (if r.a = .key9 then
      (match a with | .k n => (List.range 9).map fun j => RegName.k (n.val + j) | _ => [])
    else a.names r.a.width)
    ++ b.names r.b.width ++ c.names r.c.width ++ d.names r.d.width

/-- Check 8 of R62 for a lower-half row: D, A, B and C in that order. -/
def Row.operandsOk (r : Row) (key : DecodeKey) (prods : List Width) (f : Fields) : Bool :=
  r.d.ok key r.extra f.d && r.a.ok key prods f.a
    && (if f.imm.isSome then true else r.b.ok key prods f.b && r.c.ok key prods f.c)

end Sys2Proof
end

