-- ==== Sys2Proof/WellFormed.lean ====
section
/-! DEFINITION. Well-formedness of a step as syntax: an instruction whose types, options and
operands the spec gives it under a decode key and a list of the widths of the producers before it
in its clause, and an event that names units the die has. -/

namespace Sys2Proof

/-- The types and options that R72 lets an instruction hold, and the numbers an event may name. -/
def Instr.optionsOk : Instr → Bool
  | .add _ t _ _ _ _ => decide (t ∈ intTys)
  | .addImm _ t _ _ _ _ => decide (t ∈ intTys)
  | .sub _ t _ _ _ _ => decide (t ∈ intTys)
  | .subImm _ t _ _ _ _ => decide (t ∈ intTys)
  | .addc _ t _ _ _ _ => decide (t ∈ wordTys)
  | .addcImm _ t _ _ _ _ => decide (t ∈ wordTys)
  | .subb _ t _ _ _ _ => decide (t ∈ wordTys)
  | .subbImm _ t _ _ _ _ => decide (t ∈ wordTys)
  | .mul _ t _ _ _ _ => decide (t ∈ intTys)
  | .mulImm _ t _ _ _ _ => decide (t ∈ intTys)
  | .mulh _ t _ _ _ => decide (t ∈ intTys)
  | .mulhImm _ t _ _ _ => decide (t ∈ intTys)
  | .mad _ t _ _ _ _ _ => decide (t ∈ intTys)
  | .div _ t _ _ _ => decide (t ∈ intTys)
  | .divImm _ t _ _ _ => decide (t ∈ intTys)
  | .rem _ t _ _ _ => decide (t ∈ intTys)
  | .remImm _ t _ _ _ => decide (t ∈ intTys)
  | .neg _ t _ _ _ => decide (t ∈ signedTys)
  | .abs _ t _ _ _ => decide (t ∈ signedTys)
  | .min _ t _ _ _ => decide (t ∈ intTys)
  | .minImm _ t _ _ _ => decide (t ∈ intTys)
  | .max _ t _ _ _ => decide (t ∈ intTys)
  | .maxImm _ t _ _ _ => decide (t ∈ intTys)
  | .lea _ t _ _ _ _ => decide (t ∈ [.n32, .n64])
  | .leaImm _ t _ _ _ _ => decide (t ∈ [.n32, .n64])
  | .sel _ t _ _ _ _ _ => decide (t ∈ quadTys)
  | .selImm _ t _ _ _ _ _ => decide (t ∈ quadTys) && decide (t ∉ [.b128])
  | .and _ t _ _ _ => decide (t ∈ bitTys)
  | .andImm _ t _ _ _ => decide (t ∈ bitTys)
  | .or _ t _ _ _ => decide (t ∈ bitTys)
  | .orImm _ t _ _ _ => decide (t ∈ bitTys)
  | .xor _ t _ _ _ => decide (t ∈ bitTys)
  | .xorImm _ t _ _ _ => decide (t ∈ bitTys)
  | .andn _ t _ _ _ => decide (t ∈ bitTys)
  | .andnImm _ t _ _ _ => decide (t ∈ bitTys)
  | .not _ t _ _ => decide (t ∈ bitTys)
  | .shl _ t _ _ _ => decide (t ∈ bitTys)
  | .shlImm _ t _ _ _ => decide (t ∈ bitTys)
  | .shr _ t _ _ _ => decide (t ∈ bitTys)
  | .shrImm _ t _ _ _ => decide (t ∈ bitTys)
  | .sar _ t _ _ _ => decide (t ∈ bitTys)
  | .sarImm _ t _ _ _ => decide (t ∈ bitTys)
  | .rol _ t _ _ _ => decide (t ∈ bitTys)
  | .rolImm _ t _ _ _ => decide (t ∈ bitTys)
  | .bfx _ t _ _ _ => decide (t ∈ wordTys)
  | .bfxImm _ t _ _ _ => decide (t ∈ wordTys)
  | .bfi _ t _ _ _ _ => decide (t ∈ bitTys)
  | .bfr _ t _ _ => decide (t ∈ bitTys)
  | .popc _ t _ _ => decide (t ∈ bitTys)
  | .clz _ t _ _ => decide (t ∈ bitTys)
  | .ctz _ t _ _ => decide (t ∈ bitTys)
  | .cmp _ t _ cond _ _ _ => decide (t ∈ intTys) && decide (cond.code < 6)
  | .cmpImm _ t _ cond _ _ _ => decide (t ∈ intTys) && decide (cond.code < 6)
  | .mov _ t _ _ => decide (t ∈ quadTys)
  | .movi _ t pos _ _ => decide (t ∈ bitTys) && pos.allowed t
  | .moviImm _ t pos _ _ => decide (t ∈ bitTys) && pos.allowed t
  | .pand _ _ _ _ _ => true
  | .por _ _ _ _ _ => true
  | .pxor _ _ _ _ _ => true
  | .pnot _ _ _ _ => true
  | .fadd _ t _ _ _ _ => decide (t ∈ floatTys)
  | .faddImm _ t _ _ _ _ => decide (t ∈ floatTys) && decide (t ∉ [.f16, .bf16])
  | .fsub _ t _ _ _ _ => decide (t ∈ float3Tys)
  | .fsubImm _ t _ _ _ _ => decide (t ∈ float3Tys) && decide (t ∉ [.f16, .bf16])
  | .fmul _ t _ _ _ _ => decide (t ∈ floatTys)
  | .fmulImm _ t _ _ _ _ => decide (t ∈ floatTys) && decide (t ∉ [.f16, .bf16])
  | .fma _ t _ _ _ _ _ => decide (t ∈ floatTys)
  | .fmin _ t _ _ _ => decide (t ∈ float3Tys)
  | .fminImm _ t _ _ _ => decide (t ∈ float3Tys) && decide (t ∉ [.f16, .bf16])
  | .fmax _ t _ _ _ => decide (t ∈ float3Tys)
  | .fmaxImm _ t _ _ _ => decide (t ∈ float3Tys) && decide (t ∉ [.f16, .bf16])
  | .fminm _ t _ _ _ => decide (t ∈ float3Tys)
  | .fminmImm _ t _ _ _ => decide (t ∈ float3Tys) && decide (t ∉ [.f16, .bf16])
  | .fmaxm _ t _ _ _ => decide (t ∈ float3Tys)
  | .fmaxmImm _ t _ _ _ => decide (t ∈ float3Tys) && decide (t ∉ [.f16, .bf16])
  | .fcmp _ t _ cond _ _ _ => decide (t ∈ float3Tys) && cond.floating
  | .fcmpImm _ t _ cond _ _ _ => decide (t ∈ float3Tys) && decide (t ∉ [.f16, .bf16]) && cond.floating
  | .fsgn _ t _ _ _ _ => decide (t ∈ float3Tys)
  | .fclass _ t _ _ => decide (t ∈ float3Tys)
  | .frnd _ t _ _ _ => decide (t ∈ float3Tys)
  | .fcvt _ _ _ t ts _ _ => t.isFloat && ts.isFloat && t != ts
  | .f2i _ _ _ t ts _ _ => decide (t ∈ intTys) && ts.isFloat
  | .i2f _ _ _ t ts _ _ => t.isFloat && decide (ts ∈ intTys)
  | .rcp _ t _ _ _ => decide (t ∈ smpTys)
  | .rsq _ t _ _ => decide (t ∈ smpTys)
  | .sqrt _ t _ _ _ => decide (t ∈ smpTys)
  | .ex2 _ t _ _ => decide (t ∈ smpTys)
  | .lg2 _ t _ _ => decide (t ∈ smpTys)
  | .sin _ t _ _ => decide (t ∈ smpTys)
  | .cos _ t _ _ => decide (t ∈ smpTys)
  | .hadd2 _ t _ _ _ _ => decide (t ∈ halfTys)
  | .hmul2 _ t _ _ _ _ => decide (t ∈ halfTys)
  | .hfma2 _ t _ _ _ _ _ => decide (t ∈ halfTys)
  | .qpack _ t _ _ _ _ => decide (t ∈ float3Tys)
  | .qunpk _ t _ _ _ => decide (t ∈ float3Tys)
  | .qscale _ t _ _ _ => decide (t ∈ float3Tys)
  | .spcmp _ t _ _ _ _ _ => decide (t ∈ sparseTys)
  | .spexp _ t _ _ _ _ _ => decide (t ∈ sparseTys)
  | .br _ _ => true
  | .brImm _ _ => true
  | .brx _ _ => true
  | .call _ _ _ => true
  | .callImm _ _ _ => true
  | .callx _ _ _ => true
  | .ret _ _ => true
  | .exit _ => true
  | .yield _ => true
  | .nap _ _ _ => true
  | .brk _ => true
  | .kadd _ _ _ => true
  | .kaddImm _ _ _ => true
  | .ksub _ _ _ => true
  | .ksubImm _ _ _ => true
  | .kmul _ _ _ => true
  | .kmulImm _ _ _ => true
  | .kand _ _ _ => true
  | .kandImm _ _ _ => true
  | .kor _ _ _ => true
  | .korImm _ _ _ => true
  | .kxor _ _ _ => true
  | .kxorImm _ _ _ => true
  | .kshl _ _ _ => true
  | .kshlImm _ _ _ => true
  | .kshr _ _ _ => true
  | .kshrImm _ _ _ => true
  | .kmov _ _ => true
  | .kmovi _ _ _ => true
  | .kmoviImm _ _ _ => true
  | .kcmp t cond _ _ _ => decide (t ∈ [.i32, .n32]) && decide (cond.code < 6)
  | .kcmpImm t cond _ _ _ => decide (t ∈ [.i32, .n32]) && decide (cond.code < 6)
  | .klea _ _ _ _ => true
  | .kleaImm _ _ _ _ => true
  | .kmerge => true
  | .xpull _ t _ _ _ _ => decide (t ∈ bitTys)
  | .xpullImm _ t _ _ _ => decide (t ∈ bitTys)
  | .xpush _ t _ _ _ _ _ => decide (t ∈ bitTys)
  | .xvote _ _ _ _ _ => true
  | .xfirst _ t _ _ _ => decide (t ∈ bitTys)
  | .xred _ t rop _ _ _ => decide (t ∈ reduceTys rop)
  | .xscan _ t _ rop _ _ _ => decide (t ∈ reduceTys rop)
  | .xmatch _ t _ _ _ => decide (t ∈ bitTys)
  | .rdv _ _ => true
  | .rast _ _ _ _ _ => true
  | .mma _ _ _ _ _ => true
  | .mmaSp _ _ _ _ _ => true
  | .mmaSc _ _ _ _ _ => true
  | .mzero _ _ _ => true
  | .chdef _ _ _ _ => true
  | .chrun _ _ _ _ => true
  | .perfRd _ _ _ => true
  | .ld _ t _ _ _ _ => decide (t ∈ loadTys)
  | .ldImm _ t _ _ _ _ => decide (t ∈ loadTys) && decide (t ∉ [.b128])
  | .st _ t _ _ _ _ => decide (t ∈ loadTys)
  | .ldK _ t _ _ _ _ => decide (t ∈ quadTys)
  | .ldKImm _ t _ _ _ _ => decide (t ∈ quadTys) && decide (t ∉ [.b128])
  | .atom _ t _ aop _ _ _ _ => decide (t ∈ atomTys aop)
  | .acq _ _ _ _ _ => true
  | .rel _ _ _ _ _ => true
  | .fence _ _ => true
  | .icinv _ _ => true
  | .pf _ _ _ => true
  | .pfImm _ _ _ => true
  | .pfi _ _ _ => true
  | .pfiImm _ _ _ => true
  | .stashWb _ _ _ _ => true
  | .stashInv _ _ _ _ => true
  | .capNew _ _ _ _ _ => true
  | .capSet _ _ _ _ => true
  | .capAdd _ _ _ _ => true
  | .capBnd _ _ _ _ => true
  | .capPrm _ _ _ _ => true
  | .capChk _ _ _ _ _ => true
  | .capGet _ _ _ _ => true
  | .cpBlk _ _ _ _ _ => true
  | .cpTile _ _ _ _ _ => true
  | .cpGat _ _ _ _ _ => true
  | .cpSct _ _ _ _ _ => true
  | .cpMc _ _ _ _ _ => true
  | .cpFill _ _ _ _ => true
  | .hwait _ _ => true
  | .htest _ _ _ => true
  | .hcancel _ _ => true
  | .hmov _ _ _ => true
  | .rayGo _ _ _ _ => true
  | .rayNext _ _ _ => true
  | .rayEnd _ _ => true
  | .meSrch _ _ _ _ _ => true
  | .smp _ t _ _ _ _ => decide (t ∈ smpTys)
  | .smpG _ t _ _ _ _ => decide (t ∈ smpTys)
  | .imgSt _ t _ _ _ _ => decide (t ∈ [.f16, .f32, .b32])
  | .bind _ _ _ _ => true
  | .unbind _ _ => true
  | .tlbinv _ _ _ _ => true
  | .keyz _ _ => true
  | .ptsync _ => true
  | .sysr _ t _ _ => decide (t ∈ bitTys)
  | .sysrImm _ t _ _ => decide (t ∈ bitTys)
  | .sysw _ t _ _ => decide (t ∈ bitTys)
  | .syswImm _ t _ _ => decide (t ∈ bitTys)
  | .trap _ _ => true
  | .trapImm _ _ => true
  | .tret _ => true
  | .ckpt _ _ => true
  | .barIni _ _ _ => true
  | .barIniImm _ _ _ => true
  | .barArr _ _ _ _ => true
  | .barArrImm _ _ _ _ => true
  | .barWt _ _ _ => true
  | .barWtImm _ _ _ => true
  | .barArw _ _ _ _ => true
  | .barArwImm _ _ _ _ => true
  | .cntAdd _ _ _ => true
  | .cntRd _ _ _ _ => true
  | .cntWt _ _ _ => true
  | .launch _ _ _ _ => true
  | .nodePut _ _ _ _ => true
  | .nodeFl _ _ => true
  | .cancel _ _ _ => true
  | .clauseIssue die core _ => decide (core ≤ Config.cores die)
  | .decodedOpMissFill die core => decide (core ≤ Config.cores die)
  | .faultReportArrival _ => true
  | .replayRestore _ _ => true
  | .napCountExpiry _ => true
  | .napEarlyEnd _ => true
  | .stashEviction _ _ _ => true
  | .l1Eviction die core _ => decide (core ≤ Config.cores die)
  | .decodedOpEviction die core _ => decide (core ≤ Config.cores die)
  | .copyComplete die core _ => decide (core ≤ Config.cores die)
  | .rayRoundComplete die core _ => decide (core ≤ Config.cores die)
  | .meSrchComplete die core _ => decide (core ≤ Config.cores die)
  | .smpComplete die core _ => decide (core ≤ Config.cores die)
  | .imgStComplete die core _ => decide (core ≤ Config.cores die)
  | .arrayOpComplete die core => decide (core ≤ Config.cores die)
  | .chdefApply die core => decide (core ≤ Config.cores die)
  | .chrunComplete die core => decide (core ≤ Config.cores die)
  | .launchQueueWriteIndex die vi _ _ => decide (vi < Config.interfaces die)
  | .frontEndRecordRead die vi _ => decide (vi < Config.interfaces die)
  | .placementPass die core _ _ => decide (core ≤ Config.cores die)
  | .launchRetire _ _ => true
  | .coalesceFire _ _ => true
  | .preemption _ => true
  | .preemptAckComplete _ => true
  | .restore _ _ _ => true
  | .migration _ _ => true
  | .checkpoint _ => true
  | .checkpointStream _ => true
  | .commitRecordWrite _ => true
  | .commitAck _ => true
  | .transferRequest _ _ _ => true
  | .transferData _ _ _ => true
  | .transferAck _ _ _ => true
  | .forwardedAccess _ => true
  | .linkReceipt _ => true
  | .nonpostedCompletion _ _ _ => true
  | .hostWriteAck _ _ => true
  | .packetReceive _ _ _ _ => true
  | .linkUp _ => true
  | .requestedUndock _ => true
  | .undockDrainComplete => true
  | .surpriseRemoval => true
  | .surpriseRecovery _ _ => true
  | .lineAdvance die head => decide (1 ≤ head ∧ head ≤ Config.heads die)
  | .bandLaunch die head => decide (1 ≤ head ∧ head ≤ Config.heads die)
  | .guardLine die head => decide (1 ≤ head ∧ head ≤ Config.heads die)
  | .fallbackFill die head => decide (1 ≤ head ∧ head ≤ Config.heads die)
  | .relayBandSend die head => decide (1 ≤ head ∧ head ≤ Config.heads die)
  | .relayBandArrival die head => decide (1 ≤ head ∧ head ≤ Config.heads die)
  | .hctlWrite die head _ => decide (1 ≤ head ∧ head ≤ Config.heads die)
  | .hstatWrite die head _ => decide (1 ≤ head ∧ head ≤ Config.heads die)
  | .hqueueRead die head => decide (1 ≤ head ∧ head ≤ Config.heads die)
  | .registerWrite _ _ _ => true
  | .scrubStep _ => true
  | .virtualInterfaceReset die vi => decide (vi < Config.interfaces die)
  | .deviceReset _ => true
  | .lifeCycleChange _ _ => true
  | .powerGood _ _ _ _ => true
  | .deviceDescriptionPublish _ => true
  | .measurementExtend _ _ _ => true
  | .attestationRequest die vi _ => decide (vi < Config.interfaces die)
  | .snapshotTrigger _ _ => true
  | .d3Entry _ _ => true
  | .d0Return _ => true
  | .clockChange _ _ _ => true
  | .contextCreate _ _ _ => true
  | .granularityTableWrite die vi _ _ => decide (vi < Config.interfaces die)
  | .tlbEviction die core _ => decide (core ≤ Config.cores die)
  | .snapshotRearm _ _ => true
  | .peerWriteAcknowledgement _ => true
  | .replicaInvalidation _ _ => true
  | .hostAccess _ _ _ => true
  | .virtualInterfaceCreate die vi _ => decide (vi < Config.interfaces die)

/-- An instruction whose types, options and operands are those the spec gives it under the key.
An event has no operands to check. -/
def Instr.wfIn (key : DecodeKey) (prods : List Width) (i : Instr) : Bool :=
  i.optionsOk &&
    match i.fields with
    | none => true
    | some f =>
      match row f.op f.F key.isa (f.c == .none) with
      | none => false
      | some r => (!r.key || f.gd == always) && r.operandsOk key prods f && f.gd != ⟨7, true⟩

/-- Well-formed at the head of a clause, with the largest declared counts. -/
def Instr.wf (i : Instr) : Bool := i.wfIn DecodeKey.widest []

/-- The step is an instruction, not an event. -/
def Instr.isOp (i : Instr) : Bool := i.fields.isSome

end Sys2Proof
end

