-- ==== Sys2Proof/Decode.lean ====
section
/-! DEFINITION. Decoding: the fields of an instruction word (R53), one instruction with its literal
slots (R51), a whole clause with the checks of R62 in their order, the fields of the clause header
(R49) and of the kernel header (R64); and the encoder. -/

namespace Sys2Proof

/-- Bits [lo+len-1:lo] of a 64-bit word. -/
def bitsOf (w : DWord) (lo len : Nat) : Nat := w.toNat / 2 ^ lo % 2 ^ len

/-- The causes a decode check can have (R62). -/
inductive DecodeErr where
  | illegalOp
  | illegalClause
  | illegalOperand
  deriving DecidableEq, Repr

/-- Source fields of an instruction word that hold the literal operand, in the order A, B, C; a twin
has only A (R51, R54). -/
def literalFields (w : DWord) : List Nat :=
  (if bitsOf w 0 8 < 0x80 then [22, 32, 42] else [22]).filter fun lo => bitsOf w lo 10 == 841

/-- Literal slots that follow an instruction word (R51). -/
def literalCount (w : DWord) : Nat := (literalFields w).length

/-- The guard of an instruction word (R53). -/
def guardOf (w : DWord) : Guard := ⟨⟨bitsOf w 8 3, Nat.mod_lt _ (by decide)⟩, bitsOf w 11 1 == 1⟩

/-- The literal that the source field at bit lo takes, zero where there is none. -/
def literalFor (w : DWord) (rest : List DWord) (lo : Nat) : DWord :=
  rest.getD ((literalFields w).findIdx (· == lo)) 0

/-- The fields of an instruction word with its literals; none where an operand number is reserved
(R53, R55). -/
def fieldsOf (w : DWord) (rest : List DWord) : Option Fields := do
  let d ← Opnd.ofCode (bitsOf w 12 10) 0
  let a ← Opnd.ofCode (bitsOf w 22 10) (literalFor w rest 22)
  if bitsOf w 0 8 < 0x80 then
    let b ← Opnd.ofCode (bitsOf w 32 10) (literalFor w rest 32)
    let c ← Opnd.ofCode (bitsOf w 42 10) (literalFor w rest 42)
    some ⟨bitsOf w 0 8, bitsOf w 52 12, guardOf w, d, a, b, c, none⟩
  else
    some ⟨bitsOf w 0 8, bitsOf w 52 12, guardOf w, d, a, .none, .none,
      some (BitVec.ofNat 20 (bitsOf w 32 20))⟩

/-- The row of an instruction word (R66, R69, R72). -/
def rowOf (key : DecodeKey) (w : DWord) : Option Row :=
  row (bitsOf w 0 8) (bitsOf w 52 12) key.isa
    (if bitsOf w 0 8 < 0x80 then bitsOf w 42 10 == 1023 else true)

/-- The instruction a row makes of its fields. -/
def Row.build (r : Row) (f : Fields) : Option Instr :=
  match f.imm with
  | none => some (r.make f.gd f.d f.a f.b f.c)
  | some imm => r.makeImm.map fun m => m f.gd f.d f.a imm

/-- One instruction of a clause as decoded. -/
structure Slot where
  index : Nat
  lits : Nat
  instr : Instr
  cls : Cls
  prod : Option Width
  ctl : Bool
  reads : List RegName
  writes : List RegName
  deriving DecidableEq, Repr

/-- The instruction of a class that writes its destination at the end of its clause: M, X and E, and
ckpt (R60, R356). -/
def Cls.deferred (c : Cls) (op : Nat) : Bool :=
  match c with
  | .m | .x | .e => true
  | .a => false
  | .s => op == 0x7A

/-- Check 3 of R62: the opcode and F value, the guard, and a key-class guard. -/
def checkOp (key : DecodeKey) (w : DWord) : Option Row := do
  let r ← rowOf key w
  if guardOf w == ⟨7, true⟩ then none
  else if r.key && guardOf w != always then none
  else some r

/-- Checks 3 to 8 of R62 on the instruction at the head of a list of slots: the slots after it, the
widths of the producers before it, the nearest first, and the registers and handles that earlier M,
X and E instructions name. -/
def decodeAt (key : DecodeKey) (header : DWord) (prods : List Width) (pending : List RegName)
    (index : Nat) (w : DWord) (rest : List DWord) : Except DecodeErr Slot :=
  match checkOp key w with
  | none => .error .illegalOp
  | some r =>
    if bitsOf header r.cls.bit 1 = 0 then .error .illegalClause
    else if rest.length < literalCount w then .error .illegalClause
    else if r.last && rest.length != literalCount w then .error .illegalClause
    else
      let d := (Opnd.ofCode (bitsOf w 12 10) 0).getD .none
      let b := if bitsOf w 0 8 < 0x80 then (Opnd.ofCode (bitsOf w 32 10) 0).getD .none else .none
      let c := if bitsOf w 0 8 < 0x80 then (Opnd.ofCode (bitsOf w 42 10) 0).getD .none else .none
      if (r.dests d b c).any (· ∈ pending) then .error .illegalClause
      else
        match fieldsOf w rest with
        | none => .error .illegalOperand
        | some f =>
          if r.operandsOk key prods f then
            match r.build f with
            | none => .error .illegalOp
            | some i => .ok ⟨index, literalCount w, i, r.cls, r.prod, r.ctl,
                r.reads f.d f.a f.b f.c, r.dests f.d f.b f.c⟩
          else .error .illegalOperand

/-- The slots of a clause from one on, with fuel for its length; an error comes with the number of
the offending slot. -/
def decodeFrom (key : DecodeKey) (header : DWord) :
    Nat → List Width → List RegName → Nat → List DWord → Except (DecodeErr × Nat) (List Slot)
  | 0, _, _, _, _ => .ok []
  | _ + 1, _, _, _, [] => .ok []
  | fuel + 1, prods, pending, index, w :: rest =>
    match decodeAt key header prods pending index w rest with
    | .error e => .error (e, index)
    | .ok s =>
      let prods' := match s.prod with | some p => p :: prods | none => prods
      let pending' :=
        if s.cls.deferred (bitsOf w 0 8) then s.writes ++ pending else pending
      match decodeFrom key header fuel prods' pending' (index + 1 + s.lits) (rest.drop s.lits) with
      | .error e => .error e
      | .ok ss => .ok (s :: ss)

/-- A whole clause, its header first (R62). An error comes with the 64-bit word that offends: 0 for
the header, n + 1 for slot n. -/
def decodeClause (key : DecodeKey) (words : List DWord) :
    Except (DecodeErr × Nat) (List Slot) :=
  match words with
  | [] => .error (.illegalClause, 0)
  | header :: slots =>
    if bitsOf header 32 32 ≠ 0 then .error (.illegalClause, 0)
    else
      match decodeFrom key header slots.length [] [] 0 slots with
      | .error (e, n) => .error (e, n + 1)
      | .ok ss => .ok ss

/-- Number of slots of a clause (R48, R49). -/
def clauseSlots (header : DWord) : Nat := bitsOf header 0 4 + 1

/-- Bytes of a clause (R48). -/
def clauseBytes (header : DWord) : Nat := 8 * (bitsOf header 0 4 + 2)

/-- The landing flag (R49). -/
def clauseLands (header : DWord) : Bool := bitsOf header 4 1 == 1

/-- Whether the header's wait mask names a handle (R49). -/
def clauseWaits (header : DWord) (h : Nat) : Bool := bitsOf header (10 + h) 1 == 1

/-- The prefetch distance (R49). -/
def clausePrefetch (header : DWord) : Nat := bitsOf header 26 6

/-- A clause header that allows every class, for a clause of one instruction with literals. -/
def openHeader (slots : Nat) : DWord := BitVec.ofNat 64 (0x3E0 + (slots - 1))

/-- One instruction on its own: the word and the literal slots that follow. -/
def decodeInstr (key : DecodeKey) (prods : List Width) (words : List DWord) : Option Instr :=
  match words with
  | [] => none
  | w :: rest =>
    match decodeAt key (openHeader 16) prods [] 0 w (rest.take (literalCount w)) with
    | .ok s => some s.instr
    | .error _ => none

/-- The instruction word of the fields (R53). -/
def wordOf (f : Fields) : DWord :=
  BitVec.ofNat 64 (f.op + f.gd.idx.val * 2 ^ 8 + f.gd.neg.toNat * 2 ^ 11 + f.d.code * 2 ^ 12
    + f.a.code * 2 ^ 22
    + (match f.imm with
      | none => f.b.code * 2 ^ 32 + f.c.code * 2 ^ 42
      | some imm => imm.toNat * 2 ^ 32)
    + f.F * 2 ^ 52)

/-- The words of an instruction: its word, then one literal slot for each source A, B, C that holds
a literal (R51); an event has no words. -/
def encode (i : Instr) : List DWord :=
  match i.fields with
  | none => []
  | some f => wordOf f :: [f.a, f.b, f.c].filterMap Opnd.literal?

/-- The instruction read from an instruction whose low nbits bits are those of w and whose other bits are
zero: bit 0 is the lowest bit of the instruction word, and bit 64 that of the first literal slot. -/
def decodeTableWord (nbits w : Nat) : Option Instr :=
  let v := w % 2 ^ nbits
  decodeInstr DecodeKey.widest [] ((List.range 4).map fun i => BitVec.ofNat 64 (v / 2 ^ (64 * i)))

/-- The fields of the kernel header word (R64). -/
def kernelHandlerSteps (w : DWord) : Nat := bitsOf w 38 26
def kernelBarriers (w : DWord) : Nat := bitsOf w 29 9
def kernelScratchUnits (w : DWord) : Nat := bitsOf w 22 7
def kernelKeys (w : DWord) : Nat := bitsOf w 16 6 + 1
def kernelRegs (w : DWord) : Nat := 32 * (bitsOf w 11 5 + 1)
def kernelTide (w : DWord) : Bool := bitsOf w 10 1 == 1
def kernelProtected (w : DWord) : Bool := bitsOf w 9 1 == 1
def kernelC16 (w : DWord) : Bool := bitsOf w 8 1 == 1
def kernelRevision (w : DWord) : Nat := bitsOf w 4 4
def kernelIsa (w : DWord) : Nat := bitsOf w 0 4

/-- The decode key of a kernel header (R62). -/
def kernelKey (w : DWord) : DecodeKey := ⟨kernelIsa w, kernelRegs w, kernelKeys w⟩

end Sys2Proof
end

