-- ==== Sys2Proof/Machine/Store.lean ====
section
/-! DEFINITION. The containers of the state: a byte memory as a list of cells in one canonical form
(addresses rising, no entry equal to the reset value zero of R190), tag sets, and small key and
value lists; and the byte order of R6. -/

namespace Sys2Proof.Machine

/-- A byte memory: its cells in rising order of address. An unlisted address reads zero, the reset
value of R190. -/
abbrev Mem := List Host.Cell

/-- What an unlisted address reads as (R190). -/
def restByte : Byte := 0

/-- The canonical form: addresses strictly rise and no cell holds the unlisted value. -/
def Memory.wf : Mem → Bool
  | [] => true
  | [(_, b)] => b != restByte
  | (a, b) :: (a', b') :: m => b != restByte && decide (a < a') && Memory.wf ((a', b') :: m)

/-- One byte of a memory. -/
def memRead : Mem → Nat → Byte
  | [], _ => restByte
  | (a, b) :: m, x => if x = a then b else if x < a then restByte else memRead m x

/-- One byte written; writing the unlisted value removes the cell. -/
def memWrite : Mem → Nat → Byte → Mem
  | [], x, v => if v = restByte then [] else [(x, v)]
  | (a, b) :: m, x, v =>
    if x < a then (if v = restByte then (a, b) :: m else (x, v) :: (a, b) :: m)
    else if x = a then (if v = restByte then m else (x, v) :: m)
    else (a, b) :: memWrite m x v

/-- n bytes from an address up. -/
def memBytes (m : Mem) (a n : Nat) : List Byte := (List.range n).map fun i => memRead m (a + i)

/-- Bytes written from an address up. -/
def memPut (m : Mem) (a : Nat) : List Byte → Mem
  | [] => m
  | b :: bs => memPut (memWrite m a b) (a + 1) bs

/-- Every byte of a range zeroed. -/
def memZero (m : Mem) (a n : Nat) : Mem := m.filter fun c => decide (c.1 < a) || decide (a + n ≤ c.1)

/-- The value of bytes, the lowest address first (R6). -/
def leNat : List Byte → Nat
  | [] => 0
  | b :: bs => b.toNat + 256 * leNat bs

/-- The n bytes of a value, the lowest address first (R6). -/
def leBytes : Nat → Nat → List Byte
  | 0, _ => []
  | n + 1, v => BitVec.ofNat 8 v :: leBytes n (v / 256)

/-- The 16-byte chunks whose tag is 1, in rising order. -/
abbrev TagSet := List Nat

def tagInsert : TagSet → Nat → TagSet
  | [], c => [c]
  | x :: xs, c => if c < x then c :: x :: xs else if c = x then x :: xs else x :: tagInsert xs c

/-- The tag of one chunk written. -/
def tagPut (t : TagSet) (c : Nat) (v : Bool) : TagSet :=
  if v then tagInsert t c else t.filter (· != c)

/-- The tags of every chunk that a range of n bytes touches, cleared (R202). -/
def tagClear (t : TagSet) (a n : Nat) : TagSet :=
  if n = 0 then t else t.filter fun c => decide (c < a / 16) || decide ((a + n - 1) / 16 < c)

/-- A list of keys and values, each key once. -/
abbrev Assoc (κ α : Type) := List (κ × α)

/-- The value of a key. -/
def aget {κ α : Type} [DecidableEq κ] : Assoc κ α → κ → Option α
  | [], _ => none
  | (k, v) :: m, x => if k = x then some v else aget m x

/-- The value of a key written, at its place, or at the end where the key is new. -/
def aput {κ α : Type} [DecidableEq κ] : Assoc κ α → κ → α → Assoc κ α
  | [], x, v => [(x, v)]
  | (k, w) :: m, x, v => if k = x then (k, v) :: m else (k, w) :: aput m x v

/-- A key removed. -/
def adel {κ α : Type} [DecidableEq κ] (m : Assoc κ α) (x : κ) : Assoc κ α :=
  m.filter fun e => e.1 != x

/-- The value of a key changed, if it has one. -/
def amod {κ α : Type} [DecidableEq κ] : Assoc κ α → κ → (α → α) → Assoc κ α
  | [], _, _ => []
  | (k, v) :: m, x, f => if k = x then (k, f v) :: m else (k, v) :: amod m x f

/-- The element of a list at a place replaced. -/
def lput {α : Type} (l : List α) (n : Nat) (v : α) : List α := l.set n v

/-- The element of a list at a place removed. -/
def ldel {α : Type} (l : List α) (n : Nat) : List α := l.eraseIdx n

end Sys2Proof.Machine
end

