-- ==== Sys2Proof/Machine/State.lean ====
section
/-! DEFINITION. The state of the machine: two dies, the link between them, the contexts, coves, crews
and threads, every register, memory, queue, table and counter that the inventories of R85, R190,
R283, R322 and R371 give, and what the spec implies between them (operations in flight, requests on
the link, waits). `State.reset` is the machine after a device reset of both dies. -/

namespace Sys2Proof.Machine

/-- Why the machine stops without a next state. -/
inductive Fault where
  /-- An instruction of a clause is asked for while no clause is being issued. Raised by every
  instruction's meaning; safe: `step` never asks for it. -/
  | noThread
  /-- An access reaches a physical address beyond the DRAM of its die (R11), through a page table
  that software built so. Raised by accesses and walks; safe. -/
  | noDram
  deriving DecidableEq, Repr

/-- Why an instruction has no meaning. -/
inductive Refusal where
  /-- The instruction has no meaning in the model yet. Raised by its arm of `exec`; safe. -/
  | notModelled (mnemonic : String)
  deriving DecidableEq, Repr

/-- Trap causes (R347). -/
inductive Cause where
  | illegalOp | illegalOperand | illegalClause | landing | align | fetchFault | loadFault
  | storeFault | storeFaultLate | pageAbsent | capTag | capBounds | capPerm | formatInvalid
  | formatDivergence | gangMismatch | mmaShape | storeMismatch | linkLost | uncorrectable
  | breakpoint | step | software
  deriving DecidableEq, Repr

/-- Where an uncorrectable error was met (R402). -/
inductive ErrorAt where
  | core (die : DieId) (n : Nat)
  | sector (die : DieId) (n : Nat)
  deriving DecidableEq, Repr

/-- A trap that a thread is to enter: cause, TVAL, the named clause and slot, kind and the faults
discarded with it (R350, R351). -/
structure TrapInfo where
  cause : Cause
  tval : DWord
  clause : DWord
  slot : Nat
  kind : Nat
  discarded : Nat := 0
  loc : Option ErrorAt := none
  deriving DecidableEq, Repr

/-- A launch fault record's fields (R293). -/
structure FaultRecord where
  kind : Nat
  cause : Nat
  word4 : DWord
  clause : DWord
  slot : Nat
  cove : Nat
  crew : Nat
  lane : Nat
  deriving DecidableEq, Repr

/-- A deferred (1) or imprecise (2) fault due at a boundary, with the order in which its write was
issued (R240, R241). -/
structure Due where
  kind : Nat
  cause : Cause
  tval : DWord
  clause : DWord
  slot : Nat
  order : Nat
  loc : Option ErrorAt := none
  deriving DecidableEq, Repr

/-- The result value of a producer (R58). -/
structure Prod where
  width : Width
  value : Quad
  tag : Bool
  deriving DecidableEq, Repr

/-- The registers of a thread as they stood before a clause (R60). -/
structure RegFile where
  regs : List Word
  tags : BitVec 192
  poison : BitVec 768
  deriving DecidableEq, Repr

/-- A destination written at the end of the clause (R60). -/
inductive Defer where
  | reg (n : Nat) (w : Width) (v : Quad) (tag : Bool)
  | handle (n : Nat) (v : DWord)
  | ckpt (d : Option Nat)
  deriving DecidableEq, Repr

/-- One arrival of a thread at a rendezvous, a kmerge or a matrix gang, with its latched operands
(R174, R264). `raw` is the latch record of one restored while its instruction could not be read, which
stands as that record until it can (R177). -/
structure Latch where
  clause : DWord
  slot : Nat
  mask : Nat
  off : Bool
  instr : Instr
  vals : List Quad
  raw : List Byte
  deriving DecidableEq, Repr

/-- The line a nap sleeps on (R171): its memory, the line's first address there, and the count. -/
inductive NapAt where
  | dram (die : DieId) (ctx : Nat)
  | scratch (die : DieId) (core : Nat)
  | other (space : Nat)
  deriving DecidableEq, Repr

/-- A thread held at a slot of its clause (R24): it keeps its lane on the pipe that issued it, and goes on
with the clause as it was fetched; `since` orders the holds of a core. -/
structure Hold where
  pipe : Nat
  tide : Bool
  words : List DWord
  since : Nat
  deriving DecidableEq, Repr

/-- What a thread that stands at a clause boundary waits for (R24, R368). -/
inductive TStatus where
  | ready
  | exited
  | trapWaiting
  | napping (place : NapAt) (line : Nat) (count : Nat)
  | hwait (mask : Nat)
  | latched
  | barWait (clause : DWord) (slot : Nat) (token : Word) (barrier : Nat)
  | cntWait (clause : DWord) (slot : Nat) (level : Level) (sel : Word)
  deriving DecidableEq, Repr

/-- A resident thread (R18, R85, R350); `before` holds its registers as they stood before the clause that it
runs (R60), `stepDue` says that STEP is due at the boundary after that clause (R352), and `firstReq` is the number of the next link request as its clause started
(R241). -/
structure Thread where
  cove : CoveRef
  crew : Nat
  vlane : Nat
  status : TStatus
  pc : DWord
  resume : Nat
  hold : Option Hold
  landFrom : Option DWord
  jump : Option (DWord × Nat)
  cont : DWord
  contSlot : Nat
  regs : List Word
  tags : BitVec 192
  poison : BitVec 768
  preds : BitVec 7
  handles : List DWord
  fstat : Word
  tcause : Word
  tstat : Word
  tpc : DWord
  tval : DWord
  thandler : DWord
  prods : List Prod
  before : Option RegFile
  defer : List Defer
  latches : List Latch
  entry : Option TrapInfo
  pending : Option Due
  due : List Due
  stopper : Option TRef
  exiting : Bool
  passed : Nat
  yielded : Bool
  stepDue : Bool
  firstReq : Nat
  deriving DecidableEq, Repr

/-- A strand: one copy of the key file with its quad tags, its poison and its place in the tree of
splits (R34, R91). -/
structure Strand where
  keys : List Word
  tags : BitVec 16
  poison : Bool
  parent : Option Nat
  split : Option (DWord × Nat)
  deriving DecidableEq, Repr

/-- A resident crew: its strands, its members' pointers by lane, serial key mode for each logical
crew with the key files of its members, and the block of the save area that holds them where the
spill area of the cove does not (R34, R37, R43). -/
structure Crew where
  strands : List (Option Strand)
  ptr : List Nat
  serial : List Bool
  spilled : List Strand
  block : Option Nat
  deriving DecidableEq, Repr

/-- The state of a stash sector part that is not invalid (R190). -/
inductive PartState where
  | clean
  | dirty
  deriving DecidableEq, Repr

/-- A valid stash window (R333) with the states of its sector parts, by global start address. -/
structure Window where
  firstSector : Nat
  sectors : Nat
  offset : Nat
  parts : Assoc Nat PartState
  deriving DecidableEq, Repr

/-- A band launch's place in its head (R416). -/
structure BandRef where
  head : Nat
  seq : Nat
  band : Nat
  frame : Nat
  deriving DecidableEq, Repr

/-- A resident cove (R39, R334): what its bind record, its launch and dispatch give it. -/
structure Cove where
  index : Nat
  ctx : Nat
  vi : Nat
  launch : Nat
  vcore : Nat
  bayPos : Nat
  bayCount : Nat
  firstSlot : Nat
  crews : Nat
  scratchBase : Nat
  scratchSize : Nat
  barBase : Nat
  barCount : Nat
  stashMax : Nat
  windows : Assoc Nat Window
  kernel : Nat
  header : DWord
  system : Bool
  constBase : Nat
  constLen : Nat
  spillUser : Option Nat
  spillBlocks : List Nat
  complete : Bool
  stopping : Bool
  recorded : Option (List Byte)
  band : Option BandRef
  deriving DecidableEq, Repr

/-- A named barrier (R371). -/
structure Barrier where
  expected : Nat
  arrived : Nat
  phase : Word
  deriving DecidableEq, Repr

/-- An L1 copy of one sector part (R192, R195): the bytes and tags it holds, which may be stale. -/
structure L1Copy where
  ctx : Nat
  start : Nat
  bytes : List Byte
  tags : List Bool
  deriving DecidableEq, Repr

/-- A decoded-op entry: the words of a clause under a context and decode key (R47). -/
structure DopEntry where
  ctx : Nat
  key : DecodeKey
  addr : DWord
  words : List DWord
  deriving DecidableEq, Repr

/-- A TLB entry: a leaf with the range it covers and where it stands (R330). -/
structure TlbEntry where
  ctx : Nat
  base : Nat
  size : Nat
  leaf : DWord
  leafAt : Nat
  deriving DecidableEq, Repr

/-- A block bitmap entry (R28, R336). -/
structure BitmapEntry where
  addr : DWord
  ctx : Nat
  key : DecodeKey
  map : BitVec 1024
  deriving DecidableEq, Repr

/-- A stream of the tide rotation, or a turn of the serial queue: the threads it issues with the
clauses each has issued (R29, R30). -/
structure TideStream where
  serial : Bool
  threads : List (TRef × Nat)
  deriving DecidableEq, Repr

/-- A copy in flight (R302, R365). In this and every other operation `after` is the number of the next
link request at its issue: the requests before it precede its fork (R223). -/
structure CopyOp where
  owner : TRef
  cove : CoveRef
  handle : Option Nat
  form : Nat
  dst : Quad
  src : Quad
  desc : Quad
  progress : Nat
  after : Nat
  deriving DecidableEq, Repr

/-- What an array queue entry does (R273). -/
inductive ArrayKind where
  | mma (variant : Nat) (fmt : Word)
  | mzero
  | chdef (slot : Nat) (words : List DWord)
  | chrun (slot : Nat)
  deriving DecidableEq, Repr

/-- An array queue entry: its descriptor, its cove and the handles it completes. -/
structure ArrayOp where
  kind : ArrayKind
  cove : CoveRef
  desc : Quad
  members : List (TRef × Nat)
  after : Nat
  deriving DecidableEq, Repr

/-- A taken ray slot: its thread and park record, and the handles of the rounds asked of it, the one
in progress first (R312, R316). -/
structure RaySlot where
  owner : TRef
  cove : CoveRef
  record : Nat
  rounds : List Nat
  used : Nat
  after : Nat
  deriving DecidableEq, Repr

/-- A motion search in flight (R317). -/
structure SearchOp where
  owner : TRef
  cove : CoveRef
  handle : Option Nat
  reference : Quad
  current : Quad
  desc : Quad
  after : Nat
  deriving DecidableEq, Repr

/-- A sampling operation in flight (R319). -/
structure SampleOp where
  owner : TRef
  cove : CoveRef
  handle : Option Nat
  gather : Bool
  half : Bool
  dest : Nat
  cap : Quad
  u : Word
  v : Word
  clause : DWord
  slot : Nat
  after : Nat
  deriving DecidableEq, Repr

/-- An image store in flight (R321). -/
structure ImgOp where
  owner : TRef
  cove : CoveRef
  handle : Option Nat
  ty : Ty
  cap : Quad
  x : Word
  y : Word
  data : Quad
  after : Nat
  deriving DecidableEq, Repr

/-- The event counters of a context on a core, 0x000 to 0x008 of R392. -/
structure CtxCounters where
  clauses : DWord
  shoals : DWord
  issued : DWord
  serialIssues : DWord
  serialEntries : DWord
  l1Misses : DWord
  arrayOps : DWord
  rayRounds : DWord
  slips : DWord
  deriving DecidableEq, Repr

/-- A block's snapshot registers (R437): the sequence number latched and the control values. -/
structure Snapshot where
  seq : BitVec 16
  values : List Nat
  deriving DecidableEq, Repr

/-- A core (R8, R190, R322, R371). `tideNext` and `retryNext` alternate what its pipes take up next: the
rotation or the fusion choice (R31), and for each pipe a held clause or a new one; `ended` holds the copies that
have completed while their threads are held in the clause that issued them (R304). -/
structure Core where
  scratch : Mem
  scratchTags : TagSet
  badSectors : List Nat
  l1 : List L1Copy
  dop : List DopEntry
  dopMisses : List (Nat × DecodeKey × DWord)
  tlb : List TlbEntry
  slots : Assoc Nat Quad
  barriers : Assoc Nat Barrier
  bitmap : Assoc Nat BitmapEntry
  rotation : List (Option Nat)
  serialQ : List TRef
  stream : Option TideStream
  tideNext : Bool
  retryNext : BitVec 2
  copies : List CopyOp
  ended : List (CopyOp × DWord)
  array : List ArrayOp
  chains : Assoc Nat (Nat × List DWord)
  rays : List RaySlot
  searches : List SearchOp
  samples : List SampleOp
  images : List ImgOp
  useClock : Nat
  counters : Assoc Nat CtxCounters
  regErrors : Nat
  degraded : Bool
  deriving DecidableEq, Repr

/-- The states of a home directory entry (R331). -/
inductive DirState where
  | home
  | peer
  | absent
  | transfer
  deriving DecidableEq, Repr

/-- A launch that an instruction has appended to a device-fed queue and the front end has not read: the
number it has from its acceptance on (R380), its record, and its hold (R382). -/
structure Waiting where
  number : Word
  record : List DWord
  hold : Nat
  deriving DecidableEq, Repr

/-- A queue descriptor (R286), with the context it serves (DESIGN CHOICE, log 5) and, in a device-fed
queue, the launches whose records wait in it (R380). -/
structure Queue where
  write : BitVec 16
  read : BitVec 16
  size : Nat
  base : Nat
  priority : Nat
  replayable : Bool
  deviceFed : Bool
  enable : Bool
  ctx : Nat
  waiting : List Waiting
  deriving DecidableEq, Repr

/-- A virtual interface (R283, R286, R291, R322, R355, R380), with its display context (R411) and the fault
records whose place in the ring is in transfer (R395). -/
structure Interface where
  created : Bool
  system : Bool
  queues : List Queue
  faults : Queue
  lost : Nat
  granularity : List (BitVec 16)
  debugWord : Word
  xretry : Word
  nextEntry : Word
  resetting : Bool
  display : Option Nat
  records : List (List DWord × FaultRecord)
  deriving DecidableEq, Repr

/-- States of a front-end entry (R292). -/
inductive EntryState where
  | parked | ready | running | replaying | suspended | retiring
  deriving DecidableEq, Repr

/-- A front-end entry: a launch from its record to its retirement (R292, R371); `cut` lists its coves
that were cancelled, `errors` those that fault records named, `failures` the places of the uncorrectable
errors that it has met and `failed` the last of them (R402), and `flush` is a firing that node.fl asked for
and no entry was free for (R385). -/
structure Entry where
  vi : Nat
  ctx : Nat
  number : Word
  record : List DWord
  queue : Nat
  priority : Nat
  state : EntryState
  replayable : Bool
  header : DWord
  handler : DWord
  graph : Nat
  hold : Nat
  unplaced : List Nat
  placed : Nat
  error : Bool
  cancelled : Bool
  failures : List ErrorAt
  failed : Option FaultRecord
  written : List Nat
  firingOf : Option (Nat × Nat)
  band : Option BandRef
  cut : List Nat
  errors : List Nat
  flush : Bool
  deriving DecidableEq, Repr

/-- States of a key slot (R339). -/
inductive KeyState where
  | free
  | active
  | scrubbing
  deriving DecidableEq, Repr

/-- A key slot (R339). -/
structure KeySlot where
  data : BitVec 256
  tweak : BitVec 256
  owner : Option Nat
  state : KeyState
  deriving DecidableEq, Repr

/-- A pre-image or left copy of a granule (R190, R395, R399, R402): its context and address, the mark it belongs
to, or its launch with its place among the pre-images of launches in the order they were taken, and its contents. -/
structure PreImage where
  ctx : Nat
  va : Nat
  mark : Nat
  launch : Option Nat
  left : Bool
  bytes : Mem
  tags : TagSet
  deriving DecidableEq, Repr

/-- A read replica of a sector part homed on the peer (R208, R394), with its physical address there. -/
structure Replica where
  ctx : Nat
  start : Nat
  size : Nat
  pa : Nat
  deriving DecidableEq, Repr

/-- A cluster's router maps for a context (R338): virtual core to physical core, and bay maps. -/
structure Remap where
  ctx : Nat
  cluster : Nat
  cores : Assoc Nat Nat
  bays : Assoc (Nat × Nat × Nat) Nat
  deriving DecidableEq, Repr

/-- The teardown in progress (R430): the slot, its context and what is left to zero. -/
structure ScrubJob where
  slot : Nat
  ctx : Nat
  stage : Nat
  scratch : List (Nat × Nat)
  granules : List Nat
  done : Nat
  deriving DecidableEq, Repr

/-- The fill of a band buffer by the fixed block (R419). -/
structure Fill where
  level : Nat
  seq : Nat
  band : Nat
  frame : Nat
  line : Nat
  deriving DecidableEq, Repr

/-- A scan line of a band on virtual channel 1 (R425): width, band, frame and line, its whole 192-byte lines as
packed (R410), and what is left of it. -/
structure RelayLine where
  width : Nat
  band : Nat
  frame : Nat
  line : Nat
  packed : List Byte
  rest : List Byte
  deriving DecidableEq, Repr

/-- A head of the scan-out engine (R411 to R425): its interface, its registers and its lines; the band launches
placed, with their entries, and how those that retired ended; the frame and band of the next launch line and of
the next guard line; whether its window records are still to be written (R415); its buffers, fills, the bands whose
buffers the relay has still to send, the arriving bands by buffer, band, frame and lines, and the packets under
way; and the pixels of the line that its counter has reached, as it scans them out (R423, R425). -/
structure Head where
  ctl : DWord
  geo : DWord
  addrs : List DWord
  newGeo : Option DWord
  newAddrs : List (Option DWord)
  stopping : Bool
  frame : Nat
  line : Nat
  stat : BitVec 5
  queue : List Word
  vi : Option Nat
  bands : List (BandRef × Nat)
  results : List (BandRef × Bool)
  nextLaunch : Nat × Nat
  nextGuard : Nat × Nat
  recordsDue : Bool
  buffers : List Mem
  fills : List Fill
  arrivals : List (Nat × Nat × Nat × Nat)
  sends : List (Nat × Nat × Nat)
  inbound : List RelayLine
  pixels : List Byte
  deriving DecidableEq, Repr

/-- How far a die has come since power good (R438, R441). -/
inductive Power where
  | off
  | rom (failure : Nat)
  | d0
  | d3
  deriving DecidableEq, Repr

/-- What the description of one virtual interface reports: its system right (R291), where its queue
descriptors, its fault queue and its debug policy word stand (R286, R355), and the save areas of its contexts,
each with its base and size (R324). -/
structure InterfaceReport where
  number : Nat
  system : Bool
  queues : List Nat
  faults : Nat
  debug : Nat
  areas : List (Nat × Nat × Nat)
  deriving DecidableEq, Repr

/-- A device description as published (R12): the counts of R11, the sizes of the carve-outs (R190), where
the heads' registers stand (R412), the interfaces, and the contexts that were lost (R405). -/
structure Description where
  die : DieId
  cores : Nat
  clusters : Nat
  interfaces : Nat
  keySlots : Nat
  l2Slices : Nat
  l2Bytes : Nat
  dram : Nat
  channels : Option Nat
  busBits : Nat
  scanEngines : Nat
  heads : List Nat
  linkPorts : Nat
  tagBytes : Nat
  directoryBytes : Nat
  snapshotBytes : Nat
  mirrorBytes : Nat
  reports : List InterfaceReport
  lost : List Nat
  deriving DecidableEq, Repr

/-- A die (R11, R190, R283, R322, R371, R434 to R441); `cipher` holds the keys under which the contents of a
granule stand in DRAM as ciphertext (R429); `dram` has them in the clear. `spent` lists the blocks whose snapshot registers
have latched and have not been re-armed, `seen` the sequence numbers each has latched for, and `faultKinds` the
kinds of fault record that trigger them, a bit each (R437); `retired` the frames that firmware uses no more (R402);
`flash` the firmware image with its signature and security version that the board's flash holds (R438);
`publicKey` and `certificate` those of the identity key pair (R440); `poolGranules` the size that firmware has
given the snapshot pool (R190). -/
structure Die where
  dram : Mem
  tags : TagSet
  poisoned : List Nat
  retired : List Nat
  directory : Assoc Nat DirState
  cipher : Assoc Nat XtsKeys
  pool : List PreImage
  poolGranules : Nat
  replicas : List Replica
  cores : Assoc Nat Core
  tlb2 : Assoc Nat (List TlbEntry)
  remaps : List Remap
  vis : Assoc Nat Interface
  entries : Assoc Nat Entry
  slots : Assoc Nat KeySlot
  scrub : Option ScrubJob
  scrubPos : DWord
  scrubDone : Word
  scrubWait : List TRef
  heads : Assoc Nat Head
  memErrors : Nat
  poisonCount : Nat
  entropy : Nat
  sram : Mem
  measures : List (BitVec 512)
  identity : BitVec 512
  version : Nat
  lifeCycle : LifeCycle
  power : Power
  description : Option Description
  report : Option (Nat × List Byte)
  clocks : Assoc Block Nat
  spent : List Block
  latched : Assoc Block Snapshot
  seen : List (Block × BitVec 16)
  faultKinds : Nat
  flash : Option (List Byte × List Byte × Nat)
  publicKey : List Byte
  certificate : List Byte
  deriving DecidableEq, Repr

/-- What a request on the link or the host attachment port does (R230, R231, R394); `fill` and `clean`
fill a stash sector part and write it back, and a store or atom of space 1 writes through (R222, R233). -/
inductive ReqKind where
  | load (dest : Option (Nat × Width)) (ty : Ty)
  | store (data : List Byte) (tag : Bool)
  | atom (aop : Fin 10) (ty : Ty) (c : Quad) (dest : Option (Nat × Width))
  | acquire
  | release (data : List Byte)
  | fill (cause : Cause)
  | clean (inval : Bool)
  deriving DecidableEq, Repr

/-- Where a request stands; `lostAfter`: performed, and its acknowledgement lost with the link (R236). -/
inductive ReqPhase where
  | queued
  | performed
  | done
  | failed (cause : Cause) (tval : DWord)
  | lostAfter (tval : DWord)
  deriving DecidableEq, Repr

/-- A request of a thread that crosses the link or the host attachment port. Where `wait` is set the thread
is held at its slot for it. `base` is what the addresses of its space are relative to: the constant block's
in space 4 (R198). -/
structure Req where
  id : Nat
  die : DieId
  space : Nat
  thread : TRef
  ctx : Nat
  launch : Nat
  cove : Nat
  crew : Nat
  lane : Nat
  clause : DWord
  slot : Nat
  va : Nat
  size : Nat
  base : Nat
  system : Bool
  wait : Bool
  kind : ReqKind
  phase : ReqPhase
  data : Quad
  tag : Bool
  deriving DecidableEq, Repr

/-- The modes of the link, seen from the Dukor (R15). -/
inductive LinkMode where
  | down
  | paired
  | laptop
  deriving DecidableEq, Repr

/-- A granule ownership transfer (R395): the requester, and how far it has come. -/
structure Transfer where
  requester : DieId
  ctx : Nat
  va : Nat
  step : Nat
  oldPa : Nat
  newPa : Nat
  deriving DecidableEq, Repr

/-- A fault report on its way (R240, R348, R349): to a thread, or with no thread to the front end, and
the identity that travels with it. -/
structure Report where
  die : DieId
  thread : Option TRef
  due : Due
  launch : Nat
  cove : Nat
  crew : Nat
  lane : Nat
  deriving DecidableEq, Repr

/-- The link port pair and what is on the link (R283, R295, R296); what was issued before the number `drainFrom`
was issued before the drain began. -/
structure Link where
  mode : LinkMode
  draining : Bool
  drainFrom : Nat
  undock : List (Nat × List Place)
  nextId : Nat
  reqs : List Req
  transfers : List Transfer
  deriving DecidableEq, Repr

/-- Where a context stands as a whole (R292, R361, R404). -/
inductive CtxStatus where
  | live
  | stopping
  | preempted
  | suspended
  | lost
  deriving DecidableEq, Repr

/-- A checkpoint being streamed (R399): its number, the granules still to write and those written, and
its image with its tags until that is written; `fenced` says that the zero-length read before word 7 of a commit
in a host buffer has completed (R408). -/
structure CkptStream where
  n : Nat
  granules : List Nat
  written : List Nat
  image : Option (List Byte × List Bool)
  units : Nat
  recordDone : Bool
  fenced : Bool
  deriving DecidableEq, Repr

/-- A mirror as firmware set it (R400): in the Craren's memory, or a pinned host buffer (R408). -/
structure Mirror where
  host : Bool
  base : Nat
  size : Nat
  entries : Nat
  deriving DecidableEq, Repr

/-- A recorded cove that no placement has restored yet: its section and its copy records (R41, R370), and its
stopped copies without a handle, which no copy record can hold (R365, log 38), their threads by crew and lane. -/
structure Recorded where
  bytes : List Byte
  copies : List (List Byte)
  loose : List CopyOp
  deriving DecidableEq, Repr

/-- A context (R322, R324, R332, R360, R399, R428); `started` says that its first launch has been
dispatched (R323). `ckpt` and `evict` say what a stop in progress is for, `copies` holds the copies it
has stopped; `saved`, `blocks`, `places`, `behind`, `bad` and `loose` are what the image of the last pre-emption
does not hold: its entries, spill blocks and places, the threads whose pending fault waits for a tret (R351), the
poisoned sectors of its coves' scratchpads (R193) and its stopped copies without a handle (log 38), these by launch
number and cove;
`waiting` the recorded coves that no placement has restored yet, and `left` the image and its tags last
recorded on the Craren before the context left it, with the last checkpoint number then (R397); `marks` holds the
launches that waited in its device-fed queues when the images that a recovery may restore were recorded, by
checkpoint number, that of `left` under 0 (R405). -/
structure Context where
  die : DieId
  home : DieId
  vi : Nat
  rootCraren : Option Nat
  rootDukor : Option Nat
  saveBase : Nat
  saveSize : Nat
  keySlot : Option Nat
  mirror : Option Mirror
  bindings : Assoc Nat Quad
  started : Bool
  strong : Bool
  status : CtxStatus
  ckpt : Option Nat
  askers : List (TRef × Option Nat)
  asked : Bool
  evict : Bool
  recorded : Nat
  committed : Nat
  stream : Option CkptStream
  copies : List CopyOp
  saved : List (Nat × Entry)
  blocks : List (Word × Nat × List Nat)
  places : List Place
  behind : List (Word × Nat × Nat × Nat)
  bad : List (Word × Nat × List Nat)
  loose : List (Word × Nat × CopyOp)
  waiting : List Recorded
  left : Option (List Byte × List Bool)
  leftMark : Nat
  marks : List (Nat × List (List Waiting))
  deriving DecidableEq, Repr

/-- A clause in issue (R24): its pipe, the shoal's members, the threads that have the current slot before
them, and the clause's words, its header first. -/
structure Issue where
  die : DieId
  core : Nat
  pipe : Nat
  tide : Bool
  addr : DWord
  key : DecodeKey
  words : List DWord
  slot : Nat
  members : List TRef
  todo : List TRef
  deriving DecidableEq, Repr

/-- A latent error in a code word (R22, R91, R193), found when the word is next read. -/
inductive Upset where
  | reg (die : DieId) (core slot reg : Nat) (double : Bool)
  | strand (cove : CoveRef) (crew strand : Nat) (double : Bool)
  | sector (die : DieId) (n : Nat) (double : Bool)
  | scratch (die : DieId) (core n : Nat) (double : Bool)
  deriving DecidableEq, Repr

/-- The machine. `hostBuffer` is what the checkpoint streamer has written into the pinned buffers of the host,
by space 5 address (R408). `turn`, `fresh` and `agenda` are the model's own: whose turn the next default step
is, the count of free values drawn, and the events from outside that are still to come. -/
structure State where
  craren : Die
  dukor : Die
  link : Link
  hostBuffer : Mem
  contexts : Assoc Nat Context
  coves : Assoc CoveRef Cove
  crews : Assoc (CoveRef × Nat) Crew
  threads : Assoc TRef Thread
  upsets : List Upset
  reports : List Report
  issue : Option Issue
  agenda : List Instr
  turn : Nat
  fresh : Nat
  deriving DecidableEq, Repr

/-- A core after reset (R190, R322, R371). -/
def Core.reset : Core where
  scratch := []
  scratchTags := []
  badSectors := []
  l1 := []
  dop := []
  dopMisses := []
  tlb := []
  slots := []
  barriers := []
  bitmap := []
  rotation := []
  serialQ := []
  stream := none
  tideNext := false
  retryNext := 0
  copies := []
  ended := []
  array := []
  chains := []
  rays := []
  searches := []
  samples := []
  images := []
  useClock := 0
  counters := []
  regErrors := 0
  degraded := false

/-- A queue descriptor after reset: disabled, indices 0 (R283). -/
def Queue.reset : Queue := ⟨0, 0, 0, 0, 0, false, false, false, 0, []⟩

/-- A virtual interface after reset (R85, R291, R322). -/
def Interface.reset : Interface where
  created := false
  system := false
  queues := List.replicate 8 Queue.reset
  faults := Queue.reset
  lost := 0
  granularity := [0, 0, 0, 0]
  debugWord := 0
  xretry := 0
  nextEntry := 0
  resetting := false
  display := none
  records := []

/-- A head after reset (R412). -/
def Head.reset : Head where
  ctl := 0
  geo := 0
  addrs := List.replicate 7 0
  newGeo := none
  newAddrs := List.replicate 7 none
  stopping := false
  frame := 0
  line := 0
  stat := 0
  queue := []
  vi := none
  bands := []
  results := []
  nextLaunch := (0, 0)
  nextGuard := (0, 0)
  recordsDue := false
  buffers := [[], []]
  fills := []
  arrivals := []
  sends := []
  inbound := []
  pixels := []

/-- A die after its reset wipe, with signed firmware in control (R434, R438; log 7). -/
def Die.reset : Die where
  dram := []
  tags := []
  poisoned := []
  retired := []
  directory := []
  cipher := []
  pool := []
  poolGranules := 0
  replicas := []
  cores := []
  tlb2 := []
  remaps := []
  vis := []
  entries := []
  slots := []
  scrub := none
  scrubPos := 0
  scrubDone := 1
  scrubWait := []
  heads := []
  memErrors := 0
  poisonCount := 0
  entropy := 0
  sram := []
  measures := List.replicate 8 0
  identity := 0
  version := 0
  lifeCycle := .production
  power := .d0
  description := none
  report := none
  clocks := []
  spent := []
  latched := []
  seen := []
  faultKinds := 0
  flash := none
  publicKey := []
  certificate := []

/-- The link with nothing on it (R283). -/
def Link.reset : Link := ⟨.down, false, 0, [], 0, [], []⟩

/-- The machine after a device reset of both dies, unpaired, with no context. -/
def State.reset : State where
  craren := Die.reset
  dukor := Die.reset
  link := Link.reset
  hostBuffer := []
  contexts := []
  coves := []
  crews := []
  threads := []
  upsets := []
  reports := []
  issue := none
  agenda := []
  turn := 0
  fresh := 0

end Sys2Proof.Machine
end

