-- ==== Sys2Proof/Machine/Ops.lean ====
section
/-! DEFINITION. The named operations over the state: its parts, the registers with their tags, poison
and code words (R21, R22, R88, R89), handles, FSTAT, scratchpad, and taking a trap and returning
from one (R351, R353). -/

namespace Sys2Proof.Machine

/-- Why an instruction does not complete at its slot: a precise trap with its TVAL, a hold of the
lane at the slot, or a stop of the machine. -/
inductive Stop where
  | trap (c : Cause) (tval : DWord)
  | hold
  | halt (f : Fault)
  deriving DecidableEq, Repr

/-- The code of a cause (R347). -/
def Cause.code : Cause → Nat
  | .illegalOp => 1 | .illegalOperand => 2 | .illegalClause => 3 | .landing => 4 | .align => 5
  | .fetchFault => 6 | .loadFault => 7 | .storeFault => 8 | .storeFaultLate => 9
  | .pageAbsent => 10 | .capTag => 11 | .capBounds => 12 | .capPerm => 13 | .formatInvalid => 14
  | .formatDivergence => 15 | .gangMismatch => 16 | .mmaShape => 17 | .storeMismatch => 18
  | .linkLost => 19 | .uncorrectable => 20 | .breakpoint => 21 | .step => 22 | .software => 23

/-- The cause of a code. -/
def Cause.ofCode : Nat → Option Cause
  | 1 => some .illegalOp | 2 => some .illegalOperand | 3 => some .illegalClause
  | 4 => some .landing | 5 => some .align | 6 => some .fetchFault | 7 => some .loadFault
  | 8 => some .storeFault | 9 => some .storeFaultLate | 10 => some .pageAbsent
  | 11 => some .capTag | 12 => some .capBounds | 13 => some .capPerm | 14 => some .formatInvalid
  | 15 => some .formatDivergence | 16 => some .gangMismatch | 17 => some .mmaShape
  | 18 => some .storeMismatch | 19 => some .linkLost | 20 => some .uncorrectable
  | 21 => some .breakpoint | 22 => some .step | 23 => some .software | _ => none

/-- The cause of a failed decode check (R62). -/
def causeOfDecode : DecodeErr → Cause
  | .illegalOp => .illegalOp
  | .illegalClause => .illegalClause
  | .illegalOperand => .illegalOperand

/-- The other die. -/
def otherDie : DieId → DieId
  | .craren => .dukor
  | .dukor => .craren

/-- A 64-bit value of an address computed exactly. -/
def dw (n : Nat) : DWord := BitVec.ofNat 64 n

/-! The parts of the state. -/

def State.die (s : State) : DieId → Die
  | .craren => s.craren
  | .dukor => s.dukor

def State.setDie (s : State) (d : DieId) (x : Die) : State :=
  match d with
  | .craren => { s with craren := x }
  | .dukor => { s with dukor := x }

def State.modDie (s : State) (d : DieId) (f : Die → Die) : State := s.setDie d (f (s.die d))

def Die.core (x : Die) (n : Nat) : Core := (aget x.cores n).getD Core.reset

def State.core (s : State) (d : DieId) (n : Nat) : Core := (s.die d).core n

def State.modCore (s : State) (d : DieId) (n : Nat) (f : Core → Core) : State :=
  s.modDie d fun x => { x with cores := aput x.cores n (f (x.core n)) }

def State.thread? (s : State) (r : TRef) : Option Thread := aget s.threads r

def State.modThread (s : State) (r : TRef) (f : Thread → Thread) : State :=
  { s with threads := amod s.threads r f }

def State.cove? (s : State) (c : CoveRef) : Option Cove := aget s.coves c

def State.modCove (s : State) (c : CoveRef) (f : Cove → Cove) : State :=
  { s with coves := amod s.coves c f }

def State.crew? (s : State) (c : CoveRef) (n : Nat) : Option Crew := aget s.crews (c, n)

def State.modCrew (s : State) (c : CoveRef) (n : Nat) (f : Crew → Crew) : State :=
  { s with crews := amod s.crews (c, n) f }

def State.ctx? (s : State) (n : Nat) : Option Context := aget s.contexts n

def State.modCtx (s : State) (n : Nat) (f : Context → Context) : State :=
  { s with contexts := amod s.contexts n f }

def Die.vi (x : Die) (n : Nat) : Interface := (aget x.vis n).getD Interface.reset

def State.vi (s : State) (d : DieId) (n : Nat) : Interface := (s.die d).vi n

def State.modVi (s : State) (d : DieId) (n : Nat) (f : Interface → Interface) : State :=
  s.modDie d fun x => { x with vis := aput x.vis n (f (x.vi n)) }

def State.entry? (s : State) (d : DieId) (n : Nat) : Option Entry := aget (s.die d).entries n

def State.modEntry (s : State) (d : DieId) (n : Nat) (f : Entry → Entry) : State :=
  s.modDie d fun x => { x with entries := amod x.entries n f }

def Die.head (x : Die) (n : Nat) : Head := (aget x.heads n).getD Head.reset

def State.head (s : State) (d : DieId) (n : Nat) : Head := (s.die d).head n

def State.modHead (s : State) (d : DieId) (n : Nat) (f : Head → Head) : State :=
  s.modDie d fun x => { x with heads := aput x.heads n (f (x.head n)) }

/-- The event counters of a context on a core after switch-in (R371). -/
def CtxCounters.zero : CtxCounters := ⟨0, 0, 0, 0, 0, 0, 0, 0, 0⟩

def Core.counters? (c : Core) (ctx : Nat) : CtxCounters := (aget c.counters ctx).getD CtxCounters.zero

def State.count (s : State) (d : DieId) (n ctx : Nat) (f : CtxCounters → CtxCounters) : State :=
  s.modCore d n fun c => { c with counters := aput c.counters ctx (f (c.counters? ctx)) }

/-- A free value, and the state with the next one to draw (log 2). -/
def State.draw (s : State) : BitVec 128 × State :=
  (Config.freeValue s.fresh, { s with fresh := s.fresh + 1 })

/-- The register count, key count and protection of the thread's launch, by its cove's header. -/
def Cove.regCount (c : Cove) : Nat := kernelRegs c.header
def Cove.keyCount (c : Cove) : Nat := kernelKeys c.header
def Cove.isProtected (c : Cove) : Bool := kernelProtected c.header
def Cove.isC16 (c : Cove) : Bool := kernelC16 c.header
def Cove.key (c : Cove) : DecodeKey := kernelKey c.header

/-- W of R23: 32 lanes in an ordinary launch, 16 in protected and compatibility mode. -/
def Cove.width (c : Cove) : Nat := if c.isProtected || c.isC16 then 16 else 32

/-- Declared scratchpad bytes of a cove (R64). -/
def Cove.declared (c : Cove) : Nat := kernelScratchUnits c.header * 4096

/-- The core a thread runs on. -/
def State.coreOf (s : State) (r : TRef) : Core := s.core r.die r.core

/-- The shadow of a visible thread in protected launch mode (R42). -/
def shadowOf (r : TRef) : TRef := { r with lane := r.lane + 1 }

/-- A thread on an odd lane of a protected launch is a shadow (R42). -/
def isShadow (c : Cove) (r : TRef) : Bool := c.isProtected && r.lane % 2 == 1

/-- The crew a thread's key file belongs to and its half: in compatibility mode lanes 16 to 31 form
the second logical crew (R43). -/
def logicalHalf (c : Cove) (lane : Nat) : Nat := if c.isC16 && !c.isProtected then lane / 16 else 0

/-- The virtual number of a thread's crew: 2c and 2c + 1 in compatibility mode without protection
(R23, R43). -/
def crewNumber (c : Cove) (crew lane : Nat) : Nat :=
  if c.isC16 && !c.isProtected then 2 * crew + lane / 16 else crew

/-- The threads of a cove's crew, in lane order. -/
def State.crewThreads (s : State) (cv : CoveRef) (crew : Nat) : List (TRef × Thread) :=
  (s.threads.filter fun e => e.2.cove == cv && e.2.crew == crew).mergeSort
    fun x y => decide (x.1.lane ≤ y.1.lane)

def State.coveThreads (s : State) (cv : CoveRef) : List (TRef × Thread) :=
  s.threads.filter fun e => e.2.cove == cv

/-- An active member (R34, R169): not exited. -/
def Thread.active (t : Thread) : Bool := t.status != .exited

/-- Held at a slot of its clause (R24). -/
def Thread.held (t : Thread) : Bool := t.hold.isSome

/-! Registers. -/

/-- The value of a general register. -/
def Thread.reg (t : Thread) (n : Nat) : Word := t.regs.getD n 0

/-- The value of an aligned group of registers (R56). -/
def Thread.group (t : Thread) (n : Nat) (w : Width) : Quad :=
  match w with
  | .w32 => (t.reg n).setWidth 128
  | .w64 => ((t.reg (n + 1)) ++ (t.reg n)).setWidth 128
  | .w128 => (t.reg (n + 3)) ++ (t.reg (n + 2)) ++ (t.reg (n + 1)) ++ (t.reg n)

/-- The tag of the aligned quad that holds a register. -/
def Thread.tagOf (t : Thread) (n : Nat) : Bool := t.tags.getLsbD (n / 4)

/-- Whether any register of a group is poisoned (R22). -/
def Thread.poisoned (t : Thread) (n : Nat) (w : Width) : Bool :=
  (List.range w.regs).any fun j => t.poison.getLsbD (n + j)

/-- A bit of a vector written. -/
def bitPut {w : Nat} (v : BitVec w) (n : Nat) (b : Bool) : BitVec w :=
  if b then v ||| BitVec.twoPow w n else v &&& ~~~ BitVec.twoPow w n

/-- A group of registers written: the tag of its quad becomes the given one for a capability write
and clears otherwise (R88), and the poison of each register clears (R89). -/
def Thread.write (t : Thread) (n : Nat) (w : Width) (v : Quad) (tag : Bool) : Thread :=
  { t with
    regs := (List.range w.regs).foldl
      (fun rs j => rs.set (n + j) (BitVec.extractLsb' (32 * j) 32 v)) t.regs
    tags := bitPut t.tags (n / 4) (tag && w == .w128)
    poison := (List.range w.regs).foldl (fun p j => bitPut p (n + j) false) t.poison }

/-- The registers of a thread as they stand. -/
def Thread.file (t : Thread) : RegFile := ⟨t.regs, t.tags, t.poison⟩

/-- What the class-A writes of a clause have put into a group since it began, as writes at its end. -/
def Thread.since (t : Thread) (b : RegFile) (n : Nat) (w : Width) : List Defer :=
  let old : Thread := { t with regs := b.regs, tags := b.tags }
  if w == .w128 && !t.poisoned n w && (t.group n w != old.group n w || t.tagOf n != old.tagOf n) then
    [.reg n w (t.group n w) (t.tagOf n)]
  else
    (List.range w.regs).filterMap fun j =>
      if t.reg (n + j) != b.regs.getD (n + j) 0 || (b.poison.getLsbD (n + j) && !t.poison.getLsbD (n + j)) then
        some (.reg (n + j) .w32 ((t.reg (n + j)).setWidth 128) false)
      else none

/-- A group that an M, X or E instruction names as its destination reads as it stood before the clause until
the clause ends (R60); a class-A write of it in the clause takes its place before the instruction's own. -/
def Thread.hide (t : Thread) (n : Nat) (w : Width) : Thread :=
  match t.before with
  | none => t
  | some b =>
    match t.since b n w with
    | [] => t
    | ds =>
      { t with
        defer := t.defer ++ ds
        regs := (List.range w.regs).foldl (fun rs j => rs.set (n + j) (b.regs.getD (n + j) 0)) t.regs
        tags := if w == .w128 && !t.poisoned n w then bitPut t.tags (n / 4) (b.tags.getLsbD (n / 4)) else t.tags
        poison := (List.range w.regs).foldl
          (fun p j => bitPut p (n + j) (p.getLsbD (n + j) || b.poison.getLsbD (n + j))) t.poison }

/-- The same for the destination that an instruction has, if it is a register. -/
def Thread.hideDest (t : Thread) (d : Option (Nat × Width)) : Thread :=
  match d with
  | some (n, w) => t.hide n w
  | none => t

/-- A strand with its poison set. -/
def Crew.poisonStrand (cr : Crew) (i : Nat) : Crew :=
  { cr with strands := cr.strands.set i ((cr.strands.getD i none).map fun k =>
      { k with poison := true }) }

/-- A corrected error of a code word of a core is counted (R22). -/
def State.countRegError (s : State) (d : DieId) (core : Nat) : State :=
  s.modCore d core fun x => { x with regErrors := min (x.regErrors + 1) (2 ^ 64 - 1) }

/-- A latent error of a crew code word or of a strand is found (R22, R91): a single bit is corrected and
counted; a double bit poisons the register in all members and clears the tag of its quad (R89), or
poisons the strand. -/
def State.foundError (s : State) (u : Upset) : State :=
  let s1 := { s with upsets := s.upsets.erase u }
  match u with
  | .reg d c sl g true =>
    { s1 with threads := s1.threads.map fun e =>
        if e.1.die == d && e.1.core == c && e.1.slot == sl then
          (e.1, { e.2 with poison := bitPut e.2.poison g true, tags := bitPut e.2.tags (g / 4) false })
        else e }
  | .reg d c _ _ false => s1.countRegError d c
  | .strand cv cr k true => s1.modCrew cv cr (Crew.poisonStrand · k)
  | .strand cv _ _ false => s1.countRegError cv.die cv.core
  | _ => s

/-- Every latent error that meets a condition is found. -/
def State.findErrors (s : State) (p : Upset → Bool) : State := (s.upsets.filter p).foldl State.foundError s

/-- A latent error of the code word of a general register of a crew. -/
def Upset.ofReg (r : TRef) (n : Nat) : Upset → Bool
  | .reg d c sl g _ => d == r.die && c == r.core && sl == r.slot && g == n
  | _ => false

/-- A general register's code word is read: its latent errors are found (R22). -/
def State.touchReg (s : State) (r : TRef) (n : Nat) : State := s.findErrors (Upset.ofReg r n)

/-- The latent errors of a group of general registers are found. -/
def State.touchGroup (s : State) (r : TRef) (n : Nat) (w : Width) : State :=
  (List.range w.regs).foldl (fun s j => s.touchReg r (n + j)) s

/-- A latent error of a code word of a cove's crews. -/
def Upset.ofCove (cr : CoveRef) (c : Cove) : Upset → Bool
  | .reg e n k _ _ => e == cr.die && n == cr.core && decide (c.firstSlot ≤ k) && decide (k < c.firstSlot + c.crews)
  | .strand k _ _ _ => k == cr
  | _ => false

/-- The latent errors of the code words of a cove's crews, as dispatch or a restore writes them whole,
leave with what the words held (R89, R91). -/
def State.freshWords (s : State) (cr : CoveRef) (c : Cove) : State :=
  { s with upsets := s.upsets.filter fun u => !u.ofCove cr c }

/-- The strands that lanes of a crew point to, without those of a half in serial key mode. -/
def State.strandsOf (s : State) (cv : CoveRef) (crew : Nat) (lanes : List Nat) : List Nat :=
  match s.crew? cv crew, s.cove? cv with
  | some cr, some c =>
    (lanes.filter fun x => !cr.serial.getD (logicalHalf c x) false).map fun x => cr.ptr.getD x 0
  | _, _ => []

/-- A latent error of one of the strands of a crew. -/
def Upset.ofStrands (cv : CoveRef) (crew : Nat) (ks : List Nat) : Upset → Bool
  | .strand c n k _ => c == cv && n == crew && ks.contains k
  | _ => false

/-- The strands of lanes of a crew are read: their latent errors are found (R91). -/
def State.touchLanes (s : State) (cv : CoveRef) (crew : Nat) (lanes : List Nat) : State :=
  s.findErrors (Upset.ofStrands cv crew (s.strandsOf cv crew lanes))

/-- The strand that a thread points to is read. -/
def State.touchKey (s : State) (r : TRef) : State :=
  match s.thread? r with
  | none => s
  | some t => s.touchLanes t.cove t.crew [r.lane]

/-- The latent error of one register is found. -/
def State.touchName (s : State) (r : TRef) (n : RegName) : State :=
  match n with
  | .g k => s.touchReg r k
  | .k _ => s.touchKey r
  | .h _ => s

/-- The latent errors of the registers an instruction reads or writes are found. -/
def State.touch (s : State) (r : TRef) (names : List RegName) : State :=
  names.foldl (fun s n => s.touchName r n) s

/-- OR of flags into FSTAT (R97). -/
def Thread.orFlags (t : Thread) (f : Word) : Thread := { t with fstat := t.fstat ||| (f &&& 31) }

/-- A handle written. -/
def Thread.setHandle (t : Thread) (n : Nat) (v : DWord) : Thread :=
  { t with handles := t.handles.set n v }

def Thread.handle (t : Thread) (n : Nat) : DWord := t.handles.getD n 0

/-- The word of a handle with a status and a count (R297). -/
def handleWord (status count : Nat) : DWord := BitVec.ofNat 64 (status * 2 ^ 48 + count % 2 ^ 48)

def handleStatus (v : DWord) : Nat := v.toNat / 2 ^ 48
def handleCount (v : DWord) : Nat := v.toNat % 2 ^ 48

/-- The pending word (R298). -/
def pendingWord : DWord := handleWord 0x8000 0

/-- Complete: every status but pending (R297). -/
def handleComplete (v : DWord) : Bool := handleStatus v != 0x8000

/-- The word of a faulted handle (R297, R347). -/
def faultedWord (c : Cause) (count : Nat) : DWord := handleWord (0x4000 + c.code) count

/-- Where a thread stands when no wait of its own holds it: at its latches, or ready. -/
def Thread.restStatus (t : Thread) : TStatus := if t.latches.isEmpty then .ready else .latched

/-- A thread that waits at hwait goes on once every named handle is complete (R305): it is ready, or at what
it arrived at in its clause. -/
def Thread.wakeHwait (t : Thread) : Thread :=
  match t.status with
  | .hwait m =>
    if (List.range 16).all fun n => !m.testBit n || handleComplete (t.handle n) then
      { t with
        status := t.restStatus
        passed := 0
        tstat := if t.stopper.isSome && t.latches.isEmpty && !t.held then t.tstat ||| 32 else t.tstat }
    else t
  | _ => t

/-- A pending word that waits for the end of its clause. -/
def Defer.isPending (n : Nat) : Defer → Bool
  | .handle k v => k == n && v == pendingWord
  | _ => false

/-- An operation's completion at one handle of a thread: discarded when the thread has exited or the
handle is no longer pending; a pending word not yet written gives way to it (R94). -/
def Thread.complete (t : Thread) (n : Nat) (v : DWord) : Thread :=
  if !t.active then t
  else if t.defer.any (Defer.isPending n) then
    { t with defer := t.defer.map fun d => if d.isPending n then .handle n v else d }
  else if handleComplete (t.handle n) then t
  else (t.setHandle n v).wakeHwait

/-- A completion at a thread's handle. -/
def State.completeOne (s : State) (r : TRef) (h : Option Nat) (v : DWord) : State :=
  match h with
  | none => s
  | some n => s.modThread r fun t => t.complete n v

/-- The cove of a thread is in protected launch mode. -/
def State.pairAt (s : State) (r : TRef) : Bool :=
  match (s.thread? r).bind fun t => s.cove? t.cove with
  | some cv => cv.isProtected
  | none => false

/-- A completion at the handle of the thread that issued the operation, and in protected launch mode
of its shadow (R42). -/
def State.completeHandle (s : State) (r : TRef) (h : Option Nat) (v : DWord) : State :=
  if s.pairAt r then (s.completeOne r h v).completeOne (shadowOf r) h v else s.completeOne r h v

/-- Flags of an operation, ORed into FSTAT of its thread when it completes, and of its shadow (R97,
R42). -/
def State.orFlags (s : State) (r : TRef) (f : Word) : State :=
  let s1 := s.modThread r (Thread.orFlags · f)
  if s1.pairAt r then s1.modThread (shadowOf r) (Thread.orFlags · f) else s1

/-! Scratchpad of a core, by physical offset. -/

def State.scratchBytes (s : State) (d : DieId) (c a n : Nat) : List Byte :=
  memBytes (s.core d c).scratch a n

/-- A nap ends: the thread is ready with a passed count of zero (R27). -/
def Thread.wake (t : Thread) : Thread :=
  match t.status with
  | .napping _ _ _ => { t with status := t.restStatus, passed := 0 }
  | _ => t

/-- A write to bytes of a core's scratchpad ends the naps on the lines it touches (R171). -/
def State.wakeScratch (s : State) (d : DieId) (c a n : Nat) : State :=
  { s with threads := s.threads.map fun e =>
      match e.2.status with
      | .napping (.scratch d' c') line _ =>
        if d' == d && c' == c && decide (a < line + 192) && decide (line < a + n) then
          (e.1, e.2.wake)
        else e
      | .napping (.other _) _ _ => (e.1, e.2.wake)
      | _ => e }

/-- A write performed in space 5 ends the naps on lines of spaces without an own place (R171). -/
def State.wakeOthers (s : State) : State :=
  { s with threads := s.threads.map fun e => match e.2.status with
      | .napping (.other _) _ _ => (e.1, e.2.wake)
      | _ => e }

/-- A sector lies whole in a range. -/
def wholeSector (a n k : Nat) : Bool := decide (a ≤ 48 * k) && decide (48 * k + 48 ≤ a + n)

/-- The sectors of a core's scratchpad that lie whole in a range are written anew: no error stands in them
any more (log 111). -/
def Core.heal (k : Core) (a n : Nat) : Core :=
  { k with badSectors := k.badSectors.filter fun x => !wholeSector a n x }

/-- The latent errors of such sectors leave with what they held. -/
def State.freshScratch (s : State) (d : DieId) (c a n : Nat) : State :=
  { s with upsets := s.upsets.filter fun u => match u with
      | .scratch e k m _ => !(e == d && k == c && wholeSector a n m)
      | _ => true }

/-- Bytes written to a core's scratchpad; the tags of the chunks they touch clear (R202), and a bad sector written
whole is good again (log 111). -/
def State.scratchPut (s : State) (d : DieId) (c a : Nat) (bs : List Byte) : State :=
  ((s.freshScratch d c a bs.length).modCore d c fun x =>
    { x.heal a bs.length with
      scratch := memPut x.scratch a bs
      scratchTags := tagClear x.scratchTags a bs.length }).wakeScratch d c a bs.length

/-- Scratchpad bytes zeroed, with their tags and their poison (R191). -/
def State.zeroScratch (s : State) (d : DieId) (c a n : Nat) : State :=
  (s.freshScratch d c a n).modCore d c fun k =>
    { k.heal a n with
      scratch := memZero k.scratch a n
      scratchTags := tagClear k.scratchTags a n }

/-- The tag of one scratchpad chunk. -/
def State.scratchTag (s : State) (d : DieId) (c chunk : Nat) : Bool :=
  (s.core d c).scratchTags.contains chunk

def State.scratchTagPut (s : State) (d : DieId) (c chunk : Nat) (v : Bool) : State :=
  s.modCore d c fun x => { x with scratchTags := tagPut x.scratchTags chunk v }

/-- Scratchpad bytes written with the tags of their chunks. -/
def State.scratchSet (s : State) (d : DieId) (core p : Nat) (bs : List Byte) (tags : List Bool) :
    State :=
  (List.range tags.length).foldl
    (fun s i => if tags.getD i false then s.scratchTagPut d core (p / 16 + i) true else s)
    (s.scratchPut d core p bs)

/-- A little-endian value of a core's scratchpad. -/
def State.scratchNat (s : State) (d : DieId) (c a n : Nat) : Nat := leNat (s.scratchBytes d c a n)

/-! The thread whose turn it is in the clause being issued. -/

/-- The issue, the thread, its state and its cove. -/
structure Cur where
  iss : Issue
  r : TRef
  t : Thread
  cv : Cove
  deriving DecidableEq, Repr

/-- The thread that has the current slot of the clause in issue before it. -/
def State.cur (s : State) : Option Cur := do
  let iss ← s.issue
  let r ← iss.todo.head?
  let t ← s.thread? r
  let cv ← s.cove? t.cove
  some ⟨iss, r, t, cv⟩

/-- The context of the current thread. -/
def Cur.ctx (c : Cur) : Nat := c.cv.ctx

/-- The address of the sequential successor of the clause in issue (R48). -/
def Issue.successor (i : Issue) : DWord := i.addr + dw (clauseBytes (i.words.headD 0))

/-! Traps. -/

/-- The status word fields of TSTAT (R350). -/
def tstatH (w : Word) : Bool := w.getLsbD 2
def tstatS (w : Word) : Bool := w.getLsbD 3
def tstatX (w : Word) : Bool := w.getLsbD 5
def tstatN (w : Word) : Bool := w.getLsbD 6
def tstatW (w : Word) : Bool := w.getLsbD 7
def tstatKind (w : Word) : Nat := w.toNat % 4

/-- TPC of a clause and slot (R350). -/
def tpcWord (clause : DWord) (slot : Nat) : DWord :=
  BitVec.ofNat 64 (slot * 2 ^ 60 + clause.toNat % 2 ^ 55)

/-- TSTAT at trap entry: the discarded count, W, N and X clear, D from H, H set, the kind; S is
kept (R351). -/
def entryTstat (w : Word) (kind discarded : Nat) : Word :=
  BitVec.ofNat 32 (min discarded 255 * 2 ^ 16 + (if tstatH w then 16 else 0)
    + (if tstatS w then 8 else 0) + 4 + kind % 4)

/-- The offset of a ray's park record in its core's scratchpad. -/
def State.recordAt (s : State) (x : RaySlot) : Nat :=
  match s.cove? x.cove with
  | some c => c.scratchBase + x.record
  | none => x.record

/-- Parking a ray: state 1 into its record, its slot freed, and the round in progress and any round
after it completed as parked (R316). -/
def State.parkRay (s : State) (d : DieId) (c : Nat) (x : RaySlot) : State :=
  let old := s.scratchNat d c (s.recordAt x + 64) 4
  let s1 := s.scratchPut d c (s.recordAt x + 64) (leBytes 4 (old / 4 * 4 + 1))
  let s2 := s1.modCore d c fun k => { k with rays := k.rays.erase x }
  x.rounds.foldl (fun s h => s.completeHandle x.owner (some h) (handleWord 3 0)) s2

/-- Every ray of a core that meets a condition is parked. -/
def State.parkRays (s : State) (d : DieId) (c : Nat) (p : RaySlot → Bool) : State :=
  ((s.core d c).rays.filter p).foldl (fun s x => s.parkRay d c x) s

/-- A replay asked for an entry (R292, R349): its coves stop and it becomes replaying. What other threads
of it consume before the replay begins is the same failure. `f` says which instruction met it. -/
def State.startReplay (s : State) (d : DieId) (e : Nat) (loc : ErrorAt) (f : FaultRecord) : State :=
  s.modEntry d e fun x =>
    if x.state = .replaying then x
    else { x with state := .replaying, failures := loc :: x.failures, failed := some f }

/-- The identity of a thread of a cove for a record (R293). -/
def Cove.identity (c : Cove) (r : TRef) (t : Thread) (clause : DWord) (slot : Nat) (word4 : DWord) :
    FaultRecord :=
  ⟨0, 0, word4, clause, slot, c.index, crewNumber c t.crew r.lane, t.vlane⟩

/-- Whether a thread's launch may be replayed (R292). -/
def State.replayable (s : State) (d : DieId) (e : Nat) : Bool :=
  match s.entry? d e with
  | some x => x.replayable && (x.state == .running || x.state == .replaying)
  | none => false

/-- A first access to space 5 or 6, and the instructions of R382, clear replayability (R292). -/
def State.noReplay (s : State) (d : DieId) (e : Nat) : State :=
  s.modEntry d e fun x => { x with replayable := false }

/-- The trap registers at entry, and where the thread goes (R351): its handler, or nowhere when it
has none or was in a handler. -/
def Thread.enter (t : Thread) (i : TrapInfo) : Thread :=
  let clause := if i.kind == 2 then t.pc else i.clause
  let slot := if i.kind == 0 || i.kind == 1 then i.slot else 0
  { t with
    tcause := BitVec.ofNat 32 i.cause.code
    tval := i.tval
    tpc := tpcWord clause slot
    tstat := entryTstat t.tstat i.kind i.discarded
    cont := if i.kind == 1 then t.pc else t.cont
    contSlot := if i.kind == 1 then t.resume else t.contSlot
    pc := if t.thandler = 0 || tstatH t.tstat then t.pc else t.thandler
    status := if t.thandler = 0 || tstatH t.tstat then .trapWaiting else .ready
    resume := 0
    hold := none
    landFrom := none
    jump := none
    prods := []
    before := none
    defer := []
    entry := none
    passed := 0
    stepDue := false }

/-- A request that has not come to its end. -/
def Req.open (q : Req) : Bool :=
  match q.phase with
  | .queued => true
  | .performed => true
  | _ => false

/-- A request whose end its thread waits for before its next clause: a fault of it is deferred (R240). -/
def Req.defers (q : Req) : Bool :=
  match q.kind with
  | .store _ _ => false
  | .atom _ _ _ d => d.isSome
  | _ => true

/-- The thread that issues what a protected pair performs once: the visible one (R42). -/
def State.visible (s : State) (r : TRef) : TRef :=
  match (s.thread? r).bind fun t => s.cove? t.cove with
  | some cv => if isShadow cv r then { r with lane := r.lane - 1 } else r
  | none => r

/-- The requests of a thread that its own clause issued and that have not completed: R63 has them
complete before the handler's first clause. -/
def State.waitsForOwn (s : State) (r : TRef) (clause : DWord) : Bool :=
  s.link.reqs.any fun q => q.thread == s.visible r && q.clause == clause && q.defers && q.open

/-- A debug stop asked of a thread (R355): X is set at once where it stands at a clause boundary. -/
def Thread.stopBy (t : Thread) (r : TRef) (running : Bool) : Thread :=
  { t with
    stopper := some r
    passed := 0
    tstat := if running || t.held || !t.latches.isEmpty then t.tstat else t.tstat ||| 32 }

/-- The thread takes part in the clause in issue. -/
def State.inIssue (s : State) (r : TRef) : Bool :=
  match s.issue with
  | some i => i.members.contains r
  | none => false

/-- The debug reach for a cove: that of its interface's debug policy word (R355), and 0 for a protected
context of a die in production (R436). -/
def State.debugReach (s : State) (d : DieId) (cv : Cove) : Nat :=
  if (s.die d).lifeCycle = .production ∧ ((s.ctx? cv.ctx).bind (·.keySlot)).isSome then 0
  else (s.vi d cv.vi).debugWord.toNat % 4

/-- The stops that a BREAK or STEP of a thread brings by the debug policy of its interface (R355). -/
def State.debugStop (s : State) (r : TRef) (t : Thread) (cv : Cove) : State :=
  let reach := s.debugReach r.die cv
  let same (e : TRef × Thread) (k : Cove) : Bool :=
    e.1.die == r.die && k.launch == cv.launch && (reach == 2
      || (reach == 1 && e.2.cove == t.cove && crewNumber k e.2.crew e.1.lane == crewNumber cv t.crew r.lane))
  { s with threads := s.threads.map fun e =>
      match s.cove? e.2.cove with
      | some k =>
        if same e k && e.1 != r && !(cv.isProtected && e.1 == shadowOf r) && e.2.active
            && e.2.stopper.isNone then (e.1, e.2.stopBy r (s.inIssue e.1))
        else e
      | none => e }

/-- A thread that comes to a clause boundary while another stops it: X is set (R355). -/
def Thread.stopHere (t : Thread) : Thread :=
  if t.stopper.isSome then { t with tstat := t.tstat ||| 32 } else t

/-- The end of the stops that a thread caused (R355). -/
def State.endStop (s : State) (r : TRef) : State :=
  { s with threads := s.threads.map fun e =>
      if e.2.stopper = some r then
        (e.1, { e.2 with stopper := none, tstat := e.2.tstat &&& 0xFFFFFFDF })
      else e }

/-- The tide stream of a core without a thread (R29). -/
def Core.leaveStream (k : Core) (r : TRef) : Core :=
  { k with stream := k.stream.map fun st => { st with threads := st.threads.filter fun y => y.1 != r } }

/-- Trap entry of a thread once nothing of its clause is outstanding: its rays park, its trap
registers are written and its tide stream ends; an uncorrectable error in a replayable launch starts the replay instead
(R349, R351); BREAK and STEP stop what the debug policy says (R355). -/
def State.enterTrap (s : State) (r : TRef) (i : TrapInfo) : State :=
  match s.thread? r with
  | none => s
  | some t =>
    match s.cove? t.cove with
    | none => s
    | some cv =>
      if i.cause == .uncorrectable && s.replayable r.die cv.launch then
        (s.modThread r fun t => { t with entry := none }).startReplay r.die cv.launch
          (i.loc.getD (.core r.die r.core)) (cv.identity r t i.clause i.slot i.tval)
      else
        let s0 := ((s.parkRays r.die r.core fun x => x.owner == r).modThread r
          fun t => (t.enter i).stopHere).modCore r.die r.core (Core.leaveStream · r)
        let s1 := if (i.cause == .breakpoint || i.cause == .step) && !isShadow cv r then
          s0.debugStop r t cv else s0
        if i.cause == .uncorrectable && !isShadow cv r then
          { s1 with reports := s1.reports ++ [⟨r.die, none, ⟨i.kind, i.cause, i.tval, i.clause, i.slot, 0, i.loc⟩,
              cv.launch, cv.index, crewNumber cv t.crew r.lane, t.vlane⟩] }
        else s1

/-- A thread with a trap to enter enters it when its groups have released and what its clause
issued has completed (R63, R176). -/
def State.settle (s : State) (r : TRef) : State :=
  match s.thread? r with
  | some t =>
    match t.entry with
    | some i =>
      if t.latches.isEmpty && (t.status == .ready || t.status == .latched)
          && !s.waitsForOwn r i.clause then s.enterTrap r i
      else s
    | none => s
  | none => s

/-- The TVAL of an UNCORRECTABLE or STORE_MISMATCH trap, which no rule names: a free value (log 2). -/
def State.freeTval (s : State) : DWord := s.draw.1.setWidth 64

/-- The destinations an M, X or E instruction of the clause left to its end (R60). -/
def Thread.applyDefer (t : Thread) : Thread :=
  { (t.defer.foldl (fun t d => match d with
      | .reg n w v tag => t.write n w v tag
      | .handle n v => t.setHandle n v
      | .ckpt _ => t) t) with defer := [] }

/-- The latent errors of the registers that a thread's deferred destinations write are found (R22). -/
def State.touchDefer (s : State) (r : TRef) : State :=
  match s.thread? r with
  | none => s
  | some t => t.defer.foldl (fun s d => match d with
      | .reg n w _ _ => s.touchGroup r n w
      | _ => s) s

/-- A checkpoint that a thread's clause asked for (R360): D is zero where the context has no target. -/
def State.askCkpt (s : State) (r : TRef) (ctx : Nat) (d : Option Nat) : State :=
  match s.ctx? ctx with
  | none => s
  | some x =>
    if x.mirror.isNone then
      match d with
      | some n => (s.touchReg r n).modThread r fun t => t.write n .w32 0 false
      | none => s
    else s.modCtx ctx fun c => { c with asked := true, askers := c.askers ++ [(r, d)] }

/-- The checkpoints that a thread's deferred destinations asked for, once those are written (R60, R63). -/
def State.askDeferred (s : State) (r : TRef) (t : Thread) : State :=
  let ctx := ((s.cove? t.cove).map (·.ctx)).getD 0
  (t.defer.filterMap fun d => match d with
    | .ckpt n => some n
    | _ => none).foldl (fun s n => s.askCkpt r ctx n) s

/-- The thread leaves the clause in issue. -/
def State.leaveIssue (s : State) (r : TRef) : State :=
  { s with issue := s.issue.map fun i =>
      { i with members := i.members.erase r, todo := i.todo.erase r } }

/-- A fault of the clause that a thread runs, or has just run (R241): a deferred one, or an imprecise one
of a write that it issued in it. -/
def Due.own (first : Nat) (d : Due) : Bool := d.kind == 1 || (d.kind == 2 && decide (first ≤ d.order))

/-- A precise trap of a thread at the current slot (R63, R351): what it did before stands, nothing
after the slot executes, and it enters once nothing of the clause is outstanding. Where an earlier
slot of the clause has a fault due, that one ranks first: this trap is discarded with it
at the boundary, its instruction has no effect, and the rest of the clause runs (R241, log 107). A thread whose
cove has been cancelled abandons the trap (R390). -/
def State.trapThread (s : State) (r : TRef) (i : TrapInfo) : State :=
  match s.thread? r with
  | none => s
  | some t =>
    let s := if i.cause == .uncorrectable || i.cause == .storeMismatch then s.draw.2 else s
    if t.exiting then
      ((s.leaveIssue r).touchDefer r).modThread r fun t => { t.applyDefer with prods := [], before := none, hold := none }
    else if t.due.any (fun d => d.clause == i.clause && d.own t.firstReq) then
      s.modThread r fun t =>
        { t with due := ⟨1, i.cause, i.tval, i.clause, i.slot, 0, i.loc⟩ :: t.due }
    else
      ((((s.leaveIssue r).touchDefer r).modThread r fun t =>
        { t.applyDefer with
          entry := some { i with discarded := t.due.length }
          due := []
          prods := []
          before := none
          hold := none
          status := t.restStatus }).askDeferred r t).settle r

/-- The place of the next hold of a core in the order of its holds. -/
def State.nextHold (s : State) (d : DieId) (core : Nat) : Nat :=
  s.threads.foldl (fun n e =>
    if e.1.die = d ∧ e.1.core = core then max n ((e.2.hold.map (·.since + 1)).getD 0) else n) 0

/-- The lane is held at the slot (R24): the thread leaves the issue with all it has of the clause and with
the clause's words, and takes the same slot again when its pipe next turns to it. -/
def State.holdAt (s : State) (c : Cur) : State :=
  (s.leaveIssue c.r).modThread c.r fun t =>
    { t with
      hold := some ⟨c.iss.pipe, c.iss.tide, c.iss.words, s.nextHold c.iss.die c.iss.core⟩
      resume := c.iss.slot
      pc := c.iss.addr }

/-- Both threads of a protected pair are held together. -/
def State.holdPair (s : State) (c : Cur) : State :=
  let s1 := s.holdAt c
  if c.cv.isProtected then s1.holdAt { c with r := (shadowOf c.r) } else s1

/-- A precise trap at the current slot (R63, R351). -/
def State.trapAt (s : State) (c : Cur) (cause : Cause) (tval : DWord) : State :=
  s.trapThread c.r ⟨cause, tval, c.iss.addr, c.iss.slot, 0, 0, none⟩

/-- A precise trap in both threads of a protected pair (R42); in other launches in the one thread. -/
def State.trapPair (s : State) (c : Cur) (cause : Cause) (tval : DWord) : State :=
  let s1 := s.trapAt c cause tval
  if c.cv.isProtected then
    s1.trapThread (shadowOf c.r) ⟨cause, tval, c.iss.addr, c.iss.slot, 0, 0, none⟩
  else s1

/-- What an instruction of one thread answers: its own state, or the trap or the hold from the state
before it. -/
def conclude (s : State) (c : Cur) (r : Except Stop State) : Host.Outcome State Fault Refusal :=
  match r with
  | .ok s' => .next s'
  | .error (.trap cause tval) => .next (s.trapAt c cause tval)
  | .error .hold => .next (s.holdAt c)
  | .error (.halt f) => .fault f

/-- As `conclude`, for an instruction that a protected pair performs once (R42). -/
def concludePair (s : State) (c : Cur) (r : Except Stop State) :
    Host.Outcome State Fault Refusal :=
  match r with
  | .ok s' => .next s'
  | .error (.trap cause tval) => .next (s.trapPair c cause tval)
  | .error .hold => .next (s.holdPair c)
  | .error (.halt f) => .fault f

/-- The value of a guard (R59). -/
def guardHolds (g : Guard) (t : Thread) : Bool :=
  (if g.idx.val = 7 then true else t.preds.getLsbD g.idx.val) != g.neg

/-- An instruction of the thread whose turn it is. -/
def withCur (s : State) (k : Cur → Host.Outcome State Fault Refusal) :
    Host.Outcome State Fault Refusal :=
  match s.cur with
  | none => .fault .noThread
  | some c => k c

/-- An instruction under its guard: predicated off it changes nothing (R59). -/
def guarded (s : State) (gd : Guard) (k : Cur → Host.Outcome State Fault Refusal) :
    Host.Outcome State Fault Refusal :=
  withCur s fun c => if guardHolds gd c.t then k c else .next s

/-- An instruction that a protected pair performs once, at its visible thread's turn; the shadow's
own turn does nothing (R42). -/
def once (s : State) (gd : Guard) (k : Cur → Host.Outcome State Fault Refusal) :
    Host.Outcome State Fault Refusal :=
  guarded s gd fun c => if isShadow c.cv c.r then .next s else k c

/-! Returning from a trap. -/

/-- TSTAT after tret: H, W, N and X clear (R353). -/
def tretTstat (w : Word) : Word := w &&& 0xFFFFFF1B

/-- The state of a thread's clause after a tret: the resume clause and slot (R353). -/
def Thread.resumeAt (t : Thread) (clause : DWord) (slot : Nat) : Thread :=
  { t with jump := some (clause, slot), tstat := tretTstat t.tstat }

end Sys2Proof.Machine
end

