-- ==== Sys2Proof/Machine/Operands.lean ====
section
/-! DEFINITION. The operand forms of R55: what a source reads at a width, immediate twins (R54, R69),
distance values and producers (R58), and the one frame in which every class-A instruction that
computes a value runs (R57, R59, R60). -/

namespace Sys2Proof.Machine

/-- The strand whose key values a member of a crew reads: its strand, or its own spilled key file in
serial key mode (R34, R37). -/
def Crew.strandOf (cr : Crew) (half lane : Nat) : Option Strand :=
  if cr.serial.getD half false then cr.spilled[lane]?
  else (cr.strands.getD (cr.ptr.getD lane 0) none)

/-- The current thread's strand. -/
def State.strand? (s : State) (c : Cur) : Option Strand :=
  (s.crew? c.t.cove c.t.crew).bind fun cr => cr.strandOf (logicalHalf c.cv c.r.lane) c.r.lane

/-- A group of key registers of a strand. -/
def Strand.group (k : Strand) (n : Nat) (w : Width) : Quad :=
  match w with
  | .w32 => (k.keys.getD n 0).setWidth 128
  | .w64 => ((k.keys.getD (n + 1) 0) ++ (k.keys.getD n 0)).setWidth 128
  | .w128 =>
    (k.keys.getD (n + 3) 0) ++ (k.keys.getD (n + 2) 0) ++ (k.keys.getD (n + 1) 0) ++ (k.keys.getD n 0)

/-- The bits of a quad that a width takes. -/
def wmask (w : Width) (v : Quad) : Quad :=
  match w with
  | .w32 => (v.setWidth 32).setWidth 128
  | .w64 => (v.setWidth 64).setWidth 128
  | .w128 => v

/-- The virtual lane, crew number, thread index, cove index and bay index (R23, R55). -/
def Cur.lane (c : Cur) : Nat := c.t.vlane
def Cur.crew (c : Cur) : Nat := crewNumber c.cv c.t.crew c.r.lane
def Cur.tindex (c : Cur) : Nat := c.crew * c.cv.width + c.lane
def Cur.bay (c : Cur) : Nat := if c.cv.bayCount = 0 then 0 else c.cv.index / c.cv.bayCount

def ofNatQ (n : Nat) : Quad := BitVec.ofNat 128 n

/-- What a source operand supplies at a width, with its quad tag (R55, R56, R58). A poisoned register
or strand traps (R22, R91). -/
def readOpnd (s : State) (c : Cur) (w : Width) : Opnd → Except Stop (Quad × Bool)
  | .g n =>
    if c.t.poisoned n.val w then .error (.trap .uncorrectable s.freeTval)
    else .ok (c.t.group n.val w, w == .w128 && c.t.tagOf n.val)
  | .k n =>
    match s.strand? c with
    | none => .ok (0, false)
    | some k =>
      if k.poison then .error (.trap .uncorrectable s.freeTval)
      else .ok (k.group n.val w, w == .w128 && k.tags.getLsbD (n.val / 4))
  | .dist n =>
    match c.t.prods[n.val]? with
    | none => .ok (0, false)
    | some p => .ok (wmask w p.value, w == .w128 && p.tag)
  | .zero => .ok (0, false)
  | .lit v => .ok (wmask w (v.setWidth 128), false)
  | .lane => .ok (ofNatQ c.lane, false)
  | .crew => .ok (ofNatQ c.crew, false)
  | .tindex => .ok (ofNatQ c.tindex, false)
  | .cove => .ok (ofNatQ c.cv.index, false)
  | .bay => .ok (ofNatQ c.bay, false)
  | .h n => .ok ((c.t.handle n.val).setWidth 128, false)
  | .none => .ok (0, false)

/-- Several sources in order; the first that traps decides. -/
def readAll (s : State) (c : Cur) : List (Opnd × Width) → Except Stop (List (Quad × Bool))
  | [] => .ok []
  | (o, w) :: rest =>
    match readOpnd s c w o with
    | .error e => .error e
    | .ok v =>
      match readAll s c rest with
      | .error e => .error e
      | .ok vs => .ok (v :: vs)

/-- The low 32 or 64 bits of a value read. -/
def lo32 (v : Quad × Bool) : Word := v.1.setWidth 32
def lo64 (v : Quad × Bool) : DWord := v.1.setWidth 64

/-- The i-th of the values read. -/
def nth (vs : List (Quad × Bool)) (i : Nat) : Quad × Bool := vs.getD i (0, false)

/-- The immediate as a source of the integer and bit types, and of the other opcodes (R54, R69). -/
def immInt (imm : BitVec 20) : Opnd := .lit (imm.signExtend 64)

/-- The immediate as an FP32 value: its bits are bits 31 to 12 (R54). -/
def immF32 (imm : BitVec 20) : Word := imm ++ (0 : BitVec 12)

/-- An FP32 value widened exactly to FP64, the form of the .f64 twins (R54). -/
def widenF32 (v : Word) : DWord :=
  let sign := v.extractLsb' 31 1
  let e := (v.extractLsb' 23 8).toNat
  let m := v.extractLsb' 0 23
  if e = 255 then sign ++ (0x7FF : BitVec 11) ++ m ++ (0 : BitVec 29)
  else if e = 0 then
    if m = 0 then sign ++ (0 : BitVec 63)
    else
      let k := m.toNat.log2
      sign ++ (BitVec.ofNat 11 (k + 874)) ++ (BitVec.ofNat 52 ((m.toNat - 2 ^ k) * 2 ^ (52 - k)))
  else sign ++ (BitVec.ofNat 11 (e + 896)) ++ m ++ (0 : BitVec 29)

/-- The immediate of a floating twin at the operation's type (R54). -/
def immFloat (t : Ty) (imm : BitVec 20) : Opnd :=
  match t with
  | .f64 => .lit (widenF32 (immF32 imm))
  | _ => .lit ((immF32 imm).setWidth 64)

/-- What a class-A instruction computes: the value it writes, its tag, a predicate, and flags. -/
structure ARes where
  value : Quad
  tag : Bool := false
  pred : Option (Nat × Bool) := none
  flags : Word := 0
  deriving DecidableEq, Repr

/-- A value at a destination operand: a general register group, or nowhere (R55). -/
def Thread.writeOpnd (t : Thread) (d : Opnd) (w : Width) (v : Quad) (tag : Bool) : Thread :=
  match d with
  | .g n => t.write n.val w v tag
  | _ => t

/-- The value a destination holds, zero where it is none (R58). -/
def Thread.held? (t : Thread) (d : Opnd) (w : Width) : Quad × Bool :=
  match d with
  | .g n => (t.group n.val w, w == .w128 && t.tagOf n.val)
  | _ => (0, false)

/-- The thread after a producer. -/
def Thread.produce (t : Thread) (w : Width) (v : Quad) (tag : Bool) : Thread :=
  { t with prods := ⟨w, v, tag && w == .w128⟩ :: t.prods }

/-- A predicate written. -/
def Thread.writePred (t : Thread) (p : Option (Nat × Bool)) : Thread :=
  match p with
  | some (n, b) => { t with preds := bitPut t.preds n b }
  | none => t

/-- The effect of a class-A result on its thread: the destination, the predicate, the flags and the
producer value (R57, R58, R60). -/
def Thread.applyA (t : Thread) (d : Opnd) (w : Width) (r : ARes) : Thread :=
  (((t.writeOpnd d w (wmask w r.value) r.tag).writePred r.pred).orFlags r.flags).produce w
    (wmask w r.value) r.tag

/-- A class-A instruction that computes a value: it reads its sources, computes, and writes at its
slot; predicated off it only counts as a producer of what its destination holds (R57 to R60). -/
def runA (s : State) (gd : Guard) (d : Opnd) (w : Width) (srcs : List (Opnd × Width))
    (f : Cur → List (Quad × Bool) → ARes) : Host.Outcome State Fault Refusal :=
  withCur s fun c0 =>
    if guardHolds gd c0.t then
      let s1 := s.touch c0.r ((srcs ++ [(d, w)]).flatMap fun x => x.1.names x.2)
      withCur s1 fun c =>
        conclude s1 c <|
          match readAll s1 c srcs with
          | .error e => .error e
          | .ok vs => .ok (s1.modThread c.r fun t => t.applyA d w (f c vs))
    else
      .next (s.modThread c0.r fun t => t.produce w (t.held? d w).1 (t.held? d w).2)

/-- What an instruction of class M, X, E or S reads: its latent errors are found, and its sources are
read; then its effect follows. -/
def reading (s : State) (srcs : List (Opnd × Width))
    (k : State → Cur → List (Quad × Bool) → Except Stop State) :
    Host.Outcome State Fault Refusal :=
  withCur s fun c0 =>
    let s1 := s.touch c0.r (srcs.flatMap fun x => x.1.names x.2)
    withCur s1 fun c =>
      conclude s1 c <|
        match readAll s1 c srcs with
        | .error e => .error e
        | .ok vs => k s1 c vs

/-- The same under a guard. -/
def readingIf (s : State) (gd : Guard) (srcs : List (Opnd × Width))
    (k : State → Cur → List (Quad × Bool) → Except Stop State) :
    Host.Outcome State Fault Refusal :=
  withCur s fun c => if guardHolds gd c.t then reading s srcs k else .next s

/-- The sources of an instruction that a protected pair performs once: what the rule compares of both
threads' values is compared, and a difference traps both (R42). -/
def readPair (s : State) (c : Cur) (srcs : List (Opnd × Width))
    (seen : List (Quad × Bool) → List (Quad × Bool)) : Except Stop (List (Quad × Bool)) :=
  match readAll s c srcs with
  | .error e => .error e
  | .ok vs =>
    if c.cv.isProtected then
      match s.thread? (shadowOf c.r) with
      | none => .ok vs
      | some t' =>
        match readAll s { c with r := shadowOf c.r, t := t' } srcs with
        | .error e => .error e
        | .ok vs' => if seen vs = seen vs' then .ok vs else .error (.trap .storeMismatch s.freeTval)
    else .ok vs

/-- An instruction that a protected pair performs once, at the visible thread's turn, after the
comparison that its rule gives (R42, R256); the shadow's own turn does nothing. -/
def onceComparing (s : State) (gd : Guard) (srcs : List (Opnd × Width))
    (seen : List (Quad × Bool) → List (Quad × Bool))
    (k : State → Cur → List (Quad × Bool) → Except (State × Stop) State) :
    Host.Outcome State Fault Refusal :=
  withCur s fun c0 =>
    if !guardHolds gd c0.t || isShadow c0.cv c0.r then .next s
    else
      let s1 := s.touch c0.r (srcs.flatMap fun x => x.1.names x.2)
      withCur s1 fun c =>
        match readPair s1 c srcs seen with
        | .error e => concludePair s1 c (.error e)
        | .ok vs =>
          match k s1 c vs with
          | .ok s2 => .next s2
          | .error (s2, e) => concludePair s2 c (.error e)

/-- The same where all operands are compared. -/
def onceReading (s : State) (gd : Guard) (srcs : List (Opnd × Width))
    (k : State → Cur → List (Quad × Bool) → Except Stop State) :
    Host.Outcome State Fault Refusal :=
  onceComparing s gd srcs id fun s c vs =>
    match k s c vs with
    | .ok s2 => .ok s2
    | .error e => .error (s, e)

/-- A change of the thread, and in protected mode of its shadow too: what the pair receives from an
instruction performed once (R42). -/
def State.both (s : State) (c : Cur) (f : Thread → Thread) : State :=
  let s1 := s.modThread c.r f
  if c.cv.isProtected then s1.modThread (shadowOf c.r) f else s1

/-- A destination register left to the end of the clause, until which it reads as before the clause (R60). -/
def Thread.deferReg (t : Thread) (d : Opnd) (w : Width) (v : Quad) (tag : Bool) : Thread :=
  match d with
  | .g n =>
    let u := t.hide n.val w
    { u with defer := u.defer ++ [.reg n.val w v tag] }
  | _ => t

/-- A handle left to the end of the clause. -/
def Thread.deferHandle (t : Thread) (d : Opnd) (v : DWord) : Thread :=
  match d with
  | .h n => { t with defer := t.defer ++ [.handle n.val v] }
  | _ => t

/-- The number of a handle operand. -/
def handleNo : Opnd → Option Nat
  | .h n => some n.val
  | _ => none

end Sys2Proof.Machine
end

