-- ==== Sys2Proof/Machine/Int.lean ====
section
/-! DEFINITION. The lane integer instructions (R105 to R121). -/

namespace Sys2Proof.Machine

/-- The width of a type in bits. -/
def tyBits (t : Ty) : Nat := 8 * t.bytes

def tySigned (t : Ty) : Bool := t ∈ signedTys

/-- The least and greatest values of an integer type. -/
def tyLo (t : Ty) : Int := if tySigned t then -(2 ^ (tyBits t - 1) : Int) else 0
def tyHi (t : Ty) : Int := if tySigned t then 2 ^ (tyBits t - 1) - 1 else 2 ^ tyBits t - 1

/-- A source as an integer of the type (R105). -/
def asInt (t : Ty) (v : Quad × Bool) : Int :=
  if tySigned t then (v.1.setWidth (tyBits t)).toInt else ((v.1.setWidth (tyBits t)).toNat : Int)

/-- The register value of an integer result: its low bits, and above them the sign for .i types and
zero for .n types (R106). -/
def putInt (t : Ty) (x : Int) : Quad :=
  let b := BitVec.ofInt (tyBits t) x
  if tyBits t < 32 then (if tySigned t then b.signExtend 32 else b.setWidth 32).setWidth 128
  else b.setWidth 128

/-- Wrapping or saturating at the type (R109). -/
def putSat (t : Ty) (sat : Bool) (x : Int) : Quad :=
  putInt t (if sat then min (max x (tyLo t)) (tyHi t) else x)

/-- The result of addc and subb with its carry predicate (R110). -/
def withCarry (t : Ty) (pc : Fin 7) (x : Int) : ARes :=
  let lo := if tySigned t then tyLo t else 0
  { value := putInt t x, pred := some (pc.val, decide (tyHi t < x) || decide (x < lo)) }

/-- The carry predicate as a number. -/
def carryOf (c : Cur) (pc : Fin 7) : Int := if c.t.preds.getLsbD pc.val then 1 else 0

/-- The upper half of the exact product (R111). -/
def mulHigh (t : Ty) (a b : Int) : Int := (a * b) / 2 ^ tyBits t

/-- Division truncating toward zero, with the cases of R112. -/
def divInt (t : Ty) (a b : Int) : Int :=
  if b = 0 then (if tySigned t then -1 else tyHi t)
  else if tySigned t && a == tyLo t && b == -1 then tyLo t
  else Int.tdiv a b

def remInt (t : Ty) (a b : Int) : Int :=
  if b = 0 then a
  else if tySigned t && a == tyLo t && b == -1 then 0
  else a - b * Int.tdiv a b

/-- A raw bit string of the type's width as a number. -/
def asBits (t : Ty) (v : Quad × Bool) : Nat := (v.1.setWidth (tyBits t)).toNat

/-- A bit string of the type's width. -/
def putBits (t : Ty) (n : Nat) : Quad := ofNatQ (n % 2 ^ tyBits t)

/-- A bit string with every bit inverted. -/
def notBits (w a : Nat) : Nat := 2 ^ w - 1 - a % 2 ^ w

/-- Shifts and rotation (R114), the count unsigned. -/
def shlBits (w a n : Nat) : Nat := if w ≤ n then 0 else a * 2 ^ n % 2 ^ w
def shrBits (w a n : Nat) : Nat := if w ≤ n then 0 else a / 2 ^ n
def sarBits (w a n : Nat) : Nat :=
  let k := min n w
  if 2 ^ (w - 1) ≤ a then 2 ^ w - 2 ^ (w - k) + a / 2 ^ k else a / 2 ^ k
def rolBits (w a n : Nat) : Nat := (a * 2 ^ (n % w) + a / 2 ^ (w - n % w)) % 2 ^ w

/-- Bit i of the result is bit w-1-i of the source (R114). -/
def revBits : Nat → Nat → Nat
  | 0, _ => 0
  | w + 1, a => (a % 2) * 2 ^ w + revBits w (a / 2)

/-- Number of 1 bits (R114). -/
def onesOf : Nat → Nat → Nat
  | 0, _ => 0
  | w + 1, a => a % 2 + onesOf w (a / 2)

/-- Zero bits above the highest 1 bit (R114). -/
def leadingZeros (w a : Nat) : Nat := if a = 0 then w else w - 1 - a.log2

/-- Zero bits below the lowest 1 bit (R114). -/
def trailingZeros : Nat → Nat → Nat
  | 0, _ => 0
  | w + 1, a => if a % 2 = 1 then 0 else 1 + trailingZeros w (a / 2)

/-- Position and length of a field, clamped (R115). -/
def fieldPos (w k : Nat) : Nat := min (k % 256) w
def fieldLen (w k : Nat) : Nat := min (k / 256 % 256) (w - fieldPos w k)

/-- The field that bfx extracts, signed for .i types (R115). -/
def extractField (t : Ty) (a k : Nat) : Int :=
  let w := tyBits t
  let pos := fieldPos w k
  let len := fieldLen w k
  let f := a / 2 ^ pos % 2 ^ len
  if tySigned t && decide (0 < len) && decide (2 ^ (len - 1) ≤ f) then (f : Int) - 2 ^ len else f

/-- bfi: b's low bits placed into the field of a (R115). -/
def insertField (w a b k : Nat) : Nat :=
  let pos := fieldPos w k
  let len := fieldLen w k
  let mask := (2 ^ len - 1) * 2 ^ pos
  (a &&& notBits w mask) ||| (b * 2 ^ pos % 2 ^ w &&& mask)

/-- Whether an integer condition holds (R120). -/
def condInt (cond : Cond) (a b : Int) : Bool :=
  match cond with
  | .eq => decide (a = b)
  | .ne => decide (a ≠ b)
  | .lt => decide (a < b)
  | .le => decide (a ≤ b)
  | .gt => decide (b < a)
  | .ge => decide (b ≤ a)
  | _ => false

/-- A bit as a 32-bit value. -/
def bitQ (b : Bool) : Quad := if b then 1 else 0

/-- The result of a compare or predicate instruction (R120, R121). -/
def predRes (pd : Fin 7) (b : Bool) : ARes := { value := bitQ b, pred := some (pd.val, b) }

/-- A predicate read as a source: index 7 reads 1 (R108). -/
def predOf (c : Cur) (p : Fin 8) : Bool := if p.val = 7 then true else c.t.preds.getLsbD p.val

/-- movi: b whole at .s0; at the other positions b's low 20 bits replace bits of the old value
(R119). -/
def moveImm (w : Nat) (p : Nat) (old b : Nat) : Nat :=
  if p = 0 then b
  else old % 2 ^ p + (b % 2 ^ 20) * 2 ^ p + old / 2 ^ (p + 20) * 2 ^ (p + 20) % 2 ^ w

/-- One source of a type's width, computed as an integer. -/
def int1 (s : State) (gd : Guard) (t : Ty) (d a : Opnd) (f : Int → Quad) :
    Host.Outcome State Fault Refusal :=
  runA s gd d t.width [(a, t.width)] fun _ v => { value := f (asInt t (nth v 0)) }

/-- Two sources of a type's width, computed as integers. -/
def int2 (s : State) (gd : Guard) (t : Ty) (d a b : Opnd) (f : Int → Int → Quad) :
    Host.Outcome State Fault Refusal :=
  runA s gd d t.width [(a, t.width), (b, t.width)] fun _ v =>
    { value := f (asInt t (nth v 0)) (asInt t (nth v 1)) }

/-- Two sources and a carry predicate. -/
def intCarry (s : State) (gd : Guard) (t : Ty) (pc : Fin 7) (d a b : Opnd)
    (f : Int → Int → Int → Int) : Host.Outcome State Fault Refusal :=
  runA s gd d t.width [(a, t.width), (b, t.width)] fun c v =>
    withCarry t pc (f (asInt t (nth v 0)) (asInt t (nth v 1)) (carryOf c pc))

/-- One source as a bit string, and the width of the result. -/
def bits1 (s : State) (gd : Guard) (t : Ty) (wd : Width) (d a : Opnd) (f : Nat → Nat → Nat) :
    Host.Outcome State Fault Refusal :=
  runA s gd d wd [(a, t.width)] fun _ v =>
    { value := ofNatQ (f (tyBits t) (asBits t (nth v 0))) }

/-- Two sources as bit strings. -/
def bits2 (s : State) (gd : Guard) (t : Ty) (d a b : Opnd) (f : Nat → Nat → Nat → Nat) :
    Host.Outcome State Fault Refusal :=
  runA s gd d t.width [(a, t.width), (b, t.width)] fun _ v =>
    { value := putBits t (f (tyBits t) (asBits t (nth v 0)) (asBits t (nth v 1))) }

/-- A bit string and a 32-bit count or control word (R105). -/
def bitsCount (s : State) (gd : Guard) (t : Ty) (d a b : Opnd) (f : Nat → Nat → Nat → Nat) :
    Host.Outcome State Fault Refusal :=
  runA s gd d t.width [(a, t.width), (b, .w32)] fun _ v =>
    { value := putBits t (f (tyBits t) (asBits t (nth v 0)) (lo32 (nth v 1)).toNat) }

/-- bfx over either source B. -/
def bfxOp (s : State) (gd : Guard) (t : Ty) (d a b : Opnd) : Host.Outcome State Fault Refusal :=
  runA s gd d t.width [(a, t.width), (b, .w32)] fun _ v =>
    { value := putInt t (extractField t (asBits t (nth v 0)) (lo32 (nth v 1)).toNat) }

/-- lea over either source B (R116). -/
def leaOp (s : State) (gd : Guard) (t : Ty) (sh : Fin 8) (d a b : Opnd) :
    Host.Outcome State Fault Refusal :=
  runA s gd d t.width [(a, t.width), (b, .w32)] fun _ v =>
    { value := putInt t (asInt t (nth v 0) + (lo32 (nth v 1)).toInt * 2 ^ sh.val) }

/-- sel over either source B (R117). -/
def selOp (s : State) (gd : Guard) (t : Ty) (inv : Bool) (pn : Fin 8) (d a b : Opnd) :
    Host.Outcome State Fault Refusal :=
  runA s gd d t.width [(a, t.width), (b, t.width)] fun c v =>
    let x := if predOf c pn != inv then nth v 0 else nth v 1
    { value := x.1, tag := x.2 }

/-- cmp over either source B (R120). -/
def cmpOp (s : State) (gd : Guard) (t : Ty) (pd : Fin 7) (cond : Cond) (d a b : Opnd) :
    Host.Outcome State Fault Refusal :=
  runA s gd d .w32 [(a, t.width), (b, t.width)] fun _ v =>
    predRes pd (condInt cond (asInt t (nth v 0)) (asInt t (nth v 1)))

/-- movi over either source B (R119). A discarded D reads 0 (log 95). -/
def moviOp (s : State) (gd : Guard) (t : Ty) (pos : Pos) (d b : Opnd) :
    Host.Outcome State Fault Refusal :=
  runA s gd d t.width [(if pos = .s0 then .none else d, t.width), (b, t.width)] fun _ v =>
    { value := putBits t
        (moveImm (tyBits t) pos.shift (asBits t (nth v 0)) (asBits t (nth v 1))) }

/-- The 0x22 group (R121). -/
def predOp (s : State) (gd : Guard) (pd : Fin 7) (pa pb : Fin 8) (d : Opnd)
    (f : Bool → Bool → Bool) : Host.Outcome State Fault Refusal :=
  runA s gd d .w32 [] fun c _ => predRes pd (f (predOf c pa) (predOf c pb))


/-- add (R109). -/
def execAdd (gd : Guard) (t : Ty) (sat : Bool) (d a b : Opnd) (s : State) :
    Host.Outcome State Fault Refusal :=
  int2 s gd t d a b fun x y => putSat t sat (x + y)

/-- The twin of add (R54, R109). -/
def execAddImm (gd : Guard) (t : Ty) (sat : Bool) (d a : Opnd) (imm : BitVec 20) (s : State) :
    Host.Outcome State Fault Refusal :=
  int2 s gd t d a (immInt imm) fun x y => putSat t sat (x + y)

/-- sub (R109). -/
def execSub (gd : Guard) (t : Ty) (sat : Bool) (d a b : Opnd) (s : State) :
    Host.Outcome State Fault Refusal :=
  int2 s gd t d a b fun x y => putSat t sat (x - y)

/-- The twin of sub (R54, R109). -/
def execSubImm (gd : Guard) (t : Ty) (sat : Bool) (d a : Opnd) (imm : BitVec 20) (s : State) :
    Host.Outcome State Fault Refusal :=
  int2 s gd t d a (immInt imm) fun x y => putSat t sat (x - y)

/-- mul (R109). -/
def execMul (gd : Guard) (t : Ty) (sat : Bool) (d a b : Opnd) (s : State) :
    Host.Outcome State Fault Refusal :=
  int2 s gd t d a b fun x y => putSat t sat (x * y)

/-- The twin of mul (R54, R109). -/
def execMulImm (gd : Guard) (t : Ty) (sat : Bool) (d a : Opnd) (imm : BitVec 20) (s : State) :
    Host.Outcome State Fault Refusal :=
  int2 s gd t d a (immInt imm) fun x y => putSat t sat (x * y)

/-- addc (R110). -/
def execAddc (gd : Guard) (t : Ty) (pc : Fin 7) (d a b : Opnd) (s : State) :
    Host.Outcome State Fault Refusal :=
  intCarry s gd t pc d a b fun x y k => x + y + k

/-- The twin of addc (R54, R110). -/
def execAddcImm (gd : Guard) (t : Ty) (pc : Fin 7) (d a : Opnd) (imm : BitVec 20) (s : State) :
    Host.Outcome State Fault Refusal :=
  intCarry s gd t pc d a (immInt imm) fun x y k => x + y + k

/-- subb (R110). -/
def execSubb (gd : Guard) (t : Ty) (pc : Fin 7) (d a b : Opnd) (s : State) :
    Host.Outcome State Fault Refusal :=
  intCarry s gd t pc d a b fun x y k => x - y - k

/-- The twin of subb (R54, R110). -/
def execSubbImm (gd : Guard) (t : Ty) (pc : Fin 7) (d a : Opnd) (imm : BitVec 20) (s : State) :
    Host.Outcome State Fault Refusal :=
  intCarry s gd t pc d a (immInt imm) fun x y k => x - y - k

/-- mulh (R111). -/
def execMulh (gd : Guard) (t : Ty) (d a b : Opnd) (s : State) :
    Host.Outcome State Fault Refusal :=
  int2 s gd t d a b fun x y => putInt t (mulHigh t x y)

/-- The twin of mulh (R54, R111). -/
def execMulhImm (gd : Guard) (t : Ty) (d a : Opnd) (imm : BitVec 20) (s : State) :
    Host.Outcome State Fault Refusal :=
  int2 s gd t d a (immInt imm) fun x y => putInt t (mulHigh t x y)

/-- div (R112). -/
def execDiv (gd : Guard) (t : Ty) (d a b : Opnd) (s : State) :
    Host.Outcome State Fault Refusal :=
  int2 s gd t d a b fun x y => putInt t (divInt t x y)

/-- The twin of div (R54, R112). -/
def execDivImm (gd : Guard) (t : Ty) (d a : Opnd) (imm : BitVec 20) (s : State) :
    Host.Outcome State Fault Refusal :=
  int2 s gd t d a (immInt imm) fun x y => putInt t (divInt t x y)

/-- rem (R112). -/
def execRem (gd : Guard) (t : Ty) (d a b : Opnd) (s : State) :
    Host.Outcome State Fault Refusal :=
  int2 s gd t d a b fun x y => putInt t (remInt t x y)

/-- The twin of rem (R54, R112). -/
def execRemImm (gd : Guard) (t : Ty) (d a : Opnd) (imm : BitVec 20) (s : State) :
    Host.Outcome State Fault Refusal :=
  int2 s gd t d a (immInt imm) fun x y => putInt t (remInt t x y)

/-- min (R113). -/
def execMin (gd : Guard) (t : Ty) (d a b : Opnd) (s : State) :
    Host.Outcome State Fault Refusal :=
  int2 s gd t d a b fun x y => putInt t (min x y)

/-- The twin of min (R54, R113). -/
def execMinImm (gd : Guard) (t : Ty) (d a : Opnd) (imm : BitVec 20) (s : State) :
    Host.Outcome State Fault Refusal :=
  int2 s gd t d a (immInt imm) fun x y => putInt t (min x y)

/-- max (R113). -/
def execMax (gd : Guard) (t : Ty) (d a b : Opnd) (s : State) :
    Host.Outcome State Fault Refusal :=
  int2 s gd t d a b fun x y => putInt t (max x y)

/-- The twin of max (R54, R113). -/
def execMaxImm (gd : Guard) (t : Ty) (d a : Opnd) (imm : BitVec 20) (s : State) :
    Host.Outcome State Fault Refusal :=
  int2 s gd t d a (immInt imm) fun x y => putInt t (max x y)

/-- mad: the exact product plus c, wrapped or saturated once (R109). -/
def execMad (gd : Guard) (t : Ty) (sat : Bool) (d a b c : Opnd) (s : State) :
    Host.Outcome State Fault Refusal :=
  runA s gd d t.width [(a, t.width), (b, t.width), (c, t.width)] fun _ v =>
    { value := putSat t sat (asInt t (nth v 0) * asInt t (nth v 1) + asInt t (nth v 2)) }

/-- neg (R109). -/
def execNeg (gd : Guard) (t : Ty) (sat : Bool) (d a : Opnd) (s : State) :
    Host.Outcome State Fault Refusal :=
  int1 s gd t d a fun x => putSat t sat (-x)

/-- abs (R109). -/
def execAbs (gd : Guard) (t : Ty) (sat : Bool) (d a : Opnd) (s : State) :
    Host.Outcome State Fault Refusal :=
  int1 s gd t d a fun x => putSat t sat (if x < 0 then -x else x)

/-- lea (R116). -/
def execLea (gd : Guard) (t : Ty) (sh : Fin 8) (d a b : Opnd) (s : State) :
    Host.Outcome State Fault Refusal :=
  leaOp s gd t sh d a b

/-- The twin of lea (R69, R116). -/
def execLeaImm (gd : Guard) (t : Ty) (sh : Fin 8) (d a : Opnd) (imm : BitVec 20) (s : State) :
    Host.Outcome State Fault Refusal :=
  leaOp s gd t sh d a (immInt imm)

/-- sel (R117). -/
def execSel (gd : Guard) (t : Ty) (inv : Bool) (pn : Fin 8) (d a b : Opnd) (s : State) :
    Host.Outcome State Fault Refusal :=
  selOp s gd t inv pn d a b

/-- The twin of sel (R54, R117). -/
def execSelImm (gd : Guard) (t : Ty) (inv : Bool) (pn : Fin 8) (d a : Opnd) (imm : BitVec 20) (s : State) :
    Host.Outcome State Fault Refusal :=
  selOp s gd t inv pn d a (immInt imm)

/-- and (R114). -/
def execAnd (gd : Guard) (t : Ty) (d a b : Opnd) (s : State) :
    Host.Outcome State Fault Refusal :=
  bits2 s gd t d a b fun _ x y => x &&& y

/-- The twin of and (R54, R114). -/
def execAndImm (gd : Guard) (t : Ty) (d a : Opnd) (imm : BitVec 20) (s : State) :
    Host.Outcome State Fault Refusal :=
  bits2 s gd t d a (immInt imm) fun _ x y => x &&& y

/-- or (R114). -/
def execOr (gd : Guard) (t : Ty) (d a b : Opnd) (s : State) :
    Host.Outcome State Fault Refusal :=
  bits2 s gd t d a b fun _ x y => x ||| y

/-- The twin of or (R54, R114). -/
def execOrImm (gd : Guard) (t : Ty) (d a : Opnd) (imm : BitVec 20) (s : State) :
    Host.Outcome State Fault Refusal :=
  bits2 s gd t d a (immInt imm) fun _ x y => x ||| y

/-- xor (R114). -/
def execXor (gd : Guard) (t : Ty) (d a b : Opnd) (s : State) :
    Host.Outcome State Fault Refusal :=
  bits2 s gd t d a b fun _ x y => x ^^^ y

/-- The twin of xor (R54, R114). -/
def execXorImm (gd : Guard) (t : Ty) (d a : Opnd) (imm : BitVec 20) (s : State) :
    Host.Outcome State Fault Refusal :=
  bits2 s gd t d a (immInt imm) fun _ x y => x ^^^ y

/-- andn (R114). -/
def execAndn (gd : Guard) (t : Ty) (d a b : Opnd) (s : State) :
    Host.Outcome State Fault Refusal :=
  bits2 s gd t d a b fun w x y => x &&& notBits w y

/-- The twin of andn (R54, R114). -/
def execAndnImm (gd : Guard) (t : Ty) (d a : Opnd) (imm : BitVec 20) (s : State) :
    Host.Outcome State Fault Refusal :=
  bits2 s gd t d a (immInt imm) fun w x y => x &&& notBits w y

/-- not (R114). -/
def execNot (gd : Guard) (t : Ty) (d a : Opnd) (s : State) :
    Host.Outcome State Fault Refusal :=
  bits1 s gd t t.width d a notBits

/-- shl (R114). -/
def execShl (gd : Guard) (t : Ty) (d a b : Opnd) (s : State) :
    Host.Outcome State Fault Refusal :=
  bitsCount s gd t d a b shlBits

/-- The twin of shl (R54, R114). -/
def execShlImm (gd : Guard) (t : Ty) (d a : Opnd) (imm : BitVec 20) (s : State) :
    Host.Outcome State Fault Refusal :=
  bitsCount s gd t d a (immInt imm) shlBits

/-- shr (R114). -/
def execShr (gd : Guard) (t : Ty) (d a b : Opnd) (s : State) :
    Host.Outcome State Fault Refusal :=
  bitsCount s gd t d a b shrBits

/-- The twin of shr (R54, R114). -/
def execShrImm (gd : Guard) (t : Ty) (d a : Opnd) (imm : BitVec 20) (s : State) :
    Host.Outcome State Fault Refusal :=
  bitsCount s gd t d a (immInt imm) shrBits

/-- sar (R114). -/
def execSar (gd : Guard) (t : Ty) (d a b : Opnd) (s : State) :
    Host.Outcome State Fault Refusal :=
  bitsCount s gd t d a b sarBits

/-- The twin of sar (R54, R114). -/
def execSarImm (gd : Guard) (t : Ty) (d a : Opnd) (imm : BitVec 20) (s : State) :
    Host.Outcome State Fault Refusal :=
  bitsCount s gd t d a (immInt imm) sarBits

/-- rol (R114). -/
def execRol (gd : Guard) (t : Ty) (d a b : Opnd) (s : State) :
    Host.Outcome State Fault Refusal :=
  bitsCount s gd t d a b rolBits

/-- The twin of rol (R54, R114). -/
def execRolImm (gd : Guard) (t : Ty) (d a : Opnd) (imm : BitVec 20) (s : State) :
    Host.Outcome State Fault Refusal :=
  bitsCount s gd t d a (immInt imm) rolBits

/-- bfx (R115). -/
def execBfx (gd : Guard) (t : Ty) (d a b : Opnd) (s : State) :
    Host.Outcome State Fault Refusal :=
  bfxOp s gd t d a b

/-- The twin of bfx (R54, R115). -/
def execBfxImm (gd : Guard) (t : Ty) (d a : Opnd) (imm : BitVec 20) (s : State) :
    Host.Outcome State Fault Refusal :=
  bfxOp s gd t d a (immInt imm)

/-- bfi (R115). -/
def execBfi (gd : Guard) (t : Ty) (d a b c : Opnd) (s : State) :
    Host.Outcome State Fault Refusal :=
  runA s gd d t.width [(a, t.width), (b, t.width), (c, .w32)] fun _ v =>
    { value := putBits t (insertField (tyBits t) (asBits t (nth v 0)) (asBits t (nth v 1))
        (lo32 (nth v 2)).toNat) }

/-- bfr (R114). -/
def execBfr (gd : Guard) (t : Ty) (d a : Opnd) (s : State) :
    Host.Outcome State Fault Refusal :=
  bits1 s gd t t.width d a revBits

/-- popc: a 32-bit count (R106, R114). -/
def execPopc (gd : Guard) (t : Ty) (d a : Opnd) (s : State) :
    Host.Outcome State Fault Refusal :=
  bits1 s gd t .w32 d a onesOf

/-- clz: a 32-bit count (R106, R114). -/
def execClz (gd : Guard) (t : Ty) (d a : Opnd) (s : State) :
    Host.Outcome State Fault Refusal :=
  bits1 s gd t .w32 d a leadingZeros

/-- ctz: a 32-bit count (R106, R114). -/
def execCtz (gd : Guard) (t : Ty) (d a : Opnd) (s : State) :
    Host.Outcome State Fault Refusal :=
  bits1 s gd t .w32 d a trailingZeros

/-- cmp (R120). -/
def execCmp (gd : Guard) (t : Ty) (pd : Fin 7) (cond : Cond) (d a b : Opnd) (s : State) :
    Host.Outcome State Fault Refusal :=
  cmpOp s gd t pd cond d a b

/-- The twin of cmp (R54, R120). -/
def execCmpImm (gd : Guard) (t : Ty) (pd : Fin 7) (cond : Cond) (d a : Opnd) (imm : BitVec 20) (s : State) :
    Host.Outcome State Fault Refusal :=
  cmpOp s gd t pd cond d a (immInt imm)

/-- mov, with the tag of a quad (R118). -/
def execMov (gd : Guard) (t : Ty) (d a : Opnd) (s : State) :
    Host.Outcome State Fault Refusal :=
  runA s gd d t.width [(a, t.width)] fun _ v => { value := (nth v 0).1, tag := (nth v 0).2 }

/-- movi (R119). -/
def execMovi (gd : Guard) (t : Ty) (pos : Pos) (d b : Opnd) (s : State) :
    Host.Outcome State Fault Refusal :=
  moviOp s gd t pos d b

/-- The twin of movi (R54, R119). -/
def execMoviImm (gd : Guard) (t : Ty) (pos : Pos) (d : Opnd) (imm : BitVec 20) (s : State) :
    Host.Outcome State Fault Refusal :=
  moviOp s gd t pos d (immInt imm)

/-- pand (R121). -/
def execPand (gd : Guard) (pd : Fin 7) (pa pb : Fin 8) (d : Opnd) (s : State) :
    Host.Outcome State Fault Refusal :=
  predOp s gd pd pa pb d fun x y => x && y

/-- por (R121). -/
def execPor (gd : Guard) (pd : Fin 7) (pa pb : Fin 8) (d : Opnd) (s : State) :
    Host.Outcome State Fault Refusal :=
  predOp s gd pd pa pb d fun x y => x || y

/-- pxor (R121). -/
def execPxor (gd : Guard) (pd : Fin 7) (pa pb : Fin 8) (d : Opnd) (s : State) :
    Host.Outcome State Fault Refusal :=
  predOp s gd pd pa pb d fun x y => x != y

/-- pnot (R121). -/
def execPnot (gd : Guard) (pd : Fin 7) (pa : Fin 8) (d : Opnd) (s : State) :
    Host.Outcome State Fault Refusal :=
  predOp s gd pd pa pa d fun x _ => !x

end Sys2Proof.Machine
end

