-- ==== Sys2Proof/Machine/Cap.lean ====
section
/-! DEFINITION. Capabilities: their fields (R199), bounds (R200) and checks (R201), and the cap group
(R251 to R255). -/

namespace Sys2Proof.Machine

/-- Bits [lo+len-1:lo] of a quad as a number. -/
def qbits (v : Quad) (lo len : Nat) : Nat := v.toNat / 2 ^ lo % 2 ^ len

def capSpace (v : Quad) : Nat := qbits v 124 4
def capPerms (v : Quad) : Nat := qbits v 112 12
def capTopField (v : Quad) : Nat := qbits v 88 24
def capBaseField (v : Quad) : Nat := qbits v 64 24
def capExp (v : Quad) : Nat := qbits v 58 6
def capCursor (v : Quad) : Nat := qbits v 0 55

/-- Permission bits, aligned to capability bits [123:112] (R199). -/
def permRead : Nat := 1
def permWrite : Nat := 2
def permFetch : Nat := 4
def permLoadCap : Nat := 8
def permStoreCap : Nat := 16
def permAtomic : Nat := 32
def permSystem : Nat := 64
def permLanding : Nat := 128

/-- Whether a capability has every permission of a mask. -/
def capHas (v : Quad) (p : Nat) : Bool := capPerms v &&& p == p

/-- The effective tag: 0 for a quad that R199 treats as untagged. -/
def effTag (v : Quad) (tag : Bool) : Bool :=
  tag && decide (capSpace v < 8) && decide (capExp v < 32) && qbits v 120 4 == 0
    && qbits v 55 3 == 0

/-- The window size 2^(e + 24). -/
def capWindow (v : Quad) : Nat := 2 ^ (capExp v + 24)

/-- Bounds decoded from the cursor (R200). -/
def capBase (v : Quad) : Int :=
  let m := capWindow v
  let c := capCursor v / 2 ^ capExp v % 2 ^ 24
  let hi : Int := (capCursor v / m : Nat) - (if c < capBaseField v then 1 else 0)
  hi * m + (capBaseField v * 2 ^ capExp v : Nat)

def capLength (v : Quad) : Nat :=
  (capTopField v + 2 ^ 24 - capBaseField v) % 2 ^ 24 * 2 ^ capExp v

def capTop (v : Quad) : Int := capBase v + capLength v

/-- The effective address: cursor + sext(off, 32), exact (R201, R238). -/
def capAddr (v : Quad) (off : Word) : Int := (capCursor v : Int) + off.toInt

/-- The check of R201 that an access of n bytes at a fails first. -/
def capFailure (v : Quad) (tag : Bool) (perm : Nat) (a : Int) (n : Nat) : Option Cause :=
  if !effTag v tag then some .capTag
  else if !capHas v perm then some .capPerm
  else if a < 0 ∨ a < capBase v ∨ capTop v < a + n ∨ 2 ^ 55 < a + n then some .capBounds
  else none

/-- A signed address as a 64-bit TVAL. -/
def tvalOf (a : Int) : DWord := BitVec.ofInt 64 a

/-- The checks of R201 on an access: its address, or a precise trap with the address as TVAL. -/
def checkCap (v : Quad) (tag : Bool) (perm : Nat) (off : Word) (n : Nat) : Except Stop Nat :=
  match capFailure v tag perm (capAddr v off) n with
  | some c => .error (.trap c (tvalOf (capAddr v off)))
  | none => .ok (capAddr v off).toNat

/-- A capability with its fields replaced; reserved bits zero. -/
def capMake (space perms top base e cursor : Nat) : Quad :=
  BitVec.ofNat 128 (space * 2 ^ 124 + perms % 2 ^ 8 * 2 ^ 112 + top % 2 ^ 24 * 2 ^ 88
    + base % 2 ^ 24 * 2 ^ 64 + e * 2 ^ 58 + cursor)

/-- The least exponent that holds a length (R252). -/
def leastExp (len : Nat) : Nat :=
  ((List.range 32).find? fun e => decide (len ≤ (2 ^ 24 - 1) * 2 ^ e)).getD 31

/-- An exact sub-capability (R252). -/
def subCap (v : Quad) (tag : Bool) (lo len : Nat) : Except Stop (Quad × Bool) :=
  let hi := lo + len
  let e := leastExp len
  if !effTag v tag then .error (.trap .capTag (dw lo))
  else if (lo : Int) < capBase v ∨ capTop v < hi ∨ 2 ^ 55 ≤ lo ∨ 2 ^ 55 < hi then
    .error (.trap .capBounds (dw lo))
  else if lo % 2 ^ e ≠ 0 ∨ hi % 2 ^ e ≠ 0 then .error (.trap .capBounds (dw lo))
  else .ok (capMake (capSpace v) (capPerms v) (hi / 2 ^ e) (lo / 2 ^ e) e lo, true)

/-- A capability with another cursor, tagged while the cursor stays representable (R253). -/
def moveCap (v : Quad) (tag : Bool) (c2 : Int) : Quad × Bool :=
  (BitVec.ofNat 128 (v.toNat / 2 ^ 55 * 2 ^ 55 + (c2 % 2 ^ 55).toNat),
    effTag v tag && decide (0 ≤ c2) && decide (c2 < 2 ^ 55) && decide (capBase v ≤ c2)
      && decide (c2 < capBase v + capWindow v))

/-- A capability with fewer permissions (R253). -/
def maskCap (v : Quad) (tag : Bool) (mask : Word) : Quad × Bool :=
  (BitVec.ofNat 128 (v.toNat / 2 ^ 124 * 2 ^ 124
      + (capPerms v &&& (mask.toNat % 2 ^ 12)) * 2 ^ 112 + v.toNat % 2 ^ 112),
    effTag v tag)

/-- cap.chk's answer (R254). -/
def chkCap (v : Quad) (tag : Bool) (off ctl : Word) : Nat :=
  match capFailure v tag (ctl.toNat / 2 ^ 16 % 2 ^ 8) (capAddr v off) (ctl.toNat % 2 ^ 16) with
  | none => 0
  | some .capTag => 1
  | some .capPerm => 2
  | some _ => 3

/-- cap.get's field (R255). -/
def getCap (v : Quad) (tag : Bool) (sel : Nat) : Int :=
  match sel % 8 with
  | 0 => capBase v
  | 1 => capTop v
  | 2 => capCursor v
  | 3 => capLength v
  | 4 => capPerms v
  | 5 => capSpace v
  | 6 => if effTag v tag then 1 else 0
  | _ => capExp v

/-- A cap instruction that writes a quad at the end of its clause (R251). -/
def capOp (s : State) (gd : Guard) (d a : Opnd) (srcs : List (Opnd × Width))
    (f : Quad → Bool → List (Quad × Bool) → Except Stop (Quad × Bool)) :
    Host.Outcome State Fault Refusal :=
  readingIf s gd ((a, .w128) :: srcs) fun s c vs =>
    match f (nth vs 0).1 (nth vs 0).2 vs with
    | .error e => .error e
    | .ok r => .ok (s.modThread c.r fun t => t.deferReg d .w128 r.1 r.2)

/-- cap.new (R252). -/
def execCapNew (gd : Guard) (d a b c : Opnd) (s : State) : Host.Outcome State Fault Refusal :=
  capOp s gd d a [(b, .w64), (c, .w32)] fun v tag vs =>
    subCap v tag (lo64 (nth vs 1)).toNat (lo32 (nth vs 2)).toNat

/-- cap.set (R253). -/
def execCapSet (gd : Guard) (d a b : Opnd) (s : State) : Host.Outcome State Fault Refusal :=
  capOp s gd d a [(b, .w64)] fun v tag vs => .ok (moveCap v tag (lo64 (nth vs 1)).toNat)

/-- cap.add (R253). -/
def execCapAdd (gd : Guard) (d a b : Opnd) (s : State) : Host.Outcome State Fault Refusal :=
  capOp s gd d a [(b, .w32)] fun v tag vs => .ok (moveCap v tag (capAddr v (lo32 (nth vs 1))))

/-- cap.bnd (R252). -/
def execCapBnd (gd : Guard) (d a b : Opnd) (s : State) : Host.Outcome State Fault Refusal :=
  capOp s gd d a [(b, .w32)] fun v tag vs => subCap v tag (capCursor v) (lo32 (nth vs 1)).toNat

/-- cap.prm (R253). -/
def execCapPrm (gd : Guard) (d a b : Opnd) (s : State) : Host.Outcome State Fault Refusal :=
  capOp s gd d a [(b, .w32)] fun v tag vs => .ok (maskCap v tag (lo32 (nth vs 1)))

/-- cap.chk (R254). -/
def execCapChk (gd : Guard) (d a b c : Opnd) (s : State) : Host.Outcome State Fault Refusal :=
  readingIf s gd [(a, .w128), (b, .w32), (c, .w32)] fun s cu vs =>
    .ok (s.modThread cu.r fun t => t.deferReg d .w32
      (ofNatQ (chkCap (nth vs 0).1 (nth vs 0).2 (lo32 (nth vs 1)) (lo32 (nth vs 2)))) false)

/-- cap.get (R255); a negative base or top (R201) as a 64-bit two's complement number (log 118). -/
def execCapGet (gd : Guard) (d a b : Opnd) (s : State) : Host.Outcome State Fault Refusal :=
  readingIf s gd [(a, .w128), (b, .w32)] fun s cu vs =>
    .ok (s.modThread cu.r fun t => t.deferReg d .w64
      (((BitVec.ofInt 64 (getCap (nth vs 0).1 (nth vs 0).2 (lo32 (nth vs 1)).toNat))).setWidth 128)
      false)

end Sys2Proof.Machine
end

