-- ==== Sys2Proof/Machine/Translate.lean ====
section
/-! DEFINITION. Page tables, translation look-aside buffers and the home directory (R325 to R331,
R393): where an access of an agent reaches physical memory, with the changes that hardware makes to
leaves. -/

namespace Sys2Proof.Machine

/-- Bytes of a granule. -/
def granuleSize : Nat := 65536

/-- The granule of an address. -/
def granuleOf (a : Nat) : Nat := a / granuleSize

/-- An agent that accesses memory (R203): its die, its core if it has one, its context, the front-end
entry of its launch, whether it may touch system pages, and whether it may reach a band window
(R415). -/
structure Agent where
  die : DieId
  core : Option Nat
  ctx : Nat
  launch : Option Nat
  sys : Bool
  win : Bool
  deriving DecidableEq, Repr

/-- Kinds of access to translate. -/
inductive AccKind where
  | read | write | fetch
  deriving DecidableEq, Repr

/-- The fault of a failed translation (R328). -/
def AccKind.cause : AccKind → Cause
  | .read => .loadFault
  | .write => .storeFault
  | .fetch => .fetchFault

/-- A translation: the physical address of a byte, the leaf, its place, and the range it covers. -/
structure Xlat where
  pa : Nat
  leaf : DWord
  leafAt : Nat
  base : Nat
  size : Nat
  deriving DecidableEq, Repr

/-- Fields of a page-table entry (R326). -/
def pteType (e : DWord) : Nat := bitsOf e 62 2
def pteSlot (e : DWord) : Nat := bitsOf e 56 6
def pteE (e : DWord) : Bool := e.getLsbD 55
def pteH (e : DWord) : Bool := e.getLsbD 54
def pteC (e : DWord) : Bool := e.getLsbD 53
def pteSpan (e : DWord) : Bool := e.getLsbD 48
def pteGranule (e : DWord) : Nat := bitsOf e 16 32
def pteD (e : DWord) : Bool := e.getLsbD 7
def pteA (e : DWord) : Bool := e.getLsbD 6
def pteS (e : DWord) : Bool := e.getLsbD 5
def pteT (e : DWord) : Bool := e.getLsbD 4
def pteX (e : DWord) : Bool := e.getLsbD 3
def pteW (e : DWord) : Bool := e.getLsbD 2
def pteR (e : DWord) : Bool := e.getLsbD 1

/-- A table entry has no bit set beside its type and granule (R326). -/
def pteTableOk (e : DWord) : Bool :=
  pteType e == 1 && bitsOf e 48 14 == 0 && bitsOf e 0 16 == 0

/-- A leaf's reserved bits are zero and its key slot exists (R328). -/
def pteLeafOk (d : DieId) (e : DWord) : Bool :=
  pteType e == 2 && bitsOf e 49 4 == 0 && bitsOf e 8 8 == 0 && bitsOf e 0 1 == 0
    && (!pteE e || decide (pteSlot e < Config.keySlots d))

/-- The permission bits an access needs (R328). -/
def ptePermits (k : AccKind) (sys : Bool) (e : DWord) : Bool :=
  (match k with
    | .read => pteR e
    | .write => pteW e
    | .fetch => pteX e) && (!pteS e || sys)

/-- The 48-byte DRAM sectors that a physical range touches (R193). -/
def sectorsOf (pa n : Nat) : List Nat :=
  if n = 0 then [] else (List.range ((pa + n - 1) / 48 - pa / 48 + 1)).map (· + pa / 48)

/-- A latent error of one DRAM sector found when it is read (R193): a correctable one is corrected and
counted, an uncorrectable one poisons the sector. -/
def State.senseSector (s : State) (d : DieId) (n : Nat) : State :=
  match s.upsets.find? (fun u => match u with
    | .sector e m _ => e == d && m == n
    | _ => false) with
  | some (.sector e m double) =>
    let s := { s with upsets := s.upsets.erase (.sector e m double) }
    if double then s.modDie d fun x => { x with
      poisoned := if x.poisoned.contains n then x.poisoned else x.poisoned ++ [n]
      poisonCount := min (x.poisonCount + 1) (2 ^ 64 - 1) }
    else s.modDie d fun x => { x with memErrors := min (x.memErrors + 1) (2 ^ 64 - 1) }
  | _ => s

/-- Sectors read: the state with their latent errors found, and the first poisoned byte if any. -/
def State.sense (s : State) (d : DieId) (pa n : Nat) : State × Option Nat :=
  let s1 := (sectorsOf pa n).foldl (fun s k => s.senseSector d k) s
  (s1, ((sectorsOf pa n).find? fun k => (s1.die d).poisoned.contains k).map fun k => max pa (48 * k))

/-- A sector of a die holds an uncorrectable error, found or still latent (R193). -/
def State.badSector (s : State) (d : DieId) (n : Nat) : Bool :=
  (s.die d).poisoned.contains n || s.upsets.contains (.sector d n true)

/-- An 8-byte entry of a page table in a die's memory, read for the translation of an address; one in a
sector that cannot be corrected is consumed by the access (R193, log 111). -/
def State.readPhys (s : State) (d : DieId) (a pa : Nat) : Except Stop DWord :=
  if Config.dramBytes d < pa + 8 then .error (.halt .noDram)
  else if s.badSector d (pa / 48) || s.badSector d ((pa + 7) / 48) then .error (.trap .uncorrectable (dw a))
  else .ok (BitVec.ofNat 64 (leNat (memBytes (s.die d).dram pa 8)))

/-- An 8-byte word of a die's physical memory written by the walker. -/
def State.writePhys (s : State) (d : DieId) (pa : Nat) (v : DWord) : State :=
  s.modDie d fun x => { x with dram := memPut x.dram pa (leBytes 8 v.toNat)
                               tags := tagClear x.tags pa 8 }

/-- The root of a context on a die. -/
def Context.root (c : Context) : DieId → Option Nat
  | .craren => c.rootCraren
  | .dukor => c.rootDukor

/-- A walk of a context's tables on a die (R325 to R328), without the permission bits. -/
def State.walk (s : State) (d : DieId) (ctx : Nat) (k : AccKind) (a : Nat) : Except Stop Xlat :=
  let bad : Except Stop Xlat := .error (.trap k.cause (dw a))
  match (s.ctx? ctx).bind (Context.root · d) with
  | none => bad
  | some root => do
    let e1 ← s.readPhys d a (root + 8 * (a / 2 ^ 42 % 2 ^ 13))
    if !pteTableOk e1 then bad
    else
      let at2 := pteGranule e1 * granuleSize + 8 * (a / 2 ^ 29 % 2 ^ 13)
      let e2 ← s.readPhys d a at2
      if pteLeafOk d e2 && pteGranule e2 % 2 ^ 13 == 0 then
        .ok ⟨pteGranule e2 * granuleSize + a % 2 ^ 29, e2, at2, a / 2 ^ 29 * 2 ^ 29, 2 ^ 29⟩
      else if !pteTableOk e2 then bad
      else
        let table := pteGranule e2 * granuleSize
        let i := a / 2 ^ 16 % 2 ^ 13
        let lead ← s.readPhys d a (table + 8 * (i / 32 * 32))
        if pteType lead == 2 && pteSpan lead then
          if pteLeafOk d lead && pteGranule lead % 32 == 0 then
            .ok ⟨pteGranule lead * granuleSize + a % 2 ^ 21, lead, table + 8 * (i / 32 * 32),
              a / 2 ^ 21 * 2 ^ 21, 2 ^ 21⟩
          else bad
        else
          let e ← s.readPhys d a (table + 8 * i)
          if pteLeafOk d e && !pteSpan e then
            .ok ⟨pteGranule e * granuleSize + a % granuleSize, e, table + 8 * i,
              a / granuleSize * granuleSize, granuleSize⟩
          else bad

/-- The cluster of a core; a display core is one of its own (log 100). -/
def clusterOf (core : Nat) : Nat := core / 16

/-- The TLB entry of a list that maps an address. -/
def tlbFind (l : List TlbEntry) (ctx a : Nat) : Option TlbEntry :=
  l.find? fun e => e.ctx == ctx && decide (e.base ≤ a) && decide (a < e.base + e.size)

/-- The entry of either level that maps an address for a core (R330). -/
def State.tlbHit (s : State) (d : DieId) (core ctx a : Nat) : Option TlbEntry :=
  match tlbFind (s.core d core).tlb ctx a with
  | some e => some e
  | none => tlbFind ((aget (s.die d).tlb2 (clusterOf core)).getD []) ctx a

/-- The translation of an address on a die for an agent: through its TLBs where one holds the leaf,
else by a walk (R330). -/
def State.leafOf (s : State) (g : Agent) (k : AccKind) (a : Nat) : Except Stop Xlat :=
  match g.core.bind fun c => s.tlbHit g.die c g.ctx a with
  | some e =>
    .ok ⟨pteGranule e.leaf * granuleSize + (a - e.base), e.leaf, e.leafAt, e.base, e.size⟩
  | none => s.walk g.die g.ctx k a

/-- The directory state of a physical address (R331). -/
def State.dirOf (s : State) (d : DieId) (pa : Nat) : DirState :=
  (aget (s.die d).directory (granuleOf pa)).getD .home

def State.setDir (s : State) (d : DieId) (pa : Nat) (v : DirState) : State :=
  s.modDie d fun x => { x with
    directory := if v = .home then adel x.directory (granuleOf pa) else aput x.directory (granuleOf pa) v }

/-- Where bytes of one granule lie: the agent's own translation, the home die with the physical
address there, and the home's leaf where the home is the other die. -/
structure Loc where
  va : Nat
  n : Nat
  home : DieId
  pa : Nat
  x : Xlat
  y : Option Xlat
  deriving DecidableEq, Repr

/-- The leaf at the home of a location. -/
def Loc.leaf (l : Loc) : DWord := (l.y.getD l.x).leaf

/-- The other die is the home. -/
def Loc.remote (l : Loc) : Bool := l.y.isSome

/-- Whether two ranges share a byte. -/
def overlap (a n b m : Nat) : Bool := decide (0 < n) && decide (0 < m) && decide (a < b + m)
  && decide (b < a + n)

/-- The DRAM of a die below the carve-outs of the hardware and of the snapshot pool (R190, log 109). -/
def State.mappable (s : State) (d : DieId) : Nat := Config.mappable d - (s.die d).poolGranules * granuleSize

/-- Bytes of a die lie in a carve-out, which no context can map (R190): past the DRAM that is left, or in the
mirror area of a context. -/
def State.carved (s : State) (d : DieId) (pa n : Nat) : Bool :=
  decide (s.mappable d < pa + n) || (d == .craren && s.contexts.any fun e =>
    match e.2.mirror with
    | some m => !m.host && overlap pa n m.base m.size
    | none => false)

/-- The location of bytes within one granule on a given die, whatever its directory says of homes. -/
def State.locateOn (s : State) (g : Agent) (k : AccKind) (a n : Nat) : Except Stop Loc := do
  let x ← s.leafOf g k a
  if !ptePermits k g.sys x.leaf then .error (.trap k.cause (dw a))
  else if s.carved g.die x.pa n then .error (.halt .noDram)
  else .ok ⟨a, n, g.die, x.pa, x, none⟩

/-- The band window of an enabled head: its first address and its length (R415). -/
def Head.window (h : Head) : Nat × Nat :=
  (((h.addrs.getD 1 0).toNat), 65536 + 128 * bitsOf h.geo 16 16)

/-- The display context of a head: that of the interface it is assigned to (R411). -/
def Die.displayOf (x : Die) (h : Head) : Option Nat :=
  h.vi.bind fun v => (x.vi v).display

/-- The enabled head of a die whose band window a range of a context touches (R415). -/
def Die.windowHead (x : Die) (ctx a n : Nat) : Option (Nat × Head) :=
  x.heads.find? fun h => x.displayOf h.2 == some ctx && h.2.ctl.getLsbD 0
    && decide (a < h.2.window.1 + h.2.window.2) && decide (h.2.window.1 < a + n)

/-- Whether a range touches the band window of an enabled head of a context, on either die (R415). -/
def State.inWindow (s : State) (ctx a n : Nat) : Bool :=
  (s.craren.windowHead ctx a n).isSome || (s.dukor.windowHead ctx a n).isSome

/-- The location of bytes within one granule (R331, R393, R394, R415): an absent granule faults, one
in transfer is waited for. -/
def State.locate (s : State) (g : Agent) (k : AccKind) (a n : Nat) : Except Stop Loc := do
  let l ← s.locateOn g k a n
  if !g.win && s.inWindow g.ctx a n then .error (.trap k.cause (dw a))
  else
    match s.dirOf g.die l.pa with
    | .home => .ok l
    | .absent => .error (.trap .pageAbsent (dw a))
    | .transfer => .error .hold
    | .peer => do
      let p ← s.locateOn ⟨otherDie g.die, none, g.ctx, g.launch, g.sys, g.win⟩ k a n
      if s.dirOf (otherDie g.die) p.pa = .home then .ok { p with x := l.x, y := some p.x }
      else .error .hold

/-- A range cut at granule boundaries (R195). -/
def splitRange : Nat → Nat → Nat → List (Nat × Nat)
  | 0, _, _ => []
  | _ + 1, _, 0 => []
  | fuel + 1, a, n + 1 =>
    let k := min (n + 1) (granuleSize - a % granuleSize)
    (a, k) :: splitRange fuel (a + k) (n + 1 - k)

def granuleParts (a n : Nat) : List (Nat × Nat) := splitRange (n / granuleSize + 2) a n

/-- The locations of a whole range, its first faulting part deciding (R195, R235). -/
def State.locateAll (s : State) (g : Agent) (k : AccKind) :
    List (Nat × Nat) → Except Stop (List Loc)
  | [] => .ok []
  | (a, n) :: rest => do
    let l ← s.locate g k a n
    let ls ← s.locateAll g k rest
    .ok (l :: ls)

/-- The TLB entry of a translation. -/
def tlbOf (ctx : Nat) (x : Xlat) (leaf : DWord) : TlbEntry := ⟨ctx, x.base, x.size, leaf, x.leafAt⟩

/-- A TLB with an entry in place of those that cover its range, within its capacity. -/
def tlbFill (cap : Nat) (l : List TlbEntry) (e : TlbEntry) : List TlbEntry :=
  ((l.filter fun o => !(o.ctx == e.ctx && o.base == e.base)) ++ [e]).drop
    ((l.filter fun o => !(o.ctx == e.ctx && o.base == e.base)).length + 1 - cap)

/-- A leaf held by both TLB levels of a core after an access. -/
def State.tlbPut (s : State) (g : Agent) (x : Xlat) (leaf : DWord) : State :=
  match g.core with
  | none => s
  | some c =>
    (s.modCore g.die c fun k => { k with tlb := tlbFill Config.tlbEntries k.tlb (tlbOf g.ctx x leaf) }).modDie
      g.die fun y => { y with
        tlb2 := aput y.tlb2 (clusterOf c)
          (tlbFill Config.tlb2Entries ((aget y.tlb2 (clusterOf c)).getD []) (tlbOf g.ctx x leaf)) }

/-- The cells of a granule as a memory of its own. -/
def sliceMem (m : Mem) (a n : Nat) : Mem :=
  (m.filter fun c => decide (a ≤ c.1) && decide (c.1 < a + n)).map fun c => (c.1 - a, c.2)

/-- The chunks of a granule as a tag set of its own. -/
def sliceTags (t : TagSet) (a n : Nat) : TagSet :=
  (t.filter fun c => decide (a / 16 ≤ c) && decide (c < (a + n) / 16)).map fun c => c - a / 16

/-! Encryption (R339, R429). -/

/-- A key slot of a die. -/
def Die.keySlot (x : Die) (n : Nat) : KeySlot := (aget x.slots n).getD ⟨0, 0, none, .free⟩

/-- A key slot of a virtual interface: one whose context is the interface's (log 69). -/
def State.slotOf (s : State) (d : DieId) (vi n : Nat) : Option KeySlot :=
  let k := (s.die d).keySlot n
  if k.state != .free && (k.owner.bind s.ctx?).any fun c => c.die == d && c.vi == vi then some k else none

/-- The keys that a leaf of a context selects on a die (R326, R429): none without E, zero keys where its
slot is free, scrubbing or not its interface's. -/
def State.keysOf (s : State) (d : DieId) (ctx : Nat) (leaf : DWord) : Option XtsKeys :=
  if pteE leaf then
    match (s.ctx? ctx).bind fun c => s.slotOf d c.vi (pteSlot leaf) with
    | some k => some ⟨k.data, k.tweak⟩
    | none => some ⟨0, 0⟩
  else none

/-- A 16-byte unit that stands under one pair of keys, as it reads under another. -/
def reread (old new : Option XtsKeys) (pa : Nat) (b : List Byte) : List Byte :=
  let c := match old with
    | none => b
    | some k => k.encrypt pa b
  match new with
  | none => c
  | some k => k.decrypt pa c

/-- Bytes of one granule of a die's DRAM as they read under keys (R429). -/
def Die.view (x : Die) (pa n : Nat) (k : Option XtsKeys) : List Byte :=
  let old := aget x.cipher (granuleOf pa)
  if old = k then memBytes x.dram pa n
  else
    (((List.range ((pa % 16 + n + 15) / 16)).flatMap fun i =>
      let u := pa / 16 * 16 + 16 * i
      reread old k u (memBytes x.dram u 16)).drop (pa % 16)).take n

/-- A granule's contents as they read under keys, and from now on stand under them. -/
def State.rekey (s : State) (d : DieId) (pa : Nat) (k : Option XtsKeys) : State :=
  let g := granuleOf pa
  if aget (s.die d).cipher g = k then s
  else s.modDie d fun x => { x with
    dram := memPut (memZero x.dram (g * granuleSize) granuleSize) (g * granuleSize)
      (x.view (g * granuleSize) granuleSize k)
    cipher := match k with
      | some y => aput x.cipher g y
      | none => adel x.cipher g }

/-- A granule's contents under keys as a memory of its own. -/
def Die.granuleMem (x : Die) (pa : Nat) (k : Option XtsKeys) : Mem :=
  let g := granuleOf pa
  if aget x.cipher g = k then sliceMem x.dram (g * granuleSize) granuleSize
  else memPut [] 0 (x.view (g * granuleSize) granuleSize k)

/-- A pre-image taken of a granule of a context into the pool of its home (R190, R329, R402). -/
def State.takeImage (s : State) (d : DieId) (ctx va pa : Nat) (leaf : DWord) (mark : Nat)
    (launch : Option Nat) (left : Bool) : State :=
  let k := s.keysOf d ctx leaf
  s.modDie d fun x => { x with pool := x.pool ++
    [⟨ctx, granuleOf va * granuleSize, mark, launch, left, x.granuleMem pa k,
      sliceTags x.tags (granuleOf pa * granuleSize) granuleSize⟩] }

/-- The granules a leaf covers, as pairs of virtual and physical address. -/
def Xlat.granules (x : Xlat) : List (Nat × Nat) :=
  (List.range (x.size / granuleSize)).map fun i =>
    (x.base + i * granuleSize, pteGranule x.leaf * granuleSize + i * granuleSize)

/-- The granule of a leaf that an access falls in. -/
def Xlat.granule (x : Xlat) : Nat × Nat :=
  (x.base + (granuleOf x.pa - pteGranule x.leaf) * granuleSize, granuleOf x.pa * granuleSize)

/-- The pre-images that the first write through a leaf with C set takes (R329, R394): of the granule written,
under a span of each of its granules that is homed on this die (log 31); a full pool takes them all the
same (log 110). -/
def State.copyOnWrite (s : State) (d : DieId) (ctx : Nat) (x : Xlat) : State :=
  let mark := ((s.ctx? ctx).map (·.recorded)).getD 0
  (if x.size = 2 ^ 21 then x.granules else [x.granule]).foldl (fun s p =>
    if s.dirOf d p.2 = .home then s.takeImage d ctx p.1 p.2 x.leaf mark none false else s) s

/-- A leaf as an access changes it (R329): A set, or D set and C clear. -/
def leafTouched (needA needD : Bool) (e : DWord) : DWord :=
  let e1 := if needA then e ||| (0x40 : DWord) else e
  if needD then (e1 ||| (0x80 : DWord)) &&& ~~~ BitVec.twoPow 64 53 else e1

/-- The changes hardware makes to a leaf of a die for an access (R329), performed in memory; the value
the TLB then holds. An access through a TLB whose A is set, and for a write D, changes nothing. -/
def State.touchLeaf (s : State) (d : DieId) (ctx : Nat) (x : Xlat) (write : Bool) : State × DWord :=
  let needA := !pteA x.leaf
  let needD := write && (!pteD x.leaf || pteC x.leaf)
  if needA || needD then
    let m := BitVec.ofNat 64 (leNat (memBytes (s.die d).dram x.leafAt 8))
    let s1 := if needD && pteC m then s.copyOnWrite d ctx x else s
    (s1.writePhys d x.leafAt (leafTouched needA needD m), leafTouched needA needD x.leaf)
  else (s, x.leaf)

/-- The places of the entries that a walk reads for an address. -/
def State.walkPlaces (s : State) (d : DieId) (ctx a : Nat) : List Nat :=
  let word (pa : Nat) : DWord := BitVec.ofNat 64 (leNat (memBytes (s.die d).dram pa 8))
  match (s.ctx? ctx).bind (Context.root · d) with
  | none => []
  | some root =>
    let at1 := root + 8 * (a / 2 ^ 42 % 2 ^ 13)
    if !pteTableOk (word at1) then [at1]
    else
      let at2 := pteGranule (word at1) * granuleSize + 8 * (a / 2 ^ 29 % 2 ^ 13)
      if !pteTableOk (word at2) then [at1, at2]
      else
        let table := pteGranule (word at2) * granuleSize
        let i := a / 2 ^ 16 % 2 ^ 13
        [at1, at2, table + 8 * (i / 32 * 32), table + 8 * i]

/-- A walk's reads of the tables of a die find their latent errors (R193). -/
def State.senseWalk (s : State) (d : DieId) (ctx a : Nat) : State :=
  (s.walkPlaces d ctx a).foldl (fun s pa => (s.sense d pa 8).1) s

/-- The same for an access that no TLB of its agent serves. -/
def State.walked (s : State) (g : Agent) (a : Nat) : State :=
  if (g.core.bind fun c => s.tlbHit g.die c g.ctx a).isSome then s else s.senseWalk g.die g.ctx a

/-- An access noted at its own die's leaf, whose bits the TLB then holds (R329, R330). -/
def State.noteOwn (s : State) (g : Agent) (write : Bool) (l : Loc) : State :=
  let (s1, leaf) := (s.walked g l.va).touchLeaf g.die g.ctx l.x write
  s1.tlbPut g l.x leaf

/-- An access noted at its own die's leaf, and at the home's where that is the other die's (R329,
R394). -/
def State.noteLoc (s : State) (g : Agent) (write : Bool) (l : Loc) : State :=
  let s2 := s.noteOwn g write l
  match l.y with
  | none => s2
  | some y => ((s2.senseWalk (otherDie g.die) g.ctx l.va).touchLeaf (otherDie g.die) g.ctx y write).1

end Sys2Proof.Machine
end

