-- ==== Sys2Proof/Machine/Global.lean ====
section
/-! DEFINITION. Global memory at its point of visibility (R204): reads and writes at the home of a
granule, with check bits and poison (R193), tags (R202), replicas (R208), pre-images of replayable
launches (R402), naps (R171) and the L1 copies of a core (R192, R217). -/

namespace Sys2Proof.Machine

/-- The sectors of a die that lie whole in a physical range are written anew: no error stands in them any
more (log 111). -/
def State.healSectors (s : State) (d : DieId) (pa n : Nat) : State :=
  { s with upsets := s.upsets.filter fun u => match u with
      | .sector e k _ => !(e == d && wholeSector pa n k)
      | _ => true }.modDie d fun x => { x with poisoned := x.poisoned.filter fun k => !wholeSector pa n k }

/-- Bytes of a location's granule at its home, under the keys of its leaf there (R429). -/
def State.homeBytes (s : State) (ctx : Nat) (l : Loc) (pa n : Nat) : List Byte :=
  (s.die l.home).view pa n (s.keysOf l.home ctx l.leaf)

/-- The tag of the chunk at a physical address. -/
def State.homeTag (s : State) (d : DieId) (pa : Nat) : Bool := (s.die d).tags.contains (pa / 16)

/-- The start and end of the sector part that holds a virtual address (R195). -/
def partStart (a : Nat) : Nat := max (a / 48 * 48) (granuleOf a * granuleSize)
def partEnd (a : Nat) : Nat := min (a / 48 * 48 + 48) (granuleOf a * granuleSize + granuleSize)

/-- The parts that a virtual range touches. -/
def partsOf : Nat → Nat → Nat → List Nat
  | 0, _, _ => []
  | fuel + 1, a, e => if a < e then partStart a :: partsOf fuel (partEnd a) e else []

def rangeParts (a n : Nat) : List Nat := partsOf (n / 16 + 3) a (a + n)

/-- The running die of a context. -/
def State.runDie (s : State) (ctx : Nat) : DieId := ((s.ctx? ctx).map (·.die)).getD .craren

/-- The location of one virtual byte of a context as its tables stand, whatever its leaf permits. -/
def State.placeOn (s : State) (d : DieId) (ctx a : Nat) : Except Stop Loc := do
  let x ← s.walk d ctx .read a
  match s.dirOf d x.pa with
  | .home => .ok ⟨a, 1, d, x.pa, x, none⟩
  | .absent => .error (.trap .pageAbsent (dw a))
  | .transfer => .error .hold
  | .peer => do
    let y ← s.walk (otherDie d) ctx .read a
    if s.dirOf (otherDie d) y.pa = .home then .ok ⟨a, 1, otherDie d, y.pa, x, some y⟩ else .error .hold

/-- The home of one virtual byte of a context. -/
def State.homeOf (s : State) (ctx a : Nat) : Option (DieId × Nat) :=
  match s.placeOn (s.runDie ctx) ctx a with
  | .ok l => some (l.home, l.pa)
  | .error _ => none

/-- Whether a line of a context covers any byte of a physical range (R171). -/
def State.lineTouches (s : State) (ctx line : Nat) (d : DieId) (pa n : Nat) : Bool :=
  (granuleParts line 192).any fun p =>
    match s.homeOf ctx p.1 with
    | some (h, q) => h == d && decide (q < pa + n) && decide (pa < q + p.2)
    | none => false

/-- The L1 copies of a context that overlap a virtual range dropped from a core. -/
def State.dropL1 (s : State) (d : DieId) (c ctx a n : Nat) : State :=
  s.modCore d c fun k => { k with l1 := k.l1.filter fun e =>
    !(e.ctx == ctx && decide (e.start < a + n) && decide (a < e.start + e.bytes.length)) }

/-- Every L1 copy of a context dropped from a core (R212). -/
def State.clearL1 (s : State) (d : DieId) (c ctx : Nat) : State :=
  s.modCore d c fun k => { k with l1 := k.l1.filter fun e => e.ctx != ctx }

/-- A nap on a global line ends; its wake drops the core's L1 copy of the line (R217). -/
def State.wakeNap (s : State) (r : TRef) : State :=
  match s.thread? r with
  | some t =>
    match t.status with
    | .napping (.dram d ctx) line _ => (s.dropL1 d r.core ctx line 192).modThread r Thread.wake
    | _ => s.modThread r Thread.wake
  | none => s

/-- A write at a home ends the naps on the lines it touches (R171). -/
def State.wakeDram (s : State) (d : DieId) (pa n : Nat) : State :=
  (s.threads.filter fun e =>
    match e.2.status with
    | .napping (.dram _ ctx) line _ => s.lineTouches ctx line d pa n
    | .napping (.other _) _ _ => true
    | _ => false).foldl (fun s e => s.wakeNap e.1) s

/-- A granule noted as written by a launch (R402). -/
def State.noteWritten (s : State) (d : DieId) (e va : Nat) : State :=
  s.modEntry d e fun x => { x with written := granuleOf va :: x.written }

/-- The place of the next pre-image of a launch in the order they are taken, on either die (R402). -/
def State.nextPreImage (s : State) : Nat :=
  ((s.craren.pool ++ s.dukor.pool).filter fun p => p.launch.isSome).foldl (fun n p => max n (p.mark + 1)) 0

/-- The launch's pre-image of a granule, on its first write to it while it is replayable; a full pool
makes it not replayable. What a launch that is not replayable has written is noted too, since it decides
what a replay may restore (R402). -/
def State.keepForReplay (s : State) (g : Agent) (l : Loc) : State :=
  match g.launch with
  | none => s
  | some e =>
    if (((s.entry? g.die e).map (·.written)).getD []).contains (granuleOf l.va) then s
    else if !s.replayable g.die e then s.noteWritten g.die e l.va
    else if (s.die l.home).pool.length < (s.die l.home).poolGranules then
      (s.takeImage l.home g.ctx l.va l.pa l.leaf s.nextPreImage (some e) false).noteWritten g.die e l.va
    else (s.noReplay g.die e).noteWritten g.die e l.va

/-- Whether a copy holds any byte of a virtual range of a context. -/
def L1Copy.touches (e : L1Copy) (ctx a n : Nat) : Bool :=
  e.ctx == ctx && decide (e.start < a + n) && decide (a < e.start + e.bytes.length)

/-- Replicas leave the L2 of a die, and with them the L1 copies that its cores hold of them (R191, R208);
the core of a writer keeps its copy, which the write updates (R192). -/
def Die.loseReplicas (x : Die) (keep : Option Nat) (p : Replica → Bool) : Die :=
  let gone := x.replicas.filter p
  if gone.isEmpty then x
  else { x with
    replicas := x.replicas.filter fun r => !p r
    cores := x.cores.map fun e =>
      if some e.1 = keep then e
      else (e.1, { e.2 with l1 := e.2.l1.filter fun c => !gone.any fun r => c.touches r.ctx r.start r.size }) }

/-- A replica holds a byte of a range of a context. -/
def Replica.touches (r : Replica) (ctx a n : Nat) : Bool :=
  r.ctx == ctx && decide (r.start < a + n) && decide (a < r.start + r.size)

/-- Replicas of a range written at its home dropped from the other die, whatever context or address they are
read by (R208); the core of a writer there keeps its copy. -/
def State.dropReplicas (s : State) (writer : Option (DieId × Nat)) (home : DieId) (pa n : Nat) : State :=
  s.modDie (otherDie home) fun x =>
    x.loseReplicas ((writer.filter fun w => w.1 == otherDie home).map Prod.snd) fun r =>
      decide (r.pa < pa + n) && decide (pa < r.pa + r.size)

/-- One copy with a written range in it. -/
def L1Copy.update (e : L1Copy) (a : Nat) (bs : List Byte) (tag : Bool) : L1Copy where
  ctx := e.ctx
  start := e.start
  bytes := (List.range e.bytes.length).map fun i =>
    if a ≤ e.start + i ∧ e.start + i < a + bs.length then bs.getD (e.start + i - a) 0
    else e.bytes.getD i 0
  tags := (List.range e.tags.length).map fun i =>
    if e.start + 16 * i < a + bs.length ∧ a < e.start + 16 * i + 16 then tag
    else e.tags.getD i false

/-- The issuing core's L1 copies of a written range updated (R192). -/
def State.updateL1 (s : State) (g : Agent) (a : Nat) (bs : List Byte) (tag : Bool) : State :=
  match g.core with
  | none => s
  | some c => s.modCore g.die c fun k => { k with
      l1 := k.l1.map fun e => if e.touches g.ctx a bs.length then e.update a bs tag else e }

/-- A write performed at the home of one location, whose leaf changes have been noted: the bytes, the
chunk's tag where the write is one whole tagged chunk, and all that a write ends. -/
def State.writeLoc (s : State) (g : Agent) (l : Loc) (bs : List Byte) (tag : Bool) : State :=
  let s1 := (s.noteLoc g true l).keepForReplay g l |>.rekey l.home l.pa (s.keysOf l.home g.ctx l.leaf)
  let s2 := (s1.healSectors l.home l.pa bs.length).modDie l.home fun x => { x with
    dram := memPut x.dram l.pa bs
    tags := if tag then tagInsert (tagClear x.tags l.pa bs.length) (l.pa / 16)
            else tagClear x.tags l.pa bs.length }
  ((s2.dropReplicas (g.core.map fun c => (g.die, c)) l.home l.pa bs.length).updateL1 g l.va bs tag).wakeDram l.home l.pa bs.length

/-- Bytes written over several locations in order. -/
def State.writeLocs (s : State) (g : Agent) (bs : List Byte) : List Loc → State
  | [] => s
  | l :: ls => (s.writeLoc g l (bs.take l.n) false).writeLocs g (bs.drop l.n) ls

/-- Bytes read at the home over several locations: the state, the bytes, and the first poisoned
byte's address. -/
def State.readLocs (s : State) (g : Agent) : List Loc → State × List Byte × Option Nat
  | [] => (s, [], none)
  | l :: ls =>
    let (s1, p) := (s.noteLoc g false l).sense l.home l.pa l.n
    let bs := s1.homeBytes g.ctx l l.pa l.n
    let (s2, rest, q) := s1.readLocs g ls
    (s2, bs ++ rest, match p with | some x => some (l.va + (x - l.pa)) | none => q)

/-- A range read at its homes by an agent: bytes and first poisoned address. -/
def State.readGlobal (s : State) (g : Agent) (k : AccKind) (a n : Nat) :
    Except Stop (State × List Byte × Option Nat) :=
  match s.locateAll g k (granuleParts a n) with
  | .error e => .error e
  | .ok ls => .ok (s.readLocs g ls)

/-- A range written at its homes by an agent. -/
def State.writeGlobal (s : State) (g : Agent) (a : Nat) (bs : List Byte) : Except Stop State :=
  match s.locateAll g .write (granuleParts a bs.length) with
  | .error e => .error e
  | .ok ls => .ok (s.writeLocs g bs ls)

/-- The tag of the 16-byte chunk at a global address. -/
def State.globalTag (s : State) (g : Agent) (a : Nat) : Bool :=
  match s.locate g .read a 16 with
  | .ok l => s.homeTag l.home l.pa
  | .error _ => false

/-- The agent of a thread's own accesses. -/
def Cur.agent (c : Cur) (sys : Bool) : Agent :=
  ⟨c.r.die, some c.r.core, c.cv.ctx, some c.cv.launch, sys, false⟩

/-- The agent that writes back a cove's stash (R222). -/
def Cove.agent (cr : CoveRef) (c : Cove) : Agent :=
  ⟨cr.die, some cr.core, c.ctx, some c.launch, true, false⟩

/-- Copies an L1 array holds: 341 lines of four sectors (R190). -/
def l1Capacity : Nat := 4 * Config.l1Lines

/-- A copy added to a core's L1. -/
def State.fillL1 (s : State) (d : DieId) (c : Nat) (e : L1Copy) : State :=
  s.modCore d c fun k => { k with l1 := (k.l1 ++ [e]).drop (k.l1.length + 1 - l1Capacity) }

/-- The L1 copy that holds a byte. -/
def Core.l1At (k : Core) (ctx a : Nat) : Option L1Copy :=
  k.l1.find? fun e => e.ctx == ctx && decide (e.start ≤ a) && decide (a < e.start + e.bytes.length)

/-- The physical address at a location's home of a virtual address in its granule. -/
def Loc.place (l : Loc) (a : Nat) : Nat := l.pa / granuleSize * granuleSize + a % granuleSize

/-- A part of a replica noted on the die that reads it (R208, R394). -/
def State.addReplica (s : State) (d : DieId) (ctx : Nat) (l : Loc) (start : Nat) : State :=
  s.modDie d fun x =>
    let r : Replica := ⟨ctx, start, partEnd start - start, l.place start⟩
    { x with replicas := if x.replicas.contains r then x.replicas else x.replicas ++ [r] }

/-- A read of a part of a granule homed on the peer goes over the link: this die has no replica of it
(R394). -/
def State.farPart (s : State) (g : Agent) (l : Loc) (start : Nat) : Bool :=
  l.remote && !(s.die g.die).replicas.contains ⟨g.ctx, start, partEnd start - start, l.place start⟩

/-- The same for any part of a range at its locations that the core holds no copy of. -/
def State.farRead (s : State) (g : Agent) (ls : List Loc) : Bool :=
  ls.any fun l => (rangeParts l.va l.n).any fun p => s.farPart g l p
    && (g.core.bind fun c => (s.core g.die c).l1At g.ctx p).isNone

/-- One sector part present in the L1 after a load of a local granule or of a replica, filled from the
home on a miss, by way of a replica where the home is the peer (R208); the first poisoned byte (R193,
R217). -/
def State.loadPart (s : State) (g : Agent) (c : Nat) (l : Loc) (start : Nat) :
    State × L1Copy × Option Nat :=
  match (s.core g.die c).l1At g.ctx start with
  | some e => (s, e, none)
  | none =>
    let n := partEnd start - start
    let pa := l.place start
    let (s1, p) := s.sense l.home pa n
    let e : L1Copy := ⟨g.ctx, start, s1.homeBytes g.ctx l pa n,
      (List.range (n / 16)).map fun i => s1.homeTag l.home (pa + 16 * i)⟩
    let s0 := s1.count g.die c g.ctx fun k => { k with l1Misses := k.l1Misses + 1 }
    let s2 := if l.remote then s0.addReplica g.die g.ctx l start else s0
    match p with
    | some x => (s2, e, some (start + (x - pa)))
    | none => (s2.fillL1 g.die c e, e, none)

/-- Parts of one location loaded through the L1 in order. -/
def State.loadParts (s : State) (g : Agent) (c : Nat) (l : Loc) :
    List Nat → State × List L1Copy × Option Nat
  | [] => (s, [], none)
  | p :: ps =>
    let (s1, e, bad) := s.loadPart g c l p
    let (s2, es, bad') := s1.loadParts g c l ps
    (s2, e :: es, match bad with | some x => some x | none => bad')

/-- The byte of a list of copies at an address. -/
def copyByte (es : List L1Copy) (a : Nat) : Byte :=
  match es.find? fun e => decide (e.start ≤ a) && decide (a < e.start + e.bytes.length) with
  | some e => e.bytes.getD (a - e.start) 0
  | none => 0

/-- The tag of the chunk at an aligned address of a list of copies. -/
def copyTag (es : List L1Copy) (a : Nat) : Bool :=
  match es.find? fun e => decide (e.start ≤ a) && decide (a < e.start + e.bytes.length) with
  | some e => e.tags.getD ((a - e.start) / 16) false
  | none => false

/-- What a load through the L1 gives: bytes, the tag of an aligned 16-byte access, and the first
poisoned byte. -/
structure Loaded where
  bytes : List Byte
  tag : Bool
  bad : Option Nat
  deriving DecidableEq, Repr

/-- Locations loaded through the L1 of a core. -/
def State.loadLocs (s : State) (g : Agent) (c : Nat) : List Loc → State × List L1Copy × Option Nat
  | [] => (s, [], none)
  | l :: ls =>
    let (s1, es, bad) := (s.noteLoc g false l).loadParts g c l (rangeParts l.va l.n)
    let (s2, es', bad') := s1.loadLocs g c ls
    (s2, es ++ es', match bad with | some x => some x | none => bad')

/-- A load of located bytes through the L1 of a core (R217). -/
def State.loadL1 (s : State) (g : Agent) (c a n : Nat) (ls : List Loc) : State × Loaded :=
  let (s1, es, bad) := s.loadLocs g c ls
  (s1, ⟨(List.range n).map fun i => copyByte es (a + i), copyTag es a, bad⟩)

/-- Where an error in a context's data was met: its DRAM sector (R402). -/
def State.errorAt (s : State) (ctx a : Nat) : Option ErrorAt :=
  (s.homeOf ctx a).map fun h => .sector h.1 (h.2 / 48)

/-- The poison of a granule goes with its data to another frame. -/
def State.movePoison (s : State) (o d : DieId) (src dst : Nat) : State :=
  let bad := ((sectorsOf src granuleSize).filter (s.die o).poisoned.contains).flatMap fun k =>
    let a := max src (48 * k)
    sectorsOf (dst + (a - src)) (min (src + granuleSize) (48 * k + 48) - a)
  (s.healSectors d dst granuleSize).modDie d fun x => { x with
    poisoned := x.poisoned ++ (bad.eraseDups.filter fun k => !x.poisoned.contains k) }

/-- A granule's contents, tags and poison put into a frame of a die under the keys of a leaf there. -/
def State.putFrame (s : State) (d : DieId) (ctx : Nat) (leaf : DWord) (pa : Nat) (m : Mem) (tags : TagSet) :
    State :=
  let dst := granuleOf pa * granuleSize
  let k := s.keysOf d ctx leaf
  s.modDie d fun x => { x with
    dram := memPut (memZero x.dram dst granuleSize) dst (memBytes m 0 granuleSize)
    tags := tags.foldl (fun t c => tagInsert t (dst / 16 + c)) (tagClear x.tags dst granuleSize)
    cipher := match k with
      | some y => aput x.cipher (granuleOf pa) y
      | none => adel x.cipher (granuleOf pa) }

/-- The A, D and C bits of a leaf. -/
def leafBits : DWord := (0xC0 : DWord) ||| BitVec.twoPow 64 53

/-- Steps 2 and 3 of a transfer (R395): a granule's data, its tags and the A, D and C bits of its leaf go to
another die, which becomes its home. On the old home the transfer counts as a write (R329), and a left copy
stays there for the checkpoints of a context with a mirror; its frame keeps what it holds. -/
def State.sendGranule (s : State) (d : DieId) (ctx : Nat) (x y : Xlat) (va : Nat) : State :=
  let o := otherDie d
  let src := granuleOf y.pa * granuleSize
  let s0 := (s.touchLeaf o ctx y true).1
  let mark := ((s.ctx? ctx).map (·.recorded)).getD 0
  let s1 := if ((s.ctx? ctx).bind (·.mirror)).isSome then s0.takeImage o ctx va y.pa y.leaf mark none true
            else s0
  let s2 := (s1.sense o src granuleSize).1
  let bits (e : DieId) (at' : Nat) : DWord := BitVec.ofNat 64 (leNat (memBytes (s2.die e).dram at' 8))
  let s3 := s2.writePhys d x.leafAt
    ((bits d x.leafAt &&& ~~~leafBits) ||| (bits o y.leafAt &&& leafBits))
  let s4 := (s3.putFrame d ctx x.leaf x.pa ((s2.die o).granuleMem y.pa (s2.keysOf o ctx y.leaf))
    (sliceTags (s2.die o).tags src granuleSize)).movePoison o d src (granuleOf x.pa * granuleSize)
  (s4.modDie d fun k => k.loseReplicas none fun r => r.touches ctx (granuleOf va * granuleSize) granuleSize).setDir
    d x.pa .home

/-- The transfer as a whole (R395): on the acknowledgement the old home becomes a peer and drops its
replicas. -/
def State.pullGranule (s : State) (d : DieId) (ctx : Nat) (x y : Xlat) (va : Nat) : State :=
  let o := otherDie d
  ((s.sendGranule d ctx x y va).modDie o fun k =>
    k.loseReplicas none fun r => r.touches ctx (granuleOf va * granuleSize) granuleSize).setDir o y.pa .peer

/-- The granules of a range whose leaf transfers ownership on a write made local (R394). -/
def State.pullRange (s : State) (g : Agent) : List (Nat × Nat) → Except Stop State
  | [] => .ok s
  | (a, n) :: rest =>
    match s.locate g .write a n with
    | .error e => .error e
    | .ok l =>
      match l.y with
      | some y =>
        if pteH l.x.leaf then (s.pullGranule g.die g.ctx l.x y a).pullRange g rest
        else s.pullRange g rest
      | none => s.pullRange g rest

/-- A write of one location chunk by chunk with the tags given, kept only on pages with T (R202). -/
def State.writeChunks (s : State) (g : Agent) (l : Loc) (bs : List Byte) : List Bool → Nat → State
  | [], _ => s
  | t :: ts, i =>
    let c : Loc := { l with va := l.va + 16 * i, n := 16, pa := l.pa + 16 * i }
    (s.writeLoc g c ((bs.drop (16 * i)).take 16) (t && pteT l.leaf)).writeChunks g l bs ts (i + 1)

/-- Bytes, with the tags of their chunks where they are whole chunks, written over locations. -/
def State.writeTagged (s : State) (g : Agent) (bs : List Byte) (tags : List Bool) :
    List Loc → State
  | [] => s
  | l :: ls =>
    let s1 := if tags.isEmpty then s.writeLoc g l (bs.take l.n) false
              else (s.writeChunks g l (bs.take l.n) (tags.take (l.n / 16)) 0).healSectors l.home l.pa l.n
    s1.writeTagged g (bs.drop l.n) (tags.drop (l.n / 16)) ls

/-- A write by an engine, a stash write-back or firmware at the homes of a range (R394). -/
def State.agentWrite (s : State) (g : Agent) (a : Nat) (bs : List Byte) (tags : List Bool) :
    Except Stop State :=
  match s.pullRange g (granuleParts a bs.length) with
  | .error e => .error e
  | .ok s1 =>
    match s1.locateAll g .write (granuleParts a bs.length) with
    | .error e => .error e
    | .ok ls => .ok (s1.writeTagged g bs tags ls)

/-- The tags of the chunks of a location. -/
def State.locTags (s : State) (l : Loc) : List Bool :=
  (List.range (l.n / 16)).map fun i => s.homeTag l.home (l.pa + 16 * i)

/-- A read by an engine at the homes of a range: bytes, chunk tags and the first poisoned address. -/
def State.agentRead (s : State) (g : Agent) (k : AccKind) (a n : Nat) :
    Except Stop (State × List Byte × List Bool × Option Nat) :=
  match s.locateAll g k (granuleParts a n) with
  | .error e => .error e
  | .ok ls =>
    let (s1, bs, bad) := s.readLocs g ls
    .ok (s1, bs, ls.flatMap s1.locTags, bad)

end Sys2Proof.Machine
end

