-- ==== Sys2Proof/Machine/Snapshot.lean ====
section
/-! DEFINITION. The snapshot registers of a die's blocks and their trigger (R437). -/

namespace Sys2Proof.Machine

/-- The blocks of a die, its display core among the cores. -/
def blocks (d : DieId) : List Block :=
  (List.range (Config.cores d + 1)).map Block.core
    ++ [.fabric, .frontEnd, .scanout, .linkPort, .scrub, .encryption]

/-- The control state of a block: indices, states, counts and addresses; never data or keys. -/
def State.controlOf (s : State) (d : DieId) (b : Block) : List Nat :=
  match b with
  | .core n =>
    let k := s.core d n
    [k.copies.length, k.array.length, k.rays.length, k.searches.length, k.samples.length, k.images.length,
      k.serialQ.length, k.rotation.length, k.regErrors] ++ (k.bitmap.map fun e => e.2.addr.toNat)
  | .fabric => [(s.die d).memErrors, (s.die d).poisonCount, (s.die d).replicas.length]
  | .frontEnd => (s.die d).entries.flatMap fun e => [e.1, e.2.vi, e.2.ctx, e.2.number.toNat, e.2.placed]
  | .scanout => (s.die d).heads.flatMap fun h => [h.1, h.2.frame, h.2.line, h.2.stat.toNat]
  | .linkPort => [s.link.nextId, s.link.reqs.length, s.link.transfers.length]
  | .scrub => (s.die d).scrub.elim [] fun j => [j.slot, j.ctx, j.stage, j.done]
  | .encryption => (s.die d).slots.flatMap fun k => [k.1, match k.2.state with
      | .free => 0
      | .active => 1
      | .scrubbing => 2]

/-- A trigger with a sequence number (R437): every armed block latches its control state with the number, and no
block latches twice for one number. -/
def State.trigger (s : State) (d : DieId) (seq : BitVec 16) : State :=
  let ready := (blocks d).filter fun b => !(s.die d).spent.contains b && !(s.die d).seen.contains (b, seq)
  s.modDie d fun x => { x with
    latched := ready.foldl (fun m b => aput m b ⟨seq, s.controlOf d b⟩) x.latched
    spent := x.spent ++ ready
    seen := x.seen ++ ready.map fun b => (b, seq) }

end Sys2Proof.Machine
end

