-- ==== Sys2Proof/Machine/Report.lean ====
section
/-! DEFINITION. Fault records (R293) and the faults that reach a thread after their instruction: the
deferred and imprecise faults of R240, their choice at a boundary (R241), and the records that stand
for them when the thread has exited (R348). -/

namespace Sys2Proof.Machine

/-- Word i of a launch record. -/
def recWord (r : List DWord) (i : Nat) : DWord := r.getD i 0

/-- The words of a launch fault record (R293). -/
def recordWords (launch : List DWord) (lost : Nat) (f : FaultRecord) : List Nat :=
  [bitsOf (recWord launch 2) 48 16 * 2 ^ 48 + f.kind * 2 ^ 40 + min lost 255 * 2 ^ 32 + f.cause,
   (recWord launch 7).toNat,
   bitsOf (recWord launch 0) 0 55,
   f.slot * 2 ^ 60 + f.clause.toNat % 2 ^ 55,
   f.word4.toNat,
   f.cove % 2 ^ 32 * 2 ^ 32 + f.crew % 32 * 2 ^ 16 + f.lane % 32,
   bitsOf (recWord launch 2) 32 16 * 2 ^ 48,
   0]

/-- Records a ring holds (R286). -/
def Queue.held (q : Queue) : Nat := (q.write - q.read).toNat

/-- The address of record i of a ring (R286). -/
def Queue.slotAt (q : Queue) (i : BitVec 16) : Nat := q.base + 64 * (i.toNat % 2 ^ q.size)

/-- The agent of the front end in a context (R203). -/
def frontAgent (d : DieId) (ctx : Nat) : Agent := ⟨d, none, ctx, none, true, false⟩

/-- A fault record put into the ring of an interface (R293). A record of a kind that firmware has selected triggers
the snapshot registers, with a sequence number that no rule gives: a free value (R437, log 2). -/
def State.ringRecord (s : State) (d : DieId) (vi : Nat) (launch : List DWord) (f : FaultRecord) :
    Except Stop State :=
  let q := (s.vi d vi).faults
  let bs := (recordWords launch (s.vi d vi).lost f).flatMap (leBytes 8)
  match s.writeGlobal (frontAgent d q.ctx) (q.slotAt q.write) bs with
  | .error e => .error e
  | .ok s1 =>
    let s2 := s1.modVi d vi fun i => { i with faults := { i.faults with write := i.faults.write + 1 }, lost := 0 }
    .ok (if (s2.die d).faultKinds.testBit f.kind then s2.draw.2.trigger d (s2.draw.1.setWidth 16) else s2)

/-- A fault record written to the queue of an interface, or dropped and counted (R293); while the place it takes
in the ring is in transfer it waits (R395), with those that come after it. -/
def State.writeRecord (s : State) (d : DieId) (vi : Nat) (launch : List DWord) (f : FaultRecord) :
    State :=
  let i := s.vi d vi
  let drop := s.modVi d vi fun i => { i with lost := min (i.lost + 1) 255 }
  let keep := s.modVi d vi fun i => { i with records := i.records ++ [(launch, f)] }
  if !i.faults.enable || decide (2 ^ i.faults.size ≤ i.faults.held + i.records.length) then drop
  else if !i.records.isEmpty then keep
  else
    match s.ringRecord d vi launch f with
    | .ok s1 => s1
    | .error .hold => keep
    | .error _ => drop

/-- The oldest fault record that waits is written, once its place is no longer in transfer. -/
def State.flushRecord (s : State) (d : DieId) (vi : Nat) : State :=
  match (s.vi d vi).records with
  | [] => s
  | (launch, f) :: rest =>
    match s.ringRecord d vi launch f with
    | .ok s1 => s1.modVi d vi fun i => { i with records := rest }
    | .error .hold => s
    | .error _ => s.modVi d vi fun i => { i with records := rest, lost := min (i.lost + 1) 255 }

/-- A record of a launch: kinds 1, 2 and 5 let it run on to an error (R293). -/
def State.launchRecord (s : State) (d : DieId) (e : Nat) (f : FaultRecord) : State :=
  match s.entry? d e with
  | none => s
  | some x =>
    (s.modEntry d e fun x => { x with
      error := true
      errors := f.cove :: x.errors }).writeRecord d x.vi x.record f

/-- The record of an imprecise fault whose thread has exited (R348); an uncorrectable error starts a
replay where it can (R349). -/
def State.lateFault (s : State) (d : DieId) (e : Nat) (loc : ErrorAt) (cause : Cause)
    (f : FaultRecord) : State :=
  match cause with
  | .linkLost => s.launchRecord d e { f with kind := 5, cause := Cause.linkLost.code }
  | .uncorrectable =>
    if s.replayable d e then s.startReplay d e loc f
    else s.launchRecord d e { f with kind := 4, cause := Cause.uncorrectable.code }
  | _ => s.launchRecord d e { f with kind := 1, cause := Cause.storeFaultLate.code }

/-- Which of two faults due at one boundary is taken (R241): one of the clause just run before a report of
an earlier one, of that clause the lower slot, of earlier ones the write issued first. `first` is the number
of the next link request as the clause started. -/
def Due.before (first : Nat) (a b : Due) : Bool :=
  if a.own first != b.own first then a.own first
  else if a.own first then decide (a.slot ≤ b.slot)
  else decide (a.order ≤ b.order)

/-- The fault of a list that is taken. -/
def pickDue (first : Nat) : List Due → Option Due
  | [] => none
  | d :: ds =>
    match pickDue first ds with
    | none => some d
    | some e => some (if d.before first e then d else e)

/-- The identity of a thread for a record (R293). -/
def State.identity (s : State) (r : TRef) (t : Thread) (clause : DWord) (slot : Nat)
    (word4 : DWord) : FaultRecord :=
  match s.cove? t.cove with
  | some c => c.identity r t clause slot word4
  | none => ⟨0, 0, word4, clause, slot, 0, 0, t.vlane⟩

/-- A pre-emption of the thread's context is in progress (R361). -/
def State.stopping (s : State) (t : Thread) : Bool :=
  (((s.cove? t.cove).bind fun c => if c.band.isSome then none else s.ctx? c.ctx).map fun x => x.status == .stopping).getD false

/-- A fault due at a thread's boundary is taken there (R241): one is chosen, the others are discarded
and counted; while its context stops it stays due (R362). Without any, STEP where it is due (R352). -/
def State.takeDue (s : State) (r : TRef) : State :=
  match s.thread? r with
  | none => s
  | some t =>
    if t.status != .ready || t.stopper.isSome || t.held || t.entry.isSome || !t.latches.isEmpty || s.inIssue r then s
    else
      match pickDue t.firstReq t.due with
      | none =>
        if t.stepDue then
          (s.modThread r fun t => { t with entry := some ⟨.step, 0, t.pc, 0, 2, 0, none⟩ }).settle r
        else s
      | some f =>
        if s.stopping t then s
        else (s.modThread r fun t =>
          { t with
            entry := some ⟨f.cause, f.tval, f.clause, f.slot, f.kind, t.due.length - 1, f.loc⟩
            due := [] }).settle r

/-- A wait or a latch ends: the thread is ready with a passed count of zero, stopped where a debug stop
waits for it (R355), and takes the trap it was entering or a fault due. -/
def State.makeReady (s : State) (r : TRef) : State :=
  let s1 := s.modThread r fun t =>
    { t with
      status := t.restStatus
      passed := 0
      tstat := if t.stopper.isSome && t.latches.isEmpty then t.tstat ||| 32 else t.tstat }
  match s1.thread? r with
  | some t => if t.entry.isSome then s1.settle r else s1.takeDue r
  | none => s1

/-- A deferred or imprecise fault reaches one thread (R240, R348, R351): it becomes due at its next
boundary, or pending behind a trap being entered, or a record when the thread has exited. -/
def State.postOne (s : State) (r : TRef) (f : Due) (visible : Bool) : State :=
  match s.thread? r with
  | none => s
  | some t =>
    if !t.active || t.exiting then
      if f.kind == 2 && visible then
        match s.cove? t.cove with
        | some cv => s.lateFault r.die cv.launch (f.loc.getD (.core r.die r.core)) f.cause
            (s.identity r t f.clause f.slot f.tval)
        | none => s
      else s
    else if t.entry.isSome then
      s.modThread r fun t => { t with pending := pickDue t.firstReq ([f] ++ t.pending.toList) }
    else (s.modThread r fun t => { t with due := t.due ++ [f] }).takeDue r

/-- The same for a thread and, in protected launch mode, its shadow (R42, R351). -/
def State.postDue (s : State) (r : TRef) (f : Due) : State :=
  if s.pairAt r then (s.postOne r f true).postOne (shadowOf r) f false else s.postOne r f true

/-- A report arrives (FAULT_REPORT_ARRIVAL): at its thread while that thread still lives, else as the
record that stands for it. A front-end report is the context fault of R349. -/
def State.deliver (s : State) (x : Report) : State :=
  let f : FaultRecord := ⟨0, 0, x.due.tval, x.due.clause, x.due.slot, x.cove, x.crew, x.lane⟩
  match x.thread with
  | none => s.launchRecord x.die x.launch { f with kind := 4, cause := Cause.uncorrectable.code }
  | some r =>
    let same := match s.thread? r with
      | some t =>
        match s.cove? t.cove with
        | some cv => cv.launch == x.launch && cv.index == x.cove && t.vlane == x.lane
        | none => false
      | none => false
    if same then s.postDue r x.due
    else if x.due.kind == 2 then
      s.lateFault x.die x.launch (x.due.loc.getD (.core r.die r.core)) x.due.cause f
    else s

/-- A deferred fault of the instruction at the current slot. -/
def State.deferFault (s : State) (c : Cur) (cause : Cause) (tval : DWord) (loc : Option ErrorAt) :
    State :=
  s.postDue c.r ⟨1, cause, tval, c.iss.addr, c.iss.slot, 0, loc⟩

end Sys2Proof.Machine
end

