-- ==== Sys2Proof/Machine/Request.lean ====
section
/-! DEFINITION. Requests on the link and the host attachment port (R230, R231, R283): the queues they wait
in, how an instruction asks for one, and how a thread held at its slot finds its end (R236, R240). -/

namespace Sys2Proof.Machine

/-- A request that posts a write and has no data to return. -/
def ReqKind.posted : ReqKind → Bool
  | .store _ _ => true
  | .release _ => true
  | .clean _ => true
  | _ => false

def Req.posted (q : Req) : Bool := q.kind.posted

/-- The destination register of a request. -/
def ReqKind.dest : ReqKind → Option (Nat × Width)
  | .load d _ => d
  | .atom _ _ _ d => d
  | _ => none

def Req.dest (q : Req) : Option (Nat × Width) := q.kind.dest

/-- A write: one posted, or an atom without a return (R234). -/
def Req.writes (q : Req) : Bool :=
  match q.kind with
  | .atom _ _ _ d => d.isNone
  | _ => q.posted

/-- The address that a request reaches. -/
def Req.at (q : Req) : Nat := q.base + q.va

/-- A request to the context's global memory: to its home, whichever space named it (R204). -/
def Req.global (q : Req) : Bool := q.space != 5 && q.space != 6

/-- The class of a fault that a request meets after its instruction (R240). -/
def Req.faultKind (q : Req) : Nat := if q.defers then 1 else 2

/-! The queues of a link port (R283). Requests cross in the order of their class; the partner's port holds
256 of them, and the rest stand in the outbound queues. -/

/-- The requests of a die that the link carries and that nothing has performed yet. -/
def Link.queued (l : Link) (d : DieId) : List Req :=
  l.reqs.filter fun q => q.phase == .queued && q.die == d && !(q.space == 5 && d == .craren)

/-- The inbound queue of a die between paired dies (log 106). -/
def Link.inbound (l : Link) (d : DieId) : List Req :=
  if l.mode = .paired then (l.queued (otherDie d)).take 256 else []

/-- An outbound queue of virtual channel 0: of posted requests, or of non-posted ones. -/
def Link.outbound (l : Link) (d : DieId) (posted : Bool) : List Req :=
  ((l.queued d).drop (if l.mode = .paired then 256 else 0)).filter fun q => q.posted == posted

/-- What an outbound queue of virtual channel 0 holds. -/
def outboundSize (posted : Bool) : Nat := if posted then 256 else 128

/-- Room for n requests of a class on their way from a die to a space. -/
def State.linkRoom (s : State) (d : DieId) (space : Nat) (posted : Bool) (n : Nat) : Bool :=
  (space == 5 && d == .craren)
    || decide ((s.link.outbound d posted).length + n ≤ outboundSize posted)

/-- The copies of a range of a context on a die that stores to it over space 6, which later loads would else
read in place of the write (R205, R213): the core's L1 copies, and the replicas. -/
def State.dropCopies (s : State) (d : DieId) (core ctx va n : Nat) : State :=
  (s.dropL1 d core ctx va n).modDie d fun x => x.loseReplicas none fun r => r.touches ctx va n

/-- A request of the current thread put on its way (R230, R231); spaces 5 and 6 end replayability. -/
def State.request (s : State) (c : Cur) (space va size : Nat) (sys : Bool) (kind : ReqKind)
    (tag : Bool) (wait : Bool := false) (base : Nat := 0) : State :=
  let q : Req := ⟨s.link.nextId, c.r.die, space, c.r, c.ctx, c.cv.launch, c.cv.index,
    c.crew, c.lane, c.iss.addr, c.iss.slot, va, size, base, sys, wait, kind, .queued, 0, tag⟩
  let s1 := { s with link := { s.link with nextId := s.link.nextId + 1
                                           reqs := s.link.reqs ++ [q] } }
  let s2 := if space = 5 ∨ space = 6 then s1.noReplay c.r.die c.cv.launch else s1
  let s3 := if space = 6 ∧ kind.posted then s2.dropCopies c.r.die c.r.core c.ctx va size else s2
  if kind.dest.isNone then s3 else s3.both c fun t => t.hideDest kind.dest

/-- The same where its queue has room; without it the lane is held. -/
def State.ask (s : State) (c : Cur) (space va size : Nat) (sys : Bool) (kind : ReqKind)
    (tag : Bool) (wait : Bool := false) (base : Nat := 0) : Except (State × Stop) State :=
  if s.linkRoom c.r.die space kind.posted 1 then .ok (s.request c space va size sys kind tag wait base)
  else .error (s, .hold)

/-- A request that holds its thread at its slot. -/
def State.askWait (s : State) (c : Cur) (space va size : Nat) (sys : Bool) (kind : ReqKind) : State :=
  if s.linkRoom c.r.die space kind.posted 1 then s.request c space va size sys kind false true else s

/-- A request taken off the link. -/
def State.dropReq (s : State) (q : Req) : State :=
  { s with link := { s.link with reqs := s.link.reqs.erase q } }

/-- An access of the thread to bytes of the context's memory on the peer, by either space that names them, is
still on its way: a later one of the thread to them stays behind it (R205). -/
def State.owes (s : State) (r : TRef) (a n : Nat) : Bool :=
  s.link.reqs.any fun q => q.thread == r && q.phase == .queued && q.space != 5 && overlap q.at q.size a n

/-- Ownership asked for a granule homed on the peer (R395, step 1). -/
def State.requestTransfer (s : State) (d : DieId) (ctx va : Nat) (x y : Xlat) : State :=
  let s1 := s.setDir d x.pa .transfer
  { s1 with link := { s1.link with
      transfers := s1.link.transfers ++
        [⟨d, ctx, granuleOf va * granuleSize, 0, granuleOf y.pa * granuleSize,
          granuleOf x.pa * granuleSize⟩] } }

/-- Where a thread's write to located bytes needs ownership first, the state with the transfers asked
for (R394). -/
def State.askOwnership (s : State) (g : Agent) (ls : List Loc) : Option State :=
  if ls.any fun l => l.remote && pteH l.x.leaf then
    some (ls.foldl (fun s l => match l.y with
      | some y => if pteH l.x.leaf then s.requestTransfer g.die g.ctx l.va l.x y else s
      | none => s) s)
  else none

/-! A thread held for its own requests. -/

/-- Where the error of a failed request was met (R402). -/
def State.lossAt (s : State) (q : Req) (cause : Cause) (tval : DWord) : Option ErrorAt :=
  if cause = .uncorrectable then s.errorAt q.ctx (q.base + tval.toNat) else none

/-- The requests that the current thread, held at this slot, waits for there. -/
def State.ownReqs (s : State) (c : Cur) : List Req :=
  if c.t.held then
    s.link.reqs.filter fun q => q.thread == c.r && q.wait && q.clause == c.iss.addr && q.slot == c.iss.slot
  else []

/-- What a thread finds of the requests it waits for at its slot: none, or stash parts brought and cleaned,
so that the instruction goes on; some still on their way; a fault; or the instruction's own access
performed, with what it read and, under fence strengthening, the loss of its acknowledgement (R236). -/
inductive Own where
  | free
  | hold
  | late (cause : Cause) (tval : DWord) (loc : Option ErrorAt)
  | got (v : Quad) (tag : Bool) (after : Option DWord)
  deriving DecidableEq, Repr

/-- The end of a request that is not a fault or the making ready of a stash part. -/
def Req.result (q : Req) : Option Own :=
  match q.kind, q.phase with
  | .fill _, _ => none
  | .clean _, _ => none
  | _, .lostAfter a => some (.got q.data q.tag (some a))
  | _, _ => some (.got q.data q.tag none)

/-- The requests that the thread waits for, taken off the link once all have come to their end. -/
def State.takeOwn (s : State) (c : Cur) : State × Own :=
  let qs := s.ownReqs c
  if qs.any Req.open then (s, .hold)
  else
    let s1 := qs.foldl State.dropReq s
    match qs.findSome? fun q => match q.phase with
      | .failed cause tval => some (Own.late cause tval (s.lossAt q cause tval))
      | _ => none with
    | some e => (s1, e)
    | none => (s1, (qs.findSome? Req.result).getD .free)

/-- A fault met after the instruction's slot (R240): deferred, or imprecise for a store and for an atom
without return. -/
def State.lateAt (s : State) (c : Cur) (deferred : Bool) (cause : Cause) (tval : DWord)
    (loc : Option ErrorAt) : State :=
  if deferred then s.deferFault c cause tval loc
  else s.postDue c.r ⟨2, cause, tval, c.iss.addr, c.iss.slot, s.link.nextId, loc⟩

/-- An instruction that may be held for its own requests: it ends with what they brought, or is performed
from its start once none stands in its way. -/
def State.afterOwn (s : State) (c : Cur) (deferred : Bool) (got : State → Quad → Bool → State)
    (k : State → Except (State × Stop) State) : Except (State × Stop) State :=
  match s.takeOwn c with
  | (s1, .free) => k s1
  | (s1, .hold) => .error (s1, .hold)
  | (s1, .late cause tval loc) => .ok (s1.lateAt c deferred cause tval loc)
  | (s1, .got v tag none) => .ok (got s1 v tag)
  | (s1, .got v tag (some a)) => .ok ((got s1 v tag).deferFault c .linkLost a none)

end Sys2Proof.Machine
end

