-- ==== Sys2Proof/Machine/Stash.lean ====
section
/-! DEFINITION. The stash windows of a cove (R222, R333): fills, write-backs, and the steps that
stash.wb, stash.inv, acq, rel, bind and unbind make over them. -/

namespace Sys2Proof.Machine

/-- The window of a cove that holds a global address (R333). -/
def Cove.windowAt (c : Cove) (a : Nat) : Option (Nat × Window) :=
  c.windows.find? fun e => decide (48 * e.2.firstSector ≤ a)
    && decide (a < 48 * (e.2.firstSector + e.2.sectors))

/-- The physical scratchpad offset of a global address in a window. -/
def Window.at (w : Window) (c : Cove) (a : Nat) : Nat :=
  c.scratchBase + w.offset + (a - 48 * w.firstSector)

/-- The state of the part that starts at an address; none is invalid (R190). -/
def Window.part (w : Window) (start : Nat) : Option PartState := aget w.parts start

/-- The state of a part written in a cove's window. -/
def State.setPart (s : State) (cr : CoveRef) (i start : Nat) (v : Option PartState) : State :=
  s.modCove cr fun c => { c with windows := amod c.windows i fun w => { w with
    parts := match v with
      | some p => aput w.parts start p
      | none => adel w.parts start } }

/-- A trap of a global access as a fault of a stash access: the cause given, and the first byte of the
access in the part (R235, R242, R250). -/
def stashStop (cause : Cause) (a : Nat) : Stop → Stop
  | .trap .uncorrectable x => .trap .uncorrectable x
  | .trap _ _ => .trap cause (dw a)
  | e => e

/-- The same for a fill, which keeps PAGE_ABSENT (R235). -/
def fillStop (cause : Cause) (a : Nat) : Stop → Stop
  | .trap .pageAbsent _ => .trap .pageAbsent (dw a)
  | e => stashStop cause a e

/-- A latent error of one scratchpad sector found when it is read (R193). -/
def State.senseScratchOne (s : State) (d : DieId) (c n : Nat) : State :=
  match s.upsets.find? (fun u => match u with
    | .scratch e k m _ => e == d && k == c && m == n
    | _ => false) with
  | some (.scratch e k m double) =>
    let s := { s with upsets := s.upsets.erase (.scratch e k m double) }
    if double then (s.modCore d c fun x => { x with
      badSectors := if x.badSectors.contains n then x.badSectors else x.badSectors ++ [n] }).modDie d
        fun x => { x with poisonCount := min (x.poisonCount + 1) (2 ^ 64 - 1) }
    else s.modDie d fun x => { x with memErrors := min (x.memErrors + 1) (2 ^ 64 - 1) }
  | _ => s

/-- Scratchpad bytes read, and whether any sector of them is poisoned. -/
def State.readScratch (s : State) (d : DieId) (c a n : Nat) : State × List Byte × Bool :=
  let s1 := (sectorsOf a n).foldl (fun s k => s.senseScratchOne d c k) s
  (s1, s1.scratchBytes d c a n,
    (sectorsOf a n).any fun k => (s1.core d c).badSectors.contains k)

/-- Why a step over a stash part does not complete: a stop, or an uncorrectable error at a byte of global
memory or in the scratchpad (R240). -/
inductive PartStop where
  | stop (e : Stop)
  | poison (a : Nat) (loc : Option ErrorAt)
  deriving DecidableEq, Repr

/-- Entries of a binding table from the bytes of the table (R332), with the index of the first. -/
def bindingsFrom : Nat → Nat → List Byte → Assoc Nat Quad
  | 0, _, _ => []
  | n + 1, i, b =>
    let v := ofNatQ (leNat (b.take 16))
    let rest := bindingsFrom n (i + 1) (b.drop 16)
    if v = 0 then rest else (i, v) :: rest

/-- The entries that are not zero. -/
def bindingsIn (b : List Byte) : Assoc Nat Quad := bindingsFrom 256 0 b

/-- The 4,096 bytes of a binding table (R332). -/
def bindingBytes (t : Assoc Nat Quad) : List Byte :=
  (List.range 256).flatMap fun i => leBytes 16 ((aget t i).getD 0).toNat

/-- The entries of the binding table loaded from the copy in the context's save area (R324). A copy that the
tables do not map leaves the entries loaded before (log 104). -/
def State.loadBindings (s : State) (d : DieId) (ctx : Nat) : State × Option PartStop :=
  match s.ctx? ctx with
  | none => (s, none)
  | some x =>
    match s.agentRead ⟨d, none, ctx, none, true, false⟩ .read x.saveBase 4096 with
    | .ok (s1, _, _, some a) => (s1, some (.poison a (s1.errorAt ctx a)))
    | .ok (s1, b, _, none) => (s1.modCtx ctx fun c => { c with bindings := bindingsIn b }, none)
    | .error (.trap _ _) => (s, none)
    | .error e => (s, some (.stop e))

/-- Ranges bound to a sync object in a context (R332). -/
def Context.bound (x : Context) (object : Nat) : List (Nat × Nat) :=
  (x.bindings.filter fun e => qbits e.2 0 1 == 1 && qbits e.2 3 52 * 8 == object).map fun e =>
    (192 * qbits e.2 80 48, 192 * (qbits e.2 64 16 + 1))

/-- An acq of a cove whose object's value the link has still to bring keeps the parts of the regions bound to
the object invalid (R218, R220). -/
def State.acquiring (s : State) (cr : CoveRef) (ctx a n : Nat) : Bool :=
  s.link.reqs.any fun q => q.kind == .acquire && q.phase == .queued && q.space == 0 && q.ctx == ctx
    && ((s.thread? q.thread).map (·.cove)) == some cr
    && (((s.ctx? ctx).map (·.bound q.va)).getD []).any fun r => overlap r.1 r.2 a n

/-- One part filled from global memory where it is invalid, as a load of the filling thread (R222): the core's
L1 copies of it, which may be older, leave (R205). With a thread whose instruction asks for it, a part that only
the peer holds is asked for over the link. -/
def State.fillPart (s : State) (via : Option Cur) (g : Agent) (cr : CoveRef) (c : Cove) (i : Nat)
    (w : Window) (cause : Cause) (a : Nat) : State × Option PartStop :=
  let start := partStart a
  match ((aget ((s.cove? cr).map (·.windows) |>.getD []) i).bind (·.part start)) with
  | some _ => (s, none)
  | none =>
    let n := partEnd a - start
    match s.locateAll g .read (granuleParts start n) with
    | .error e => (s, some (.stop (fillStop cause a e)))
    | .ok ls =>
      if s.acquiring cr c.ctx start n then (s, some (.stop .hold)) else
      match (if ls.any fun l => s.farPart g l start then via else none) with
      | some k => (s.askWait k 1 start n g.sys (.fill cause), some (.stop .hold))
      | none =>
        let s0 := match ls.find? Loc.remote with
          | some l => s.addReplica g.die g.ctx l start
          | none => s
        match s0.readLocs g ls with
        | (s1, _, some x) => (s1, some (.poison x (s1.errorAt g.ctx x)))
        | (s1, bs, none) =>
          (((s1.dropL1 cr.die cr.core g.ctx start n).scratchSet cr.die cr.core (w.at c start) bs (ls.flatMap s1.locTags)).setPart cr i start
            (some .clean), none)

/-- The first bytes of a range in each part it touches. -/
def partFirsts (a n : Nat) : List Nat := (rangeParts a n).map fun p => max a p

/-- A dirty part written back as a write by an agent of the cove (R222); its bytes are consumed (R193).
With a thread whose instruction asks for it, the part of a granule homed on the peer is sent there, and
made local first where a write transfers it (R394). -/
def State.writeBack (s : State) (via : Option Cur) (sys : Bool) (cr : CoveRef) (c : Cove) (w : Window)
    (start : Nat) (inval : Bool) : State × Option PartStop :=
  let n := partEnd start - start
  let p := w.at c start
  let g : Agent := { c.agent cr with sys := sys }
  match s.readScratch cr.die cr.core p n with
  | (s1, _, true) => (s1, some (.poison start (some (.core cr.die cr.core))))
  | (s1, bs, false) =>
    let tags := (List.range (n / 16)).map fun k => s1.scratchTag cr.die cr.core (p / 16 + k)
    match via with
    | none =>
      match s1.agentWrite g start bs tags with
      | .ok s2 => (s2, none)
      | .error e => (s1, some (.stop (stashStop .storeFault start e)))
    | some k =>
      match s1.locateAll g .write (granuleParts start n) with
      | .error e => (s1, some (.stop (stashStop .storeFault start e)))
      | .ok ls =>
        match s1.askOwnership g ls with
        | some s2 => (s2, some (.stop .hold))
        | none =>
          if ls.any Loc.remote then
            (s1.askWait k 1 start n sys (.clean inval), some (.stop .hold))
          else (s1.writeTagged g bs tags ls, none)

/-- What a step over stash parts does with each: written back where dirty, then clean or invalid. -/
def State.cleanParts (s : State) (via : Option Cur) (sys : Bool) (cr : CoveRef) (c : Cove) (i : Nat)
    (w : Window) (inval : Bool) : List (Nat × PartState) → State × Option PartStop
  | [] => (s, none)
  | (start, p) :: rest =>
    match (if p = .dirty then s.writeBack via sys cr c w start inval else (s, none)) with
    | (s1, some e) => (s1, some e)
    | (s1, none) =>
      (s1.setPart cr i start (if inval then none else some .clean)).cleanParts via sys cr c i w inval rest

/-- The parts of a window that overlap a range, in rising order. -/
def Window.partsIn (w : Window) (a n : Nat) : List (Nat × PartState) :=
  (w.parts.filter fun e => decide (0 < n) && decide (e.1 < a + n) && decide (a < partEnd e.1)).mergeSort
    fun x y => decide (x.1 ≤ y.1)

/-- A step over parts, for each range of a list of windows or of regions, up to the first that stops. -/
def foldParts {α : Type} (s : State) (f : State → α → State × Option PartStop) : List α → State × Option PartStop
  | [] => (s, none)
  | x :: xs =>
    match f s x with
    | (s1, none) => foldParts s1 f xs
    | r => r

/-- stash.wb (inval false) or stash.inv (inval true) over a range of every window of a cove (R250):
the state reached and what stopped it. -/
def State.cleanRange (s : State) (via : Option Cur) (sys : Bool) (cr : CoveRef) (a n : Nat)
    (inval : Bool) : State × Option PartStop :=
  match s.cove? cr with
  | none => (s, none)
  | some c => foldParts s (fun s e => s.cleanParts via sys cr c e.1 e.2 inval (e.2.partsIn a n)) c.windows

/-- The same over every part of every window. -/
def State.cleanAll (s : State) (via : Option Cur) (sys : Bool) (cr : CoveRef) (inval : Bool) :
    State × Option PartStop :=
  s.cleanRange via sys cr 0 (2 ^ 56) inval

/-- The stash steps of acq (inval) and rel over the regions bound to an object (R218, R219), by the entries that
the core loads (R324). -/
def State.cleanBound (s : State) (via : Option Cur) (sys : Bool) (cr : CoveRef) (ctx object : Nat)
    (inval : Bool) : State × Option PartStop :=
  match s.loadBindings cr.die ctx with
  | (s1, none) =>
    foldParts s1 (fun s r => s.cleanRange via sys cr r.1 r.2 inval)
      (((s1.ctx? ctx).map (·.bound object)).getD [])
  | r => r

/-- What an instruction answers after its steps over stash parts: it goes on, stops at its slot, or ends
there with a deferred UNCORRECTABLE (R240), bind and unbind too (log 108). -/
def afterParts (c : Cur) (deferred : Bool) (k : State → Except (State × Stop) State) :
    State × Option PartStop → Except (State × Stop) State
  | (s, none) => k s
  | (s, some (.stop e)) => .error (s, e)
  | (s, some (.poison a loc)) => .ok (s.lateAt c deferred .uncorrectable (dw a) loc)

/-- The L1 copies of the bound regions dropped from a core (R218). -/
def State.dropBound (s : State) (d : DieId) (core ctx object : Nat) : State :=
  (((s.ctx? ctx).map (·.bound object)).getD []).foldl
    (fun s r => s.dropL1 d core ctx r.1 r.2) s

/-- Whether fence strengthening is in force for a context (R232). -/
def State.strong (s : State) (ctx : Nat) : Bool := ((s.ctx? ctx).map (·.strong)).getD false

end Sys2Proof.Machine
end

