-- ==== Sys2Proof/Machine/Access.lean ====
section
/-! DEFINITION. Accesses by space (R198, R235): where each goes, what it reads and writes, the requests
that cross the link or the host attachment port, and the waits of fences (R212). -/

namespace Sys2Proof.Machine

/-- The system permission of a capability (R199). -/
def capSystem (v : Quad) : Bool := capHas v permSystem

/-- Bytes as a quad, the lowest address first (R6). -/
def quadOf (bs : List Byte) : Quad := ofNatQ (leNat bs)

/-- The low n bytes of a quad. -/
def quadBytes (n : Nat) (v : Quad) : List Byte := leBytes n v.toNat

/-- A loaded value in its register width (R242). -/
def loadValue (t : Ty) (v : Quad) : Quad :=
  match t with
  | .i8 => ((v.setWidth 8).signExtend 32).setWidth 128
  | .n8 => (v.setWidth 8).setWidth 128
  | .i16 => ((v.setWidth 16).signExtend 32).setWidth 128
  | .n16 => (v.setWidth 16).setWidth 128
  | _ => wmask t.width v

/-- What an access that completes at once reads: its bytes, the tag of an aligned 16-byte chunk, and
the address and place of an uncorrectable error. -/
structure Got where
  bytes : List Byte
  tag : Bool
  bad : Option (DWord × Option ErrorAt)
  deriving DecidableEq, Repr

/-- The core that the bay map of a cove's cluster gives for a position of its bay (R338). -/
def State.bayCore (s : State) (cr : CoveRef) (c : Cove) (pos : Nat) : Option Nat :=
  ((s.die cr.die).remaps.find? fun m => m.ctx == c.ctx && m.cluster == clusterOf cr.core).bind
    fun m => aget m.bays (c.launch, c.index / c.bayCount, pos)

/-- The cove of a thread's bay at a position (R40, R198), on the core that the router finds for it (R338). -/
def State.bayCove (s : State) (cr : CoveRef) (c : Cove) (pos : Nat) : Option (CoveRef × Cove) :=
  if c.bayCount = 0 then none
  else
    match s.bayCore cr c pos with
    | none => none
    | some core => s.coves.find? fun e => e.1.die == cr.die && e.1.core == core && e.2.launch == c.launch
        && e.2.index / c.bayCount == c.index / c.bayCount && e.2.bayPos == pos

/-- The scratchpad that a space 2 or 3 range reaches: core and physical offset (R198). -/
def State.scratchOf (s : State) (c : Cur) (space a n : Nat) : Except Stop (Nat × Nat) :=
  if space = 2 then
    if a + n ≤ c.cv.declared then .ok (c.r.core, c.cv.scratchBase + a)
    else .error (.trap .capBounds (dw a))
  else
    match (if a / 2 ^ 36 = 0 then s.bayCove c.t.cove c.cv (a / 2 ^ 32) else none) with
    | some (cr, k) =>
      if a % 2 ^ 32 + n ≤ k.declared then .ok (cr.core, k.scratchBase + a % 2 ^ 32)
      else .error (.trap .capBounds (dw a))
    | none => .error (.trap .capBounds (dw a))

/-- A protected context (R428). -/
def State.isProtected (s : State) (ctx : Nat) : Bool := ((s.ctx? ctx).bind (·.keySlot)).isSome

/-- Whether a context has a space 5 or 6 behind a die's ports (R198); a protected one has no space 6 (R428). -/
def State.spaceLinked (s : State) (d : DieId) (ctx space : Nat) : Bool :=
  if space = 6 then s.link.mode == .paired && !s.isProtected ctx
  else match d with
    | .craren => Config.hostAttached
    | .dukor => s.link.mode == .laptop

/-- Whether a new access may reach it: none that the link carries once the link drains (R295). -/
def State.spaceUp (s : State) (d : DieId) (ctx space : Nat) : Bool :=
  s.spaceLinked d ctx space && !(s.link.draining && (space == 6 || d == .dukor))

/-- An operation issued since the link drains finds no space 6, and on the Dukor no space 5 (R295, step 4); what was
issued before goes on. -/
def State.lateFor (s : State) (d : DieId) (after space : Nat) : Bool :=
  s.link.draining && decide (s.link.drainFrom ≤ after) && (space == 6 || (space == 5 && d == .dukor))

/-- The pieces of a range by sector part. -/
def segments (a n : Nat) : List (Nat × Nat) :=
  (rangeParts a n).map fun p => (max a p, min (a + n) (partEnd p) - max a p)

/-- The bytes of a space 1 range, every part of it valid. -/
def State.stashRead (s : State) (c : Cur) (a n : Nat) : State × List Byte × Bool :=
  (segments a n).foldl (fun acc g =>
    match c.cv.windowAt g.1 with
    | some (_, w) =>
      let (s1, bs, bad) := acc.1.readScratch c.r.die c.r.core (w.at c.cv g.1) g.2
      (s1, acc.2.1 ++ bs, acc.2.2 || bad)
    | none => acc) (s, [], false)

/-- A failed translation as a fault of an access: its cause, or PAGE_ABSENT (R235, check 6). -/
def Stop.as (cause : Cause) : Stop → Stop
  | .trap .pageAbsent a => .trap .pageAbsent a
  | .trap .uncorrectable a => .trap .uncorrectable a
  | .trap _ a => .trap cause a
  | e => e

/-- Check 6 of R235 for an access that reads, writes or does both: every granule of its range. -/
def State.reach (s : State) (g : Agent) (cause : Cause) (a n : Nat) : List AccKind → Option Stop
  | [] => none
  | k :: ks =>
    match s.locateAll g k (granuleParts a n) with
    | .error e => some (e.as cause)
    | .ok _ => s.reach g cause a n ks

/-- The first byte of a range that lies in no window of a cove (R198). -/
def Cove.uncovered (c : Cove) (a e : Nat) : Nat → Option Nat
  | 0 => none
  | fuel + 1 =>
    if e ≤ a then none
    else
      match c.windowAt a with
      | none => some a
      | some (_, w) => c.uncovered (48 * (w.firstSector + w.sectors)) e fuel

/-- The same with room for every window. -/
def Cove.outside (c : Cove) (a n : Nat) : Option Nat := c.uncovered a (a + n) (c.windows.length + 1)

/-- The state of the part that holds a space 1 address. -/
def Cove.partAt (c : Cove) (a : Nat) : Option PartState :=
  (c.windowAt a).bind fun x => x.2.part (partStart a)

/-- The checks of a space 1 range that come before its first fill (R195, R198, R235): its windows, its
translation, and that of the parts to fill. -/
def State.stashCheck (s : State) (c : Cur) (sys : Bool) (cause : Cause) (ks : List AccKind) (a n : Nat) :
    Option Stop :=
  match c.cv.outside a n with
  | some x => some (.trap cause (dw x))
  | none =>
    match s.reach (c.agent sys) cause a n ks with
    | some e => some e
    | none => (partFirsts a n).findSome? fun p =>
      if (c.cv.partAt p).isSome then none
      else (s.reach (c.agent sys) cause (partStart p) (partEnd p - partStart p) [.read]).map (fillStop cause p)

/-- A space 1 range made ready for an access: checked, and its invalid parts filled (R198, R222, R242,
R244), behind what the thread itself still has on its way to them (R205). -/
def State.stashOpen (s : State) (via : Option Cur) (c : Cur) (sys : Bool) (cause : Cause)
    (ks : List AccKind) (a n : Nat) : State × Option PartStop :=
  match s.stashCheck c sys cause ks a n with
  | some e => (s, some (.stop e))
  | none =>
    if s.owes c.r (partStart a) (partEnd (a + n - 1) - partStart a) then (s, some (.stop .hold))
    else
      foldParts s (fun s p =>
        match c.cv.windowAt p with
        | some (i, w) => s.fillPart via (c.agent sys) c.t.cove c.cv i w cause p
        | none => (s, none)) (partFirsts a n)

/-- The tag of the scratchpad chunk behind a space 1 address. -/
def State.stashTag (s : State) (c : Cur) (a : Nat) : Bool :=
  match c.cv.windowAt a with
  | some (_, w) => s.scratchTag c.r.die c.r.core (w.at c.cv a / 16)
  | none => false

/-- A read of spaces 0 to 4 and 7 that completes at once (R198, R217). One of space 4 reads the home, so the
core's L1 copies of it, which may be older, leave (R205). -/
def State.readSpace (s : State) (c : Cur) (space a n : Nat) (sys : Bool) :
    Except Stop (State × Got) :=
  let g := c.agent sys
  match space with
  | 0 | 7 =>
    match s.locateAll g .read (granuleParts a n) with
    | .error e => .error e
    | .ok ls =>
      let (s1, v) := s.loadL1 g c.r.core a n ls
      .ok (s1, ⟨v.bytes, v.tag, v.bad.map fun x => (dw x, s1.errorAt c.ctx x)⟩)
  | 1 =>
    match s.stashOpen none c sys .loadFault [.read] a n with
    | (_, some (.stop e)) => .error e
    | (s1, some (.poison x loc)) => .ok (s1, ⟨[], false, some (dw x, loc)⟩)
    | (s1, none) =>
      let (s2, bs, bad) := s1.stashRead c a n
      .ok (s2, ⟨bs, s2.stashTag c a, if bad then some (dw a, some (.core c.r.die c.r.core)) else none⟩)
  | 4 =>
    if c.cv.constLen < a + n then .error (.trap .capBounds (dw a))
    else
      match s.agentRead g .read (c.cv.constBase + a) n with
      | .error (.trap cause x) => .error (.trap cause (x - dw c.cv.constBase))
      | .error e => .error e
      | .ok (s1, bs, tags, bad) =>
        .ok (s1.dropL1 c.r.die c.r.core c.ctx (c.cv.constBase + a) n,
          ⟨bs, tags.getD 0 false, bad.map fun x => (dw (x - c.cv.constBase), s1.errorAt c.ctx x)⟩)
  | _ =>
    match s.scratchOf c space a n with
    | .error e => .error e
    | .ok (core, p) =>
      let (s1, bs, bad) := s.readScratch c.r.die core p n
      .ok (s1, ⟨bs, s1.scratchTag c.r.die core (p / 16),
        if bad then some (dw a, some (.core c.r.die core)) else none⟩)

/-- A value delivered to the destination of the current instruction at the end of its clause, in both
threads of a protected pair. -/
def State.deliverReg (s : State) (c : Cur) (d : Opnd) (w : Width) (v : Quad) (tag : Bool) : State :=
  s.both c fun t => t.deferReg d w v tag

/-- The register and width of a destination. -/
def destOf (d : Opnd) (w : Width) : Option (Nat × Width) :=
  match d with
  | .g n => some (n.val, w)
  | _ => none

/-- Whether a load goes over the link or the host attachment port: spaces 5 and 6 do, and the bytes of a
granule homed on the peer of which this die has no replica (R394). -/
def State.farLoad (s : State) (c : Cur) (space a n : Nat) (sys : Bool) : Bool :=
  match space with
  | 5 | 6 => true
  | 0 | 7 =>
    match s.locateAll (c.agent sys) .read (granuleParts a n) with
    | .ok ls => s.farRead (c.agent sys) ls
    | .error _ => false
  | 4 =>
    if c.cv.constLen < a + n then false
    else
      match s.locateAll (c.agent sys) .read (granuleParts (c.cv.constBase + a) n) with
      | .ok ls => s.farRead { c.agent sys with core := none } ls
      | .error _ => false
  | _ => false

/-- Where the addresses of a space start in global memory (R198). -/
def Cur.spaceBase (c : Cur) (space : Nat) : Nat := if space = 4 then c.cv.constBase else 0

/-- A load waits behind an access of its own thread to the same bytes of global memory (R205). -/
def State.loadOwes (s : State) (c : Cur) (space a n : Nat) : Bool :=
  (space == 0 || space == 7 || space == 4) && s.owes c.r (c.spaceBase space + a) n

/-- A load that completes at its slot: its value waits for the clause's end, or an uncorrectable error of
it is deferred (R242, R240). -/
def loadNow (s : State) (c : Cur) (t : Ty) (d : Opnd) (cap : Quad) (a : Nat) :
    Except (State × Stop) State :=
  match s.readSpace c (capSpace cap) a t.bytes (capSystem cap) with
  | .error e => .error (s, e)
  | .ok (s1, v) =>
    match v.bad with
    | some (x, loc) => .ok (s1.deferFault c .uncorrectable x loc)
    | none => .ok (s1.deliverReg c d t.width (loadValue t (quadOf v.bytes))
        (t == .b128 && a % 16 == 0 && capHas cap permLoadCap && v.tag))

/-- A load of a type (R242). -/
def loadAt (s : State) (c : Cur) (t : Ty) (d : Opnd) (cap : Quad) (a : Nat) :
    Except (State × Stop) State :=
  let n := t.bytes
  let sys := capSystem cap
  let space := capSpace cap
  if (space = 5 ∨ space = 6) ∧ !s.spaceUp c.r.die c.ctx space then .error (s, .trap .loadFault (dw a))
  else if s.loadOwes c space a n then .error (s, .hold)
  else if s.farLoad c space a n sys then
    s.ask c (if space = 7 then 0 else space) a n sys (.load (destOf d t.width) t)
      (t == .b128 && a % 16 == 0 && capHas cap permLoadCap) false (c.spaceBase space)
  else
    match (if space = 1 then s.stashOpen (some c) c sys .loadFault [.read] a n else (s, none)) with
    | (s1, some (.stop e)) => .error (s1, e)
    | (s1, _) => loadNow s1 c t d cap a

/-- ld and ld.k over either offset (R242, R243). -/
def loadOp (s : State) (gd : Guard) (t : Ty) (d a b : Opnd) : Host.Outcome State Fault Refusal :=
  onceComparing s gd [(a, .w128), (b, .w32)] id fun s c vs =>
    s.afterOwn c true (fun s _ _ => s) fun s =>
      match checkCap (nth vs 0).1 (nth vs 0).2 permRead (lo32 (nth vs 1)) t.bytes with
      | .error e => .error (s, e)
      | .ok x => loadAt s c t d (nth vs 0).1 x

/-- A store to located bytes: performed at this die's homes, sent to the peer's (R394). -/
def State.storeLocs (s : State) (c : Cur) (g : Agent) (sys : Bool) (mk : List Byte → ReqKind)
    (bs : List Byte) (tag : Bool) : List Loc → State
  | [] => s
  | l :: ls =>
    let s1 :=
      if l.remote then
        (s.noteOwn g true l).request c 0 l.va l.n sys (mk (bs.take l.n)) tag
      else s.writeLoc g l (bs.take l.n) (tag && pteT l.leaf)
    s1.storeLocs c g sys mk (bs.drop l.n) tag ls

/-- A write to located bytes waits behind an access of its own thread that is still on its way to a home
of this die, and for room in the queue of those that leave (R205, R283). -/
def State.storeWaits (s : State) (c : Cur) (ls : List Loc) (posted : Bool) : Bool :=
  ls.any (fun l => !l.remote && s.owes c.r l.va l.n)
    || !s.linkRoom c.r.die 0 posted (ls.filter Loc.remote).length

/-- A write to space 0 or 7 of the current thread (R244). -/
def State.storeGlobal (s : State) (c : Cur) (sys : Bool) (mk : List Byte → ReqKind) (a : Nat)
    (bs : List Byte) (tag : Bool) : Except (State × Stop) State :=
  let g := c.agent sys
  match s.locateAll g .write (granuleParts a bs.length) with
  | .error e => .error (s, e)
  | .ok ls =>
    match s.askOwnership g ls with
    | some s1 => .error (s1, .hold)
    | none => if s.storeWaits c ls true then .error (s, .hold) else .ok (s.storeLocs c g sys mk bs tag ls)

/-- Bytes written to the parts of a space 1 range of a cove, which become dirty, or stay clean where the
write also goes through (R233, R244). -/
def State.stashPut (s : State) (cr : CoveRef) (cv : Cove) (through : Bool) :
    List (Nat × Nat) → List Byte → State
  | [], _ => s
  | (a, n) :: rest, bs =>
    match cv.windowAt a with
    | none => s
    | some (i, w) =>
      let s1 := s.scratchPut cr.die cr.core (w.at cv a) (bs.take n)
      let s2 := if through then s1 else s1.setPart cr i (partStart a) (some .dirty)
      s2.stashPut cr cv through rest (bs.drop n)

/-- Bytes, with the tag of one aligned chunk, written to a space 1 range of a cove. -/
def State.stashWrite (s : State) (cr : CoveRef) (cv : Cove) (through : Bool) (a : Nat) (bs : List Byte)
    (tag : Bool) : State :=
  let s1 := s.stashPut cr cv through (segments a bs.length) bs
  match cv.windowAt a with
  | some (_, w) => if tag then s1.scratchTagPut cr.die cr.core (w.at cv a / 16) true else s1
  | none => s1

/-- A write to space 1 whose range is ready (R244). Under fence strengthening it is performed at the home
too, and the thread is held until the peer has performed it where that is the home (R233). -/
def State.stashStore (s : State) (c : Cur) (sys : Bool) (kind : ReqKind) (a : Nat) (bs : List Byte)
    (tag : Bool) : Except (State × Stop) State :=
  if s.strong c.ctx then
    let g := c.agent sys
    match s.locateAll g .write (granuleParts a bs.length) with
    | .error e => .error (s, e)
    | .ok ls =>
      match s.askOwnership g ls with
      | some s1 => .error (s1, .hold)
      | none =>
        if ls.any Loc.remote then .error (s.askWait c 1 a bs.length sys kind, .hold)
        else .ok ((s.stashWrite c.t.cove c.cv true a bs tag).storeLocs c g sys (.store · tag) bs tag ls)
  else .ok (s.stashWrite c.t.cove c.cv false a bs tag)

/-- A write to space 1 (R244). -/
def State.storeStash (s : State) (c : Cur) (sys : Bool) (a : Nat) (bs : List Byte) (tag : Bool) :
    Except (State × Stop) State :=
  afterParts c false (fun s => s.stashStore c sys (.store bs tag) a bs tag)
    (s.stashOpen (some c) c sys .storeFault [.write] a bs.length)

/-- A write of bytes by space (R198, R244), tagged where the bytes are one aligned tagged quad. -/
def State.storeSpace (s : State) (c : Cur) (cap : Quad) (a : Nat) (bs : List Byte) (tag : Bool) :
    Except (State × Stop) State :=
  let sys := capSystem cap
  let tag := tag && a % 16 == 0
  match capSpace cap with
  | 0 | 7 => s.storeGlobal c sys (.store · tag) a bs tag
  | 1 => s.storeStash c sys a bs tag
  | 2 =>
    match s.scratchOf c 2 a bs.length with
    | .error e => .error (s, e)
    | .ok (core, p) =>
      let s1 := s.scratchPut c.r.die core p bs
      .ok (if tag then s1.scratchTagPut c.r.die core (p / 16) true else s1)
  | 5 | 6 =>
    if s.spaceUp c.r.die c.ctx (capSpace cap) then s.ask c (capSpace cap) a bs.length sys (.store bs tag) tag
    else .error (s, .trap .storeFault (dw a))
  | _ => .error (s, .trap .capPerm (dw a))

/-- The checks of R201 on a store or atom; spaces 3 and 4 raise CAP_PERM whatever the permissions
(R198). -/
def checkStore (v : Quad × Bool) (perm : Nat) (off : Word) (n : Nat) : Except Stop Nat :=
  if effTag v.1 v.2 && (capSpace v.1 == 3 || capSpace v.1 == 4) then
    .error (.trap .capPerm (tvalOf (capAddr v.1 off)))
  else checkCap v.1 v.2 perm off n

/-- What the pair comparison sees of a store or an atom: space, address, data and its tag (R256). -/
def seenStore (n : Nat) (tagged : Bool) (vs : List (Quad × Bool)) : List (Quad × Bool) :=
  [(ofNatQ (capSpace (nth vs 0).1), false),
   (BitVec.ofInt 128 (capAddr (nth vs 0).1 (lo32 (nth vs 1))), false),
   (ofNatQ ((nth vs 2).1.toNat % 2 ^ (8 * n)), tagged && (nth vs 2).2)]

/-- The tag a store writes: a tagged quad's through a capability with store-capability, else 0 (R202). Only
a tagged quad that every check treats as untagged (R199) gets past the check without it (log 99). -/
def storeTag (t : Ty) (cap : Quad) (x : Quad × Bool) : Bool :=
  t == .b128 && x.2 && capHas cap permStoreCap

/-- st (R244). Store-capability permission is asked for where the quad is a capability (R202). -/
def storeOp (s : State) (gd : Guard) (t : Ty) (a b x : Opnd) : Host.Outcome State Fault Refusal :=
  onceComparing s gd [(a, .w128), (b, .w32), (x, t.width)] (seenStore t.bytes (t == .b128))
    fun s c vs => s.afterOwn c false (fun s _ _ => s) fun s =>
      let cap := nth vs 0
      let perm := if t == .b128 && effTag (nth vs 2).1 (nth vs 2).2 then permWrite + permStoreCap
                  else permWrite
      match checkStore cap perm (lo32 (nth vs 1)) t.bytes with
      | .error e => .error (s, e)
      | .ok y => s.storeSpace c cap.1 y (quadBytes t.bytes (nth vs 2).1) (storeTag t cap.1 (nth vs 2))

/-- A request that reads. -/
def Req.reads (q : Req) : Bool :=
  match q.kind with
  | .load _ _ => true
  | .atom _ _ _ _ => true
  | .acquire => true
  | .fill _ => true
  | _ => false

/-- Whether a fence below .sys, or at .sys, waits for a request (R212, R234). -/
def Req.holdsFence (q : Req) (sys : Bool) : Bool :=
  q.open && (sys || q.reads || (q.space != 5 && q.space != 6 && q.phase == .queued))

/-- Accesses of a thread that a fence waits for have still to be performed (R212). -/
def State.unperformed (s : State) (r : TRef) (sys : Bool) : Bool :=
  s.link.reqs.any fun q => q.thread == r && q.holdsFence sys

/-- A write of a thread to space 5 or 6 lost with the link (R230). -/
def Req.lostWrite (q : Req) : Bool :=
  match q.phase with
  | .failed c _ => c == .linkLost && q.writes && !q.global && !q.wait
  | _ => false

/-- The effect of a fence at a scope (R212): it waits, it traps where the link has taken a write it
waits for (R230), and it drops the L1 copies. -/
def State.fenceAt (s : State) (c : Cur) (scope : Scope) : Except (State × Stop) State :=
  match scope with
  | .thr => .ok s
  | _ =>
    let sys := scope == .sys
    match (if sys then s.link.reqs.find? fun q => q.thread == c.r && q.lostWrite else none) with
    | some q =>
      .error ({ s with link := { s.link with
        reqs := s.link.reqs.filter fun x => !(x.thread == c.r && x.lostWrite) } },
        .trap .linkLost (dw q.va))
    | none =>
      if s.unperformed c.r sys then .error (s, .hold)
      else if scope == .cove then .ok s
      else .ok (s.clearL1 c.r.die c.r.core c.ctx)

/-- The value an atom writes, none where a cas fails (R245). -/
def atomNew (aop : Fin 10) (t : Ty) (old : Nat) (x : Quad) : Option Nat :=
  let w := tyBits t
  let m := x.toNat % 2 ^ w
  let le (p q : Nat) : Bool :=
    if tySigned t then decide ((BitVec.ofNat w p).toInt ≤ (BitVec.ofNat w q).toInt)
    else decide (p ≤ q)
  match aop with
  | 0 => some ((old + m) % 2 ^ w)
  | 1 => some (old &&& m)
  | 2 => some (old ||| m)
  | 3 => some (old ^^^ m)
  | 4 => some (if le old m then old else m)
  | 5 => some (if le m old then old else m)
  | 6 => some m
  | 7 => if old = m then some (x.toNat / 2 ^ w % 2 ^ w) else none
  | 8 => some (if le m old then 0 else (old + 1) % 2 ^ w)
  | 9 => some (if old = 0 || !le old m then m else (old + 2 ^ w - 1) % 2 ^ w)

/-- The register widths of an atom's operand C (R238). -/
def atomWidth (aop : Fin 10) (t : Ty) : Width :=
  if aop = 7 then (if t.width = .w32 then .w64 else .w128) else t.width

/-- An atom on a core's scratchpad: its old value goes to the destination; an uncorrectable error is
deferred with a return, imprecise without (R240). -/
def State.atomScratch (s : State) (c : Cur) (aop : Fin 10) (t : Ty) (d : Opnd) (x : Quad)
    (core p a : Nat) : State :=
  let (s1, bs, bad) := s.readScratch c.r.die core p t.bytes
  if bad then s1.lateAt c (d != .none) .uncorrectable (dw a) (some (.core c.r.die core))
  else
    let old := leNat bs
    let s2 := match atomNew aop t old x with
      | some v => s1.scratchPut c.r.die core p (leBytes t.bytes v)
      | none => s1
    s2.deliverReg c d t.width (ofNatQ old) false

/-- An atom on located bytes of this die's homes: the state and its old value, or the poisoned byte. The
core's L1 copy of what it read is no older than that (R205). -/
def State.atomHome (s : State) (g : Agent) (l : Loc) (aop : Fin 10) (t : Ty) (x : Quad) :
    State × (Nat ⊕ Nat) :=
  match s.sense l.home l.pa l.n with
  | (s1, some p) => (s1, .inr (l.va + (p - l.pa)))
  | (s1, none) =>
    let old := leNat (s1.homeBytes g.ctx l l.pa l.n)
    match atomNew aop t old x with
    | some v => (s1.writeLoc g l (leBytes l.n v) false, .inl old)
    | none =>
      let s2 := s1.noteLoc g false l
      (match g.core with
        | some k => s2.dropL1 g.die k g.ctx l.va l.n
        | none => s2, .inl old)

/-- An atom of spaces 0 and 7 (R245, R394). -/
def State.atomGlobal (s : State) (c : Cur) (sys wait : Bool) (aop : Fin 10) (t : Ty) (d : Opnd)
    (x : Quad) (a : Nat) : Except (State × Stop) State :=
  let g := c.agent sys
  let kind := ReqKind.atom aop t x (destOf d t.width)
  match s.locate g .write a t.bytes with
  | .error e => .error (s, e)
  | .ok l =>
    if !pteR l.x.leaf then .error (s, .trap .storeFault (dw a))
    else
      match s.askOwnership g [l] with
      | some s1 => .error (s1, .hold)
      | none =>
        if s.storeWaits c [l] false then .error (s, .hold)
        else if l.remote then
          let s1 := s.noteOwn g true l
          if wait then .error (s1.askWait c 0 a t.bytes sys kind, .hold)
          else s1.ask c 0 a t.bytes sys kind false
        else
          match s.atomHome g l aop t x with
          | (s1, .inl old) => .ok (s1.deliverReg c d t.width (ofNatQ old) false)
          | (s1, .inr p) => .ok (s1.lateAt c (d != .none) .uncorrectable (dw p) (s1.errorAt c.ctx p))

/-- An atom on the stash copy of space 1, its part ready (R246). -/
def State.atomStash (s : State) (c : Cur) (sys : Bool) (aop : Fin 10) (t : Ty) (d : Opnd) (x : Quad)
    (a : Nat) : Except (State × Stop) State :=
  match c.cv.windowAt a with
  | none => .error (s, .trap .storeFault (dw a))
  | some (_, w) =>
    match s.readScratch c.r.die c.r.core (w.at c.cv a) t.bytes with
    | (s1, _, true) =>
      .ok (s1.lateAt c (d != .none) .uncorrectable (dw a) (some (.core c.r.die c.r.core)))
    | (s1, bs, false) =>
      let old := leNat bs
      match atomNew aop t old x with
      | none => .ok (s1.deliverReg c d t.width (ofNatQ old) false)
      | some v =>
        match s1.stashStore c sys (.atom aop t x (destOf d t.width)) a (leBytes t.bytes v) false with
        | .error e => .error e
        | .ok s2 => .ok (s2.deliverReg c d t.width (ofNatQ old) false)

/-- An atom by space (R246). -/
def State.atomSpace (s : State) (c : Cur) (cap : Quad) (wait : Bool) (scope : Scope) (aop : Fin 10)
    (t : Ty) (d : Opnd) (x : Quad) (a : Nat) : Except (State × Stop) State :=
  let sys := capSystem cap
  match capSpace cap with
  | 0 | 7 => s.atomGlobal c sys wait aop t d x a
  | 1 =>
    if scope != .thr && scope != .cove then .error (s, .trap .storeFault (dw a))
    else
      afterParts c (d != .none) (fun s => s.atomStash c sys aop t d x a)
        (s.stashOpen (some c) c sys .storeFault [.write, .read] a t.bytes)
  | 2 =>
    match s.scratchOf c 2 a t.bytes with
    | .error e => .error (s, e)
    | .ok (core, p) => .ok (s.atomScratch c aop t d x core p a)
  | 5 | 6 =>
    if s.spaceUp c.r.die c.ctx (capSpace cap) && (capSpace cap == 6 || aop ∈ [(0 : Fin 10), 6, 7]) then
      let kind := ReqKind.atom aop t x (destOf d t.width)
      if wait then .error (s.askWait c (capSpace cap) a t.bytes sys kind, .hold)
      else s.ask c (capSpace cap) a t.bytes sys kind false
    else .error (s, .trap .storeFault (dw a))
  | _ => .error (s, .trap .capPerm (dw a))

/-- atom (R245, R246), under fence strengthening as fence.sys, atom, fence.sys (R236); the first fence comes
after the checks of the capability and before those of the space and the translation (log 119). -/
def atomOp (s : State) (gd : Guard) (t : Ty) (scope : Scope) (aop : Fin 10) (d a b x : Opnd) :
    Host.Outcome State Fault Refusal :=
  onceComparing s gd [(a, .w128), (b, .w32), (x, atomWidth aop t)]
    (seenStore (if aop = 7 then 2 * t.bytes else t.bytes) false) fun s c vs =>
      s.afterOwn c (d != .none)
        (fun s v _ => (s.deliverReg c d t.width v false).clearL1 c.r.die c.r.core c.ctx) fun s =>
      let cap := nth vs 0
      match checkStore cap (permRead + permWrite + permAtomic) (lo32 (nth vs 1)) t.bytes with
      | .error e => .error (s, e)
      | .ok y =>
        if y % t.bytes ≠ 0 then .error (s, .trap .align (dw y))
        else if s.strong c.ctx then
          match s.fenceAt c .sys with
          | .error e => .error e
          | .ok s1 =>
            match s1.atomSpace c cap.1 true scope aop t d (nth vs 2).1 y with
            | .error e => .error e
            | .ok s2 => .ok (s2.clearL1 c.r.die c.r.core c.ctx)
        else s.atomSpace c cap.1 false scope aop t d (nth vs 2).1 y

end Sys2Proof.Machine
end

