-- ==== Sys2Proof/Machine/Control.lean ====
section
/-! DEFINITION. Transfers of control, exit, yield, nap and brk (R166 to R172). -/

namespace Sys2Proof.Machine

/-- The target of a direct transfer (R167). -/
def directTarget (c : Cur) (v : Quad × Bool) : DWord := c.iss.addr + ((lo32 v).signExtend 64) * 8

/-- The thread's next clause, taken at the end of this one. -/
def Thread.goTo (t : Thread) (a : DWord) : Thread := { t with jump := some (a, 0) }

/-- br over either displacement (R167). -/
def brOp (s : State) (gd : Guard) (b : Opnd) : Host.Outcome State Fault Refusal :=
  readingIf s gd [(b, .w32)] fun s c vs =>
    .ok (s.modThread c.r fun t => t.goTo (directTarget c (nth vs 0)))

/-- call over either displacement (R167). -/
def callOp (s : State) (gd : Guard) (d b : Opnd) : Host.Outcome State Fault Refusal :=
  readingIf s gd [(b, .w32)] fun s c vs =>
    .ok ((s.touch c.r (d.names .w64)).modThread c.r fun t =>
      (t.writeOpnd d .w64 (c.iss.successor.setWidth 128) false).goTo (directTarget c (nth vs 0)))

/-- An indirect transfer (R167, R168): ALIGN before D is written; brx and callx need a landing
clause. -/
def indirect (s : State) (gd : Guard) (land : Bool) (d a : Opnd) :
    Host.Outcome State Fault Refusal :=
  readingIf s gd [(a, .w64)] fun s c vs =>
    let x := lo64 (nth vs 0)
    if x.toNat % 8 ≠ 0 then .error (.trap .align x)
    else .ok ((s.touch c.r (d.names .w64)).modThread c.r fun t =>
      { (t.writeOpnd d .w64 (c.iss.successor.setWidth 128) false).goTo x with
        landFrom := if land then some c.iss.addr else none })

/-- Where a nap sleeps (R170, R171). -/
def State.napPlace (s : State) (c : Cur) (cap : Quad) (a : Nat) : NapAt × Nat :=
  let line := a / 192 * 192
  match capSpace cap with
  | 0 | 7 => (.dram c.r.die c.ctx, line)
  | 2 => (.scratch c.r.die c.r.core, c.cv.scratchBase + line)
  | 3 =>
    match (if line / 2 ^ 36 = 0 then s.bayCove c.t.cove c.cv (line / 2 ^ 32) else none) with
    | some (cr, k) => (.scratch c.r.die cr.core, k.scratchBase + line % 2 ^ 32)
    | none => (.other 3, line)
  | n => (.other n, line)

/-- br (R167). -/
def execBr (gd : Guard) (b : Opnd) (s : State) : Host.Outcome State Fault Refusal := brOp s gd b

/-- The immediate twin of br. -/
def execBrImm (gd : Guard) (imm : BitVec 20) (s : State) : Host.Outcome State Fault Refusal :=
  brOp s gd (immInt imm)

/-- brx (R167, R168). -/
def execBrx (gd : Guard) (a : Opnd) (s : State) : Host.Outcome State Fault Refusal :=
  indirect s gd true .none a

/-- call (R167). -/
def execCall (gd : Guard) (d b : Opnd) (s : State) : Host.Outcome State Fault Refusal :=
  callOp s gd d b

/-- The immediate twin of call. -/
def execCallImm (gd : Guard) (d : Opnd) (imm : BitVec 20) (s : State) :
    Host.Outcome State Fault Refusal :=
  callOp s gd d (immInt imm)

/-- callx (R167, R168). -/
def execCallx (gd : Guard) (d a : Opnd) (s : State) : Host.Outcome State Fault Refusal :=
  indirect s gd true d a

/-- ret (R167, R168). -/
def execRet (gd : Guard) (a : Opnd) (s : State) : Host.Outcome State Fault Refusal :=
  indirect s gd false .none a

/-- exit (R169): the thread ends with its clause. -/
def execExit (gd : Guard) (s : State) : Host.Outcome State Fault Refusal :=
  guarded s gd fun c => .next (s.modThread c.r fun t => { t with exiting := true })

/-- yield (R27, R170). -/
def execYield (gd : Guard) (s : State) : Host.Outcome State Fault Refusal :=
  guarded s gd fun c => .next (s.modThread c.r fun t => { t with passed := 0, yielded := true })

/-- nap (R170): its capability is checked as a one-byte read, and nothing is accessed. -/
def execNap (gd : Guard) (a b : Opnd) (s : State) : Host.Outcome State Fault Refusal :=
  readingIf s gd [(a, .w128), (b, .w32)] fun s c vs =>
    match checkCap (nth vs 0).1 (nth vs 0).2 permRead (lo32 (nth vs 1)) 1 with
    | .error e => .error e
    | .ok x =>
      let p := s.napPlace c (nth vs 0).1 x
      .ok (s.modThread c.r fun t => { t with status := .napping p.1 p.2 0, passed := 0 })

/-- brk (R172). -/
def execBrk (gd : Guard) (s : State) : Host.Outcome State Fault Refusal :=
  guarded s gd fun c => .next (s.trapAt c .breakpoint 0)

end Sys2Proof.Machine
end

