-- ==== Sys2Proof/Machine/Barriers.lean ====
section
/-! DEFINITION. Named barriers (R374 to R377): their arithmetic, arrivals of threads and copies, waits,
and the bar instructions. -/

namespace Sys2Proof.Machine

/-- A named barrier of a core; one that nothing has placed is disabled. -/
def Core.barrier (k : Core) (n : Nat) : Barrier := (aget k.barriers n).getD ⟨0, 0, 0⟩

/-- arrive(c) of R376 on a barrier whose expected is not 0. -/
def Barrier.arrive (b : Barrier) (c : Nat) : Barrier :=
  let total := b.arrived + c
  ⟨b.expected, total % b.expected, b.phase + BitVec.ofNat 32 (total / b.expected)⟩

/-- ini(e) of R376. -/
def Barrier.ini (b : Barrier) (e : Nat) : Barrier := ⟨e, 0, b.phase⟩

/-- ready(t) of R376. -/
def Barrier.ready (b : Barrier) (token : Word) : Bool :=
  decide (1 ≤ (b.phase - token).toNat) && decide ((b.phase - token).toNat < 2 ^ 31)

/-- The threads of a core that wait on one of its barriers and may go on. -/
def State.barrierReady (s : State) (d : DieId) (core n : Nat) : List TRef :=
  let b := (s.core d core).barrier n
  (s.threads.filter fun e =>
    match e.2.status with
    | .barWait _ _ token k =>
      e.1.die == d && e.1.core == core && b.ready token
        && ((s.cove? e.2.cove).map fun c => c.barBase + k == n).getD false
    | _ => false).map Prod.fst

/-- A barrier changed, and the waits it releases (R376). -/
def State.putBarrier (s : State) (d : DieId) (core n : Nat) (b : Barrier) : State :=
  let s1 := s.modCore d core fun k => { k with barriers := aput k.barriers n b }
  (s1.barrierReady d core n).foldl State.makeReady s1

/-- The arrival of a copy on a barrier of its cove: discarded where expected is 0 (R376). -/
def State.copyArrive (s : State) (cr : CoveRef) (c : Cove) (k : Nat) : State :=
  let b := (s.core cr.die cr.core).barrier (c.barBase + k)
  if b.expected = 0 then s else s.putBarrier cr.die cr.core (c.barBase + k) (b.arrive 1)

/-- The barrier that a number names, with the check of R375. -/
def State.barOf (s : State) (c : Cur) (n : Nat) : Except Stop Barrier :=
  if n < c.cv.barCount then .ok ((s.core c.r.die c.r.core).barrier (c.cv.barBase + n))
  else .error (.trap .formatInvalid (dw n))

/-- The count that an arrival gives: none is 1 (R374). -/
def arriveCount (a : Opnd) (v : Quad × Bool) : Nat := if a = .none then 1 else (lo32 v).toNat

/-- The checks of an arrival (R375). -/
def State.arriveCheck (s : State) (c : Cur) (n count : Nat) : Except Stop Barrier :=
  match s.barOf c n with
  | .error e => .error e
  | .ok b =>
    if count = 0 ∨ 65535 < count then .error (.trap .formatInvalid (dw count))
    else if b.expected = 0 then .error (.trap .formatInvalid (dw n))
    else .ok b

/-- The thread waits at a barrier from the end of its clause (R376). -/
def State.barHold (s : State) (c : Cur) (n : Nat) (token : Word) : State :=
  s.both c fun t => { t with status := .barWait c.iss.addr c.iss.slot token n, passed := 0 }

/-- bar.ini over either number (R376). -/
def barIniOp (s : State) (gd : Guard) (a b : Opnd) : Host.Outcome State Fault Refusal :=
  onceReading s gd [(a, .w32), (b, .w32)] fun s c vs =>
    let e := (lo32 (nth vs 0)).toNat
    let n := (lo32 (nth vs 1)).toNat
    match s.barOf c n with
    | .error x => .error x
    | .ok k =>
      if 65535 < e then .error (.trap .formatInvalid (dw e))
      else .ok (s.putBarrier c.r.die c.r.core (c.cv.barBase + n) (k.ini e))

/-- bar.arr over either number, and bar.arw, which also waits (R376); the arrival releases at scope .cove what
the thread did before (R214). -/
def barArrOp (s : State) (gd : Guard) (wait : Bool) (d a b : Opnd) :
    Host.Outcome State Fault Refusal :=
  onceReading s gd [(a, .w32), (b, .w32)] fun s c vs =>
    let count := arriveCount a (nth vs 0)
    let n := (lo32 (nth vs 1)).toNat
    match s.arriveCheck c n count with
    | .error x => .error x
    | .ok k =>
      if s.unperformed c.r false then .error .hold
      else
      let s1 := (s.touch c.r (d.names .w32)).both c fun t =>
        t.writeOpnd d .w32 (k.phase.setWidth 128) false
      let s2 := s1.putBarrier c.r.die c.r.core (c.cv.barBase + n) (k.arrive count)
      .ok (if wait && !(k.arrive count).ready k.phase then s2.barHold c n k.phase else s2)

/-- bar.wt over either number (R376). -/
def barWtOp (s : State) (gd : Guard) (a b : Opnd) : Host.Outcome State Fault Refusal :=
  onceReading s gd [(a, .w32), (b, .w32)] fun s c vs =>
    let n := (lo32 (nth vs 1)).toNat
    match s.barOf c n with
    | .error x => .error x
    | .ok k => .ok (if k.ready (lo32 (nth vs 0)) then s else s.barHold c n (lo32 (nth vs 0)))

/-- bar.ini (R376). -/
def execBarIni (gd : Guard) (a b : Opnd) (s : State) : Host.Outcome State Fault Refusal :=
  barIniOp s gd a b

/-- The immediate twin of bar.ini. -/
def execBarIniImm (gd : Guard) (a : Opnd) (imm : BitVec 20) (s : State) :
    Host.Outcome State Fault Refusal :=
  barIniOp s gd a (immInt imm)

/-- bar.arr (R376). -/
def execBarArr (gd : Guard) (d a b : Opnd) (s : State) : Host.Outcome State Fault Refusal :=
  barArrOp s gd false d a b

/-- The immediate twin of bar.arr. -/
def execBarArrImm (gd : Guard) (d a : Opnd) (imm : BitVec 20) (s : State) :
    Host.Outcome State Fault Refusal :=
  barArrOp s gd false d a (immInt imm)

/-- bar.wt (R376). -/
def execBarWt (gd : Guard) (a b : Opnd) (s : State) : Host.Outcome State Fault Refusal :=
  barWtOp s gd a b

/-- The immediate twin of bar.wt. -/
def execBarWtImm (gd : Guard) (a : Opnd) (imm : BitVec 20) (s : State) :
    Host.Outcome State Fault Refusal :=
  barWtOp s gd a (immInt imm)

/-- bar.arw (R376). -/
def execBarArw (gd : Guard) (d a b : Opnd) (s : State) : Host.Outcome State Fault Refusal :=
  barArrOp s gd true d a b

/-- The immediate twin of bar.arw. -/
def execBarArwImm (gd : Guard) (d a : Opnd) (imm : BitVec 20) (s : State) :
    Host.Outcome State Fault Refusal :=
  barArrOp s gd true d a (immInt imm)

end Sys2Proof.Machine
end

