-- ==== Sys2Proof/Machine/Flags.lean ====
section
/-! DEFINITION. The floating formats, the rounding, the flags and the NaN rules of R96 and R127 to
R132, over exact values: a significand times a power of two. Every unit that computes in these
formats rounds here. -/

namespace Sys2Proof.Machine

/-- The flag bits of FSTAT (R96). -/
def flNV : Word := 1
def flDZ : Word := 2
def flOF : Word := 4
def flUF : Word := 8
def flNX : Word := 16

/-- A flag set under a condition. -/
def flagIf (b : Bool) (f : Word) : Word := if b then f else 0

/-- A floating format: exponent bits, fraction bits, and whether it has infinities (R127). -/
structure Fmt where
  ebits : Nat
  fbits : Nat
  hasInf : Bool
  deriving DecidableEq, Repr

def fp64 : Fmt := ⟨11, 52, true⟩
def fp32 : Fmt := ⟨8, 23, true⟩
def fp16 : Fmt := ⟨5, 10, true⟩
def bfp16 : Fmt := ⟨8, 7, true⟩
def fpE4M3 : Fmt := ⟨4, 3, false⟩
def fpE5M2 : Fmt := ⟨5, 2, true⟩

/-- The format of a floating type. -/
def fmtOf : Ty → Fmt
  | .f64 => fp64
  | .f16 => fp16
  | .bf16 => bfp16
  | .e4m3 => fpE4M3
  | .e5m2 => fpE5M2
  | _ => fp32

/-- Bits of the format. -/
def Fmt.width (f : Fmt) : Nat := 1 + f.ebits + f.fbits

/-- The exponent bias. -/
def Fmt.bias (f : Fmt) : Nat := 2 ^ (f.ebits - 1) - 1

/-- The exponent of the least subnormal, and of the least normal. -/
def Fmt.qmin (f : Fmt) : Int := 1 - (f.bias : Int) - f.fbits
def Fmt.emin (f : Fmt) : Int := 1 - (f.bias : Int)

/-- The sign bit as a number. -/
def Fmt.signBit (f : Fmt) : Nat := 2 ^ (f.ebits + f.fbits)

/-- The magnitude bits of the largest finite value. -/
def Fmt.maxFinite (f : Fmt) : Nat :=
  if f.hasInf then (2 ^ f.ebits - 1) * 2 ^ f.fbits - 1 else 2 ^ (f.ebits + f.fbits) - 2

/-- The magnitude bits of infinity, where the format has one. -/
def Fmt.infBits (f : Fmt) : Nat := (2 ^ f.ebits - 1) * 2 ^ f.fbits

/-- The default NaN (R127). -/
def Fmt.nan (f : Fmt) : Nat :=
  if f.hasInf then f.infBits + 2 ^ (f.fbits - 1) else 2 ^ (f.ebits + f.fbits) - 1

/-- A value read: a NaN that signals or not, an infinity, or a finite value (-1)^neg m 2^e. -/
inductive FVal where
  | nan (sig : Bool)
  | inf (neg : Bool)
  | num (neg : Bool) (m : Nat) (e : Int)
  deriving DecidableEq, Repr

/-- The value of a bit pattern (R127). -/
def Fmt.read (f : Fmt) (bits : Nat) : FVal :=
  let neg := bits / f.signBit % 2 == 1
  let e := bits / 2 ^ f.fbits % 2 ^ f.ebits
  let m := bits % 2 ^ f.fbits
  if f.hasInf && e == 2 ^ f.ebits - 1 then
    if m = 0 then .inf neg
    else .nan (m / 2 ^ (f.fbits - 1) == 0 && f != fpE5M2)
  else if !f.hasInf && e == 2 ^ f.ebits - 1 && m == 2 ^ f.fbits - 1 then .nan false
  else if e = 0 then .num neg m f.qmin
  else .num neg (2 ^ f.fbits + m) (f.qmin + (e : Int) - 1)

/-- The sign of a read bit pattern. -/
def Fmt.neg (f : Fmt) (bits : Nat) : Bool := bits / f.signBit % 2 == 1

def FVal.isNan : FVal → Bool
  | .nan _ => true
  | _ => false

def FVal.isSignalling : FVal → Bool
  | .nan s => s
  | _ => false

/-- A zero of either sign. -/
def FVal.isZero : FVal → Bool
  | .num _ m _ => m == 0
  | _ => false

def FVal.isInf : FVal → Bool
  | .inf _ => true
  | _ => false

/-- The sign of a value that is no NaN. -/
def FVal.neg : FVal → Bool
  | .nan _ => false
  | .inf n => n
  | .num n _ _ => n

/-- The value with its sign inverted. -/
def FVal.negate : FVal → FVal
  | .nan s => .nan s
  | .inf n => .inf (!n)
  | .num n m e => .num (!n) m e

/-- A sign and magnitude as bits. -/
def Fmt.signed (f : Fmt) (neg : Bool) (mag : Nat) : Nat := if neg then f.signBit + mag else mag

/-- m times 2^e rounded to a multiple of 2^q under a mode: the multiple, and whether it is inexact. -/
def roundAt (r : Rnd) (neg : Bool) (m : Nat) (e q : Int) : Nat × Bool :=
  if q ≤ e then (m * 2 ^ (e - q).toNat, false)
  else
    let s := (q - e).toNat
    let k := m / 2 ^ s
    let x := m % 2 ^ s
    let up := match r with
      | .rn => decide (2 ^ s < 2 * x) || (decide (2 * x = 2 ^ s) && k % 2 == 1)
      | .rz => false
      | .ru => !neg && x != 0
      | .rd => neg && x != 0
    (k + up.toNat, x != 0)

/-- The bits an overflow gives (R130). -/
def Fmt.overflow (f : Fmt) (r : Rnd) (sat neg : Bool) : Nat :=
  let toInf := match r with
    | .rn => true
    | .rz => false
    | .ru => !neg
    | .rd => neg
  if sat || !toInf then f.signed neg f.maxFinite
  else if f.hasInf then f.signed neg f.infBits
  else f.nan

/-- A nonzero exact value rounded (R130): the bits and the flags. -/
def Fmt.roundNum (f : Fmt) (r : Rnd) (sat neg : Bool) (m : Nat) (e : Int) : Nat × Word :=
  let top := e + m.log2
  let q := max (top - f.fbits) f.qmin
  let (k, nx) := roundAt r neg m e q
  let mag := (q - f.qmin).toNat * 2 ^ f.fbits + k
  if f.maxFinite < mag then (f.overflow r sat neg, flOF ||| flNX)
  else
    let (k', _) := roundAt r neg m e (top - f.fbits)
    let tiny := decide (top + (if k' = 2 ^ (f.fbits + 1) then 1 else 0) < f.emin)
    (f.signed neg mag, flagIf nx flNX ||| flagIf (nx && tiny) flUF)

/-- An exact value, zero or not, rounded; a zero keeps the sign given. -/
def Fmt.round (f : Fmt) (r : Rnd) (sat neg : Bool) (m : Nat) (e : Int) : Nat × Word :=
  if m = 0 then (f.signed neg 0, 0) else f.roundNum r sat neg m e

/-- An exact sum of two finite values: a signed significand and its exponent. -/
def sumNum (n1 : Bool) (m1 : Nat) (e1 : Int) (n2 : Bool) (m2 : Nat) (e2 : Int) : Int × Int :=
  let e := min e1 e2
  let a : Int := m1 * 2 ^ (e1 - e).toNat
  let b : Int := m2 * 2 ^ (e2 - e).toNat
  ((if n1 then -a else a) + (if n2 then -b else b), e)

/-- The sign of an exact zero sum (R131). -/
def zeroSign (r : Rnd) (n1 n2 : Bool) : Bool := if n1 = n2 then n1 else r == .rd

/-- A sum of two values (R131, R132, R135). -/
def Fmt.addVal (f : Fmt) (r : Rnd) (a b : FVal) : Nat × Word :=
  match a, b with
  | .nan s, y => (f.nan, flagIf (s || y.isSignalling) flNV)
  | _, .nan s => (f.nan, flagIf s flNV)
  | .inf n, .inf n' => if n = n' then (f.signed n f.infBits, 0) else (f.nan, flNV)
  | .inf n, .num _ _ _ => (f.signed n f.infBits, 0)
  | .num _ _ _, .inf n => (f.signed n f.infBits, 0)
  | .num n1 m1 e1, .num n2 m2 e2 =>
    let (x, e) := sumNum n1 m1 e1 n2 m2 e2
    if x = 0 then (f.signed (zeroSign r n1 n2) 0, 0)
    else f.roundNum r false (decide (x < 0)) x.natAbs e

/-- An exact product; none where it is a NaN, with whether it is invalid (R132). -/
def mulVal (a b : FVal) : FVal × Bool :=
  match a, b with
  | .nan s, y => (.nan false, s || y.isSignalling)
  | _, .nan s => (.nan false, s)
  | .inf n, y => if y.isZero then (.nan false, true) else (.inf (n != y.neg), false)
  | x, .inf n => if x.isZero then (.nan false, true) else (.inf (x.neg != n), false)
  | .num n1 m1 e1, .num n2 m2 e2 => (.num (n1 != n2) (m1 * m2) (e1 + e2), false)

/-- A value that needs no more than rounding, as bits. -/
def Fmt.putVal (f : Fmt) (r : Rnd) (v : FVal) : Nat × Word :=
  match v with
  | .nan _ => (f.nan, 0)
  | .inf n => (f.signed n f.infBits, 0)
  | .num n m e => f.round r false n m e

/-- fadd, fsub, fmul and fma (R135). -/
def Fmt.add (f : Fmt) (r : Rnd) (a b : Nat) : Nat × Word := f.addVal r (f.read a) (f.read b)

def Fmt.sub (f : Fmt) (r : Rnd) (a b : Nat) : Nat × Word :=
  f.addVal r (f.read a) (f.read b).negate

def Fmt.mul (f : Fmt) (r : Rnd) (a b : Nat) : Nat × Word :=
  let (p, nv) := mulVal (f.read a) (f.read b)
  let (d, fl) := f.putVal r p
  (d, fl ||| flagIf nv flNV)

def Fmt.fma (f : Fmt) (r : Rnd) (a b c : Nat) : Nat × Word :=
  let (p, nv) := mulVal (f.read a) (f.read b)
  let (d, fl) := f.addVal r p (f.read c)
  (d, fl ||| flagIf nv flNV)

/-- The order of two values that are no NaN, zeros equal: as integers of one exponent. -/
def FVal.le (a b : FVal) : Bool :=
  match a, b with
  | .nan _, _ => false
  | _, .nan _ => false
  | .inf true, _ => true
  | _, .inf false => true
  | .inf false, _ => false
  | _, .inf true => false
  | .num n1 m1 e1, .num n2 m2 e2 => decide ((sumNum n1 m1 e1 (!n2) m2 e2).1 ≤ 0)

/-- a ≤ b with -0 below +0 (R137). -/
def FVal.leMin (a b : FVal) : Bool :=
  if a.isZero && b.isZero then a.neg || !b.neg else a.le b

/-- The fmin group (R137). -/
def Fmt.pick (f : Fmt) (greater number : Bool) (a b : Nat) : Nat × Word :=
  let x := f.read a
  let y := f.read b
  let nv := flagIf (x.isSignalling || y.isSignalling) flNV
  let d :=
    if x.isNan && y.isNan then f.nan
    else if x.isNan then (if number then b else f.nan)
    else if y.isNan then (if number then a else f.nan)
    else if x.leMin y != greater then a else b
  (d, nv)

/-- Whether a floating condition holds (R71, R138). -/
def condFloat (cond : Cond) (a b : FVal) : Bool :=
  let un := a.isNan || b.isNan
  let lt := !un && !b.le a
  let eq := !un && a.le b && b.le a
  match cond with
  | .eq => eq
  | .ne => !un && !eq
  | .lt => lt
  | .le => lt || eq
  | .gt => !un && !lt && !eq
  | .ge => !un && !lt
  | .un => un
  | .or => !un
  | .equ => un || eq
  | .neu => un || !eq
  | .ltu => un || lt
  | .leu => un || lt || eq
  | .gtu => un || (!lt && !eq)
  | .geu => un || !lt

/-- fcmp's flags (R138). -/
def condFlags (cond : Cond) (a b : FVal) : Word :=
  flagIf (match cond with
    | .lt | .le | .gt | .ge => a.isNan || b.isNan
    | _ => a.isSignalling || b.isSignalling) flNV

/-- The class mask of fclass (R140). -/
def Fmt.classOf (f : Fmt) (bits : Nat) : Nat :=
  match f.read bits with
  | .nan s => if s then 256 else 512
  | .inf n => if n then 1 else 128
  | .num n m e =>
    if m = 0 then (if n then 8 else 16)
    else if m < 2 ^ f.fbits && e == f.qmin then (if n then 4 else 32)
    else (if n then 2 else 64)

/-- The integral value a mode chooses of a finite value, and whether it differs (R141). -/
def integral (r : Rnd) (neg : Bool) (m : Nat) (e : Int) : Nat × Bool := roundAt r neg m e 0

/-- frnd (R141). -/
def Fmt.toIntegral (f : Fmt) (r : Rnd) (bits : Nat) : Nat × Word :=
  match f.read bits with
  | .nan s => (f.nan, flagIf s flNV)
  | .inf n => (f.signed n f.infBits, 0)
  | .num n m e => (((f.round .rn false n (integral r n m e).1 0).1), 0)

/-- A quotient of integers rounded once to FP32 (R189, R314); an exact zero takes the sign given. -/
def ratioF32 (n d : Int) (zeroNeg : Bool) : Nat :=
  if n = 0 then fp32.signed zeroNeg 0
  else
    let k := d.natAbs.log2 + 64
    let q := n.natAbs * 2 ^ k / d.natAbs
    let r := n.natAbs * 2 ^ k % d.natAbs
    (fp32.roundNum .rn false (decide ((n < 0) ≠ (d < 0))) (2 * q + if r = 0 then 0 else 1)
      (-(k : Int) - 1)).1

/-- A finite FP32 value as a multiple of the least subnormal; none for a NaN or an infinity. -/
def multipleF32 (v : Nat) : Option Int :=
  match fp32.read v with
  | .num n m e => some ((if n then -1 else 1) * (m * 2 ^ (e - fp32.qmin).toNat : Nat))
  | _ => none

end Sys2Proof.Machine
end

