-- ==== Sys2Proof/Machine/Float.lean ====
section
/-! DEFINITION. The floating arithmetic, compare and packed instructions (R134 to R141). -/

namespace Sys2Proof.Machine

/-- A result of a format in its register, with its flags (R128). -/
def fres (v : Nat × Word) : ARes := { value := ofNatQ v.1, flags := v.2 }

/-- A source's bits at a type (R128). -/
def fbitsOf (t : Ty) (v : Quad × Bool) : Nat := (v.1.setWidth (tyBits t)).toNat

/-- One floating source. -/
def flt1 (s : State) (gd : Guard) (t : Ty) (d a : Opnd) (f : Fmt → Nat → Nat × Word) :
    Host.Outcome State Fault Refusal :=
  runA s gd d t.width [(a, t.width)] fun _ v => fres (f (fmtOf t) (fbitsOf t (nth v 0)))

/-- Two floating sources. -/
def flt2 (s : State) (gd : Guard) (t : Ty) (d a b : Opnd) (f : Fmt → Nat → Nat → Nat × Word) :
    Host.Outcome State Fault Refusal :=
  runA s gd d t.width [(a, t.width), (b, t.width)] fun _ v =>
    fres (f (fmtOf t) (fbitsOf t (nth v 0)) (fbitsOf t (nth v 1)))

/-- Three floating sources. -/
def flt3 (s : State) (gd : Guard) (t : Ty) (d a b c : Opnd)
    (f : Fmt → Nat → Nat → Nat → Nat × Word) : Host.Outcome State Fault Refusal :=
  runA s gd d t.width [(a, t.width), (b, t.width), (c, t.width)] fun _ v =>
    fres (f (fmtOf t) (fbitsOf t (nth v 0)) (fbitsOf t (nth v 1)) (fbitsOf t (nth v 2)))

/-- Element i of a packed pair (R128). -/
def half (v : Quad × Bool) (i : Nat) : Nat := (lo32 v).toNat / 2 ^ (16 * i) % 2 ^ 16

/-- Two elements as a packed pair, with the OR of their flags (R136). -/
def packed (x y : Nat × Word) : ARes := fres (x.1 + 2 ^ 16 * y.1, x.2 ||| y.2)

/-- Two packed sources. -/
def pair2 (s : State) (gd : Guard) (t : Ty) (d a b : Opnd) (f : Fmt → Nat → Nat → Nat × Word) :
    Host.Outcome State Fault Refusal :=
  runA s gd d .w32 [(a, .w32), (b, .w32)] fun _ v =>
    packed (f (fmtOf t) (half (nth v 0) 0) (half (nth v 1) 0))
      (f (fmtOf t) (half (nth v 0) 1) (half (nth v 1) 1))

/-- fcmp over either source B (R138). -/
def fcmpOp (s : State) (gd : Guard) (t : Ty) (pd : Fin 7) (cond : Cond) (d a b : Opnd) :
    Host.Outcome State Fault Refusal :=
  runA s gd d .w32 [(a, t.width), (b, t.width)] fun _ v =>
    let x := (fmtOf t).read (fbitsOf t (nth v 0))
    let y := (fmtOf t).read (fbitsOf t (nth v 1))
    { predRes pd (condFloat cond x y) with flags := condFlags cond x y }

/-- The sign fsgn gives (R139). -/
def newSign (sop : Fin 3) (a b : Bool) : Bool :=
  match sop with
  | 0 => b
  | 1 => !b
  | 2 => a != b

/-- fadd (R135). -/
def execFadd (gd : Guard) (t : Ty) (rnd : Rnd) (d a b : Opnd) (s : State) :
    Host.Outcome State Fault Refusal :=
  flt2 s gd t d a b fun f x y => f.add rnd x y

/-- The immediate twin of fadd. -/
def execFaddImm (gd : Guard) (t : Ty) (rnd : Rnd) (d a : Opnd) (imm : BitVec 20) (s : State) :
    Host.Outcome State Fault Refusal :=
  flt2 s gd t d a (immFloat t imm) fun f x y => f.add rnd x y

/-- fsub (R135). -/
def execFsub (gd : Guard) (t : Ty) (rnd : Rnd) (d a b : Opnd) (s : State) :
    Host.Outcome State Fault Refusal :=
  flt2 s gd t d a b fun f x y => f.sub rnd x y

/-- The immediate twin of fsub. -/
def execFsubImm (gd : Guard) (t : Ty) (rnd : Rnd) (d a : Opnd) (imm : BitVec 20) (s : State) :
    Host.Outcome State Fault Refusal :=
  flt2 s gd t d a (immFloat t imm) fun f x y => f.sub rnd x y

/-- fmul (R135). -/
def execFmul (gd : Guard) (t : Ty) (rnd : Rnd) (d a b : Opnd) (s : State) :
    Host.Outcome State Fault Refusal :=
  flt2 s gd t d a b fun f x y => f.mul rnd x y

/-- The immediate twin of fmul. -/
def execFmulImm (gd : Guard) (t : Ty) (rnd : Rnd) (d a : Opnd) (imm : BitVec 20) (s : State) :
    Host.Outcome State Fault Refusal :=
  flt2 s gd t d a (immFloat t imm) fun f x y => f.mul rnd x y

/-- fma (R135). -/
def execFma (gd : Guard) (t : Ty) (rnd : Rnd) (d a b c : Opnd) (s : State) :
    Host.Outcome State Fault Refusal :=
  flt3 s gd t d a b c fun f x y z => f.fma rnd x y z

/-- fmin (R137). -/
def execFmin (gd : Guard) (t : Ty) (d a b : Opnd) (s : State) :
    Host.Outcome State Fault Refusal :=
  flt2 s gd t d a b fun f x y => f.pick false false x y

/-- The immediate twin of fmin. -/
def execFminImm (gd : Guard) (t : Ty) (d a : Opnd) (imm : BitVec 20) (s : State) :
    Host.Outcome State Fault Refusal :=
  flt2 s gd t d a (immFloat t imm) fun f x y => f.pick false false x y

/-- fmax (R137). -/
def execFmax (gd : Guard) (t : Ty) (d a b : Opnd) (s : State) :
    Host.Outcome State Fault Refusal :=
  flt2 s gd t d a b fun f x y => f.pick true false x y

/-- The immediate twin of fmax. -/
def execFmaxImm (gd : Guard) (t : Ty) (d a : Opnd) (imm : BitVec 20) (s : State) :
    Host.Outcome State Fault Refusal :=
  flt2 s gd t d a (immFloat t imm) fun f x y => f.pick true false x y

/-- fminm (R137). -/
def execFminm (gd : Guard) (t : Ty) (d a b : Opnd) (s : State) :
    Host.Outcome State Fault Refusal :=
  flt2 s gd t d a b fun f x y => f.pick false true x y

/-- The immediate twin of fminm. -/
def execFminmImm (gd : Guard) (t : Ty) (d a : Opnd) (imm : BitVec 20) (s : State) :
    Host.Outcome State Fault Refusal :=
  flt2 s gd t d a (immFloat t imm) fun f x y => f.pick false true x y

/-- fmaxm (R137). -/
def execFmaxm (gd : Guard) (t : Ty) (d a b : Opnd) (s : State) :
    Host.Outcome State Fault Refusal :=
  flt2 s gd t d a b fun f x y => f.pick true true x y

/-- The immediate twin of fmaxm. -/
def execFmaxmImm (gd : Guard) (t : Ty) (d a : Opnd) (imm : BitVec 20) (s : State) :
    Host.Outcome State Fault Refusal :=
  flt2 s gd t d a (immFloat t imm) fun f x y => f.pick true true x y

/-- fcmp (R138). -/
def execFcmp (gd : Guard) (t : Ty) (pd : Fin 7) (cond : Cond) (d a b : Opnd) (s : State) :
    Host.Outcome State Fault Refusal :=
  fcmpOp s gd t pd cond d a b

/-- The immediate twin of fcmp. -/
def execFcmpImm (gd : Guard) (t : Ty) (pd : Fin 7) (cond : Cond) (d a : Opnd) (imm : BitVec 20) (s : State) :
    Host.Outcome State Fault Refusal :=
  fcmpOp s gd t pd cond d a (immFloat t imm)

/-- fsgn (R139). -/
def execFsgn (gd : Guard) (t : Ty) (sop : Fin 3) (d a b : Opnd) (s : State) :
    Host.Outcome State Fault Refusal :=
  flt2 s gd t d a b fun f x y => (f.signed (newSign sop (f.neg x) (f.neg y)) (x % f.signBit), 0)

/-- fclass (R140). -/
def execFclass (gd : Guard) (t : Ty) (d a : Opnd) (s : State) :
    Host.Outcome State Fault Refusal :=
  flt1 s gd t d a fun f x => (f.classOf x, 0)

/-- frnd (R141). -/
def execFrnd (gd : Guard) (t : Ty) (rnd : Rnd) (d a : Opnd) (s : State) :
    Host.Outcome State Fault Refusal :=
  flt1 s gd t d a fun f x => f.toIntegral rnd x

/-- hadd2 (R136). -/
def execHadd2 (gd : Guard) (t : Ty) (rnd : Rnd) (d a b : Opnd) (s : State) :
    Host.Outcome State Fault Refusal :=
  pair2 s gd t d a b fun f x y => f.add rnd x y

/-- hmul2 (R136). -/
def execHmul2 (gd : Guard) (t : Ty) (rnd : Rnd) (d a b : Opnd) (s : State) :
    Host.Outcome State Fault Refusal :=
  pair2 s gd t d a b fun f x y => f.mul rnd x y

/-- hfma2 (R136). -/
def execHfma2 (gd : Guard) (t : Ty) (rnd : Rnd) (d a b c : Opnd) (s : State) :
    Host.Outcome State Fault Refusal :=
  runA s gd d .w32 [(a, .w32), (b, .w32), (c, .w32)] fun _ v =>
    packed ((fmtOf t).fma rnd (half (nth v 0) 0) (half (nth v 1) 0) (half (nth v 2) 0))
      ((fmtOf t).fma rnd (half (nth v 0) 1) (half (nth v 1) 1) (half (nth v 2) 1))

end Sys2Proof.Machine
end

