-- ==== Sys2Proof/Machine/Convert.lean ====
section
/-! DEFINITION. The conversions: fcvt, f2i and i2f (R144 to R147). -/

namespace Sys2Proof.Machine

/-- fcvt from one format to another (R145). -/
def convertFloat (fd fs : Fmt) (r : Rnd) (sat : Bool) (x : Nat) : Nat × Word :=
  match fs.read x with
  | .nan s => (fd.nan, flagIf s flNV)
  | .inf n =>
    if sat then (fd.signed n fd.maxFinite, 0)
    else if fd.hasInf then (fd.signed n fd.infBits, 0)
    else (fd.nan, flNV)
  | .num n m e => fd.round r sat n m e

/-- f2i (R146): the integer, to be written modulo the width, and the flags. -/
def floatToInt (t : Ty) (fs : Fmt) (r : Rnd) (sat : Bool) (x : Nat) : Int × Word :=
  match fs.read x with
  | .nan _ => (0, flNV)
  | .inf n => (if sat then (if n then tyLo t else tyHi t) else 0, flNV)
  | .num n m e =>
    let (k, nx) := integral r n m e
    let v : Int := if n then -(k : Int) else k
    if v < tyLo t then (if sat then tyLo t else v, flNV)
    else if tyHi t < v then (if sat then tyHi t else v, flNV)
    else (v, flagIf nx flNX)

/-- i2f (R147). -/
def intToFloat (fd : Fmt) (r : Rnd) (sat : Bool) (v : Int) : Nat × Word :=
  fd.round r sat (decide (v < 0)) v.natAbs 0

/-- fcvt (R145). -/
def execFcvt (gd : Guard) (sat : Bool) (rnd : Rnd) (t ts : Ty) (d a : Opnd) (s : State) :
    Host.Outcome State Fault Refusal :=
  runA s gd d t.width [(a, ts.width)] fun _ v =>
    fres (convertFloat (fmtOf t) (fmtOf ts) rnd sat (fbitsOf ts (nth v 0)))

/-- f2i (R146). -/
def execF2i (gd : Guard) (sat : Bool) (rnd : Rnd) (t ts : Ty) (d a : Opnd) (s : State) :
    Host.Outcome State Fault Refusal :=
  runA s gd d t.width [(a, ts.width)] fun _ v =>
    let x := floatToInt t (fmtOf ts) rnd sat (fbitsOf ts (nth v 0))
    { value := putInt t x.1, flags := x.2 }

/-- i2f (R147). -/
def execI2f (gd : Guard) (sat : Bool) (rnd : Rnd) (t ts : Ty) (d a : Opnd) (s : State) :
    Host.Outcome State Fault Refusal :=
  runA s gd d t.width [(a, ts.width)] fun _ v =>
    fres (intToFloat (fmtOf t) rnd sat (asInt ts (nth v 0)))

end Sys2Proof.Machine
end

