-- ==== Sys2Proof/Machine/Fetch.lean ====
section
/-! DEFINITION. Instruction fetch and the decoded-op cache (R47, R48, R226, R248). -/

namespace Sys2Proof.Machine

/-- Bytes as 64-bit words (R6). -/
def wordsOf : Nat → List Byte → List DWord
  | 0, _ => []
  | n + 1, bs => BitVec.ofNat 64 (leNat (bs.take 8)) :: wordsOf n (bs.drop 8)

/-- An instruction fetch of a range; a poisoned byte is consumed (R193). -/
def State.fetchBytes (s : State) (g : Agent) (a n : Nat) : Except Stop (State × List Byte) :=
  if 2 ^ 55 < a + n then .error (.trap .fetchFault (dw (max a (2 ^ 55))))
  else
    match s.readGlobal g .fetch a n with
    | .error e => .error e
    | .ok (s1, bs, none) => .ok (s1, bs)
    | .ok (_, _, some x) => .error (.trap .uncorrectable (dw x))

/-- The words of the clause at an address, its header first, fetched whole (R48). -/
def State.fetchClause (s : State) (g : Agent) (a : Nat) : Except Stop (State × List DWord) :=
  match s.fetchBytes g a 8 with
  | .error e => .error e
  | .ok (s1, h) =>
    let n := clauseBytes (BitVec.ofNat 64 (leNat h))
    match s1.fetchBytes g a n with
    | .error e => .error e
    | .ok (s2, bs) => .ok (s2, wordsOf (n / 8) bs)

/-- The decoded clause of a core for a context and decode key (R47). -/
def Core.dopAt (k : Core) (ctx : Nat) (key : DecodeKey) (a : DWord) : Option DopEntry :=
  k.dop.find? fun e => e.ctx == ctx && e.key == key && e.addr == a

/-- A clause put into a core's decoded-op cache. -/
def State.fillDop (s : State) (d : DieId) (core : Nat) (e : DopEntry) : State :=
  s.modCore d core fun k => { k with dop := (k.dop ++ [e]).drop (k.dop.length + 1 - Config.dopEntries) }

/-- The decoded-op entries of a context dropped from a core. -/
def State.dropDop (s : State) (d : DieId) (core ctx : Nat) : State :=
  s.modCore d core fun k => { k with dop := k.dop.filter fun e => e.ctx != ctx }

/-- The cores of a thread's bay: its own in a launch without bays (R248). -/
def State.bayCores (s : State) (c : Cur) : List Nat :=
  if c.cv.bayCount = 0 then [c.r.core]
  else (s.coves.filter fun e => e.1.die == c.r.die && e.2.launch == c.cv.launch
    && e.2.index / c.cv.bayCount == c.cv.index / c.cv.bayCount).map (·.1.core)

/-- The cores that hold any state of a die. -/
def State.knownCores (s : State) (d : DieId) : List Nat := (s.die d).cores.map (·.1)

/-- The cores of a scope instance, for icinv and tlbinv (R248). -/
def State.scopeCores (s : State) (c : Cur) (scope : Scope) : List (DieId × Nat) :=
  let own := (s.knownCores c.r.die).map fun k => (c.r.die, k)
  match scope with
  | .thr | .cove => [(c.r.die, c.r.core)]
  | .bay => (s.bayCores c).map fun k => (c.r.die, k)
  | .die => own
  | .sys =>
    if s.link.mode = .paired then
      own ++ (s.knownCores (otherDie c.r.die)).map fun k => (otherDie c.r.die, k)
    else own

end Sys2Proof.Machine
end

