-- ==== Sys2Proof/Machine/Keys.lean ====
section
/-! DEFINITION. Key strands (R33 to R37), key writes (R124, R125) and the key-class instructions (R122,
R123). kmerge waits with the rendezvous instructions. -/

namespace Sys2Proof.Machine

/-- A strand of zero keys. -/
def Strand.zero : Strand := ⟨List.replicate 64 0, 0, false, none, none⟩

/-- A key file apart from the tree of splits. -/
def Strand.alone (k : Strand) : Strand := { k with parent := none, split := none }

/-- Equal values, tags and poison (R36). -/
def Strand.same (a b : Strand) : Bool :=
  a.keys == b.keys && a.tags == b.tags && a.poison == b.poison

/-- One key register written; the quad's tag clears, the poison stays (R90, R125). -/
def Strand.write (k : Strand) (n : Nat) (v : Word) : Strand :=
  { k with keys := k.keys.set n v, tags := bitPut k.tags (n / 4) false }

/-- The lanes of a crew that are active, with the half each belongs to (R43). -/
structure Lanes where
  act : List Nat
  c16 : Bool
  deriving DecidableEq, Repr

def Lanes.half (l : Lanes) (lane : Nat) : Nat := if l.c16 then lane / 16 else 0

/-- The active lanes of a half. -/
def Lanes.ofHalf (l : Lanes) (h : Nat) : List Nat := l.act.filter fun x => l.half x == h

/-- The active lanes that point to a strand. -/
def Crew.pointing (cr : Crew) (l : Lanes) (i : Nat) : List Nat :=
  l.act.filter fun x => !cr.serial.getD (l.half x) false && cr.ptr.getD x 0 == i

/-- Strands no member points to are freed; a child of a freed parent keeps its values and can no
longer be joined (R35). -/
def Crew.free (cr : Crew) (l : Lanes) : Crew :=
  let live := (List.range cr.strands.length).map fun i =>
    if (cr.pointing l i).isEmpty then none else cr.strands.getD i none
  { cr with strands := live.map fun k => k.map fun x => { x with
      parent := x.parent.filter fun p => (live.getD p none).isSome } }

/-- Strands live. -/
def Crew.live (cr : Crew) : Nat := (cr.strands.filter Option.isSome).length

/-- The strand of a lane outside serial key mode. -/
def Crew.strandAt (cr : Crew) (lane : Nat) : Strand :=
  (cr.strands.getD (cr.ptr.getD lane 0) none).getD Strand.zero

/-- The lanes' pointers moved to a strand. -/
def Crew.point (cr : Crew) (lanes : List Nat) (i : Nat) : Crew :=
  { cr with ptr := (List.range 32).map fun x => if lanes.contains x then i else cr.ptr.getD x 0 }

/-- A strand put into the first free place: its index and the crew. -/
def Crew.place (cr : Crew) (k : Strand) : Nat × Crew :=
  match cr.strands.findIdx? Option.isNone with
  | some i => (i, { cr with strands := cr.strands.set i (some k) })
  | none => (cr.strands.length, { cr with strands := cr.strands ++ [some k] })

/-- Every spilled key file of a crew, by lane. -/
def Crew.files (cr : Crew) : List Strand := (List.range 32).map fun x => cr.spilled.getD x Strand.zero

/-- A half of a crew put into serial key mode (R37). -/
def Crew.goSerial (cr : Crew) (l : Lanes) (h : Nat) : Crew :=
  Crew.free { cr with
    spilled := (List.range 32).map fun x =>
      if (l.ofHalf h).contains x then (cr.strandAt x).alone else cr.spilled.getD x Strand.zero
    serial := (List.range 2).map fun i => i == h || cr.serial.getD i false } l

/-- One group's key write under R34: in place, a join of the child that this write split off, or a
split; a fifth strand puts the half into serial key mode. -/
def Crew.writeGroup (cr : Crew) (l : Lanes) (group : List Nat) (where' : DWord × Nat)
    (f : Strand → Strand) : Crew :=
  match group with
  | [] => cr
  | lane :: _ =>
    let i := cr.ptr.getD lane 0
    let k := cr.strandAt lane
    let isChild (x : Option Strand) : Bool := match x with
      | some y => y.parent == some i
      | none => false
    if ((cr.pointing l i).all fun x => group.contains x) && !cr.strands.any isChild then
      { cr with strands := cr.strands.set i (some (f k).alone) }
    else
      match cr.strands.findIdx? fun x => isChild x && (x.bind (·.split)) == some where' with
      | some j => (cr.point group j).free l
      | none =>
        let (j, cr1) := cr.place { f k with parent := some i, split := some where' }
        let cr2 := (cr1.point group j).free l
        if 4 < cr2.live then cr2.goSerial l (l.half lane) else cr2

/-- A member's write of its own spilled keys in serial key mode (R124). -/
def Crew.writeSpilled (cr : Crew) (lane : Nat) (f : Strand → Strand) : Crew :=
  { cr with spilled := cr.files.set lane (f (cr.files.getD lane Strand.zero)) }

/-- The lanes that share the first lane's strand, and the rest. -/
def Crew.groupOf (cr : Crew) (l : Lanes) (lane : Nat) (rest : List Nat) : List Nat × List Nat :=
  rest.partition fun x => cr.ptr.getD x 0 == cr.ptr.getD lane 0 && l.half x == l.half lane

/-- A key write of several members (R124): one group for each strand in ascending order of lane, or
each member by itself in serial key mode. -/
def Crew.writeKeys (l : Lanes) (where' : DWord × Nat) (f : Nat → Strand → Strand) :
    Nat → List Nat → Crew → Crew
  | 0, _, cr => cr
  | _ + 1, [], cr => cr
  | fuel + 1, lane :: rest, cr =>
    if cr.serial.getD (l.half lane) false then
      Crew.writeKeys l where' f fuel rest (cr.writeSpilled lane (f lane))
    else
      let (same, others) := cr.groupOf l lane rest
      Crew.writeKeys l where' f fuel others (cr.writeGroup l (lane :: same) where' (f lane))

/-- The key files of a half, one for each distinct value (R37). -/
def distinctFiles : List Strand → List Strand
  | [] => []
  | k :: ks => if (distinctFiles ks).any k.same then distinctFiles ks else k :: distinctFiles ks

/-- A half that leaves serial key mode with its distinct files as strands. -/
def Crew.reload (cr : Crew) (l : Lanes) (h : Nat) (files : List Strand) : Crew :=
  let start : Crew := { cr with
    serial := (List.range 2).map fun i => i != h && cr.serial.getD i false }
  files.foldl (fun c k =>
    let (j, c1) := c.place k.alone
    c1.point ((l.ofHalf h).filter fun x => k.same (cr.files.getD x Strand.zero)) j) start

/-- The strands merged at a full-crew rendezvous of a half (R36, R37). -/
def Crew.meet (cr : Crew) (l : Lanes) (h : Nat) : Crew :=
  if cr.serial.getD h false then
    let files := distinctFiles ((l.ofHalf h).map fun x => cr.files.getD x Strand.zero)
    if files.length + cr.live ≤ 4 then (cr.reload l h files).free l else cr
  else
    let lowest (x : Nat) : Nat :=
      ((l.ofHalf h).map fun y => cr.ptr.getD y 0).foldr
        (fun i acc => if ((cr.strands.getD i none).getD Strand.zero).same (cr.strandAt x) then
          min i acc else acc) (cr.ptr.getD x 0)
    let cr1 : Crew := { cr with
      ptr := (List.range 32).map fun x =>
        if (l.ofHalf h).contains x then lowest x else cr.ptr.getD x 0 }
    let cr2 := cr1.free l
    let mine := (l.ofHalf h).map fun x => cr2.ptr.getD x 0
    { cr2 with strands := (List.range cr2.strands.length).map fun i =>
        (cr2.strands.getD i none).map fun k => if mine.contains i then k.alone else k }

/-- One key file given to members. -/
def Crew.setFiles (cr : Crew) (lanes : List Nat) (k : Strand) : Crew :=
  { cr with
    spilled := (List.range 32).map fun x =>
      if lanes.contains x then k else cr.files.getD x Strand.zero }

/-- A strand given to members with other strands: the tag of a quad clears where one of them held a
different tag (R90). -/
def Strand.givenTo (k : Strand) (ks : List Strand) : Strand :=
  { k with tags := ks.foldl (fun t x => t &&& ~~~(k.tags ^^^ x.tags)) k.tags }

/-- kmerge's release for a half whose lowest member is a lane (R126): its values, its poison, and its tags
but those that R90 clears (log 93). -/
def Crew.adopt (cr : Crew) (l : Lanes) (h lane : Nat) : Crew :=
  if cr.serial.getD h false then
    let k := ((cr.files.getD lane Strand.zero).alone).givenTo
      ((l.ofHalf h).map fun x => cr.files.getD x Strand.zero)
    let cr1 := cr.setFiles (l.ofHalf h) k
    if cr.live ≤ 3 then (cr1.reload l h [k]).free l else cr1
  else
    let i := cr.ptr.getD lane 0
    let old := (l.ofHalf h).map cr.strandAt
    let cr1 := (cr.point (l.ofHalf h) i).free l
    { cr1 with strands := cr1.strands.set i ((cr1.strands.getD i none).map fun k => k.alone.givenTo old) }

/-- The active lanes of a crew in ascending order of virtual lane. -/
def State.lanesOf (s : State) (cv : CoveRef) (crew : Nat) : Lanes :=
  let ts := ((s.crewThreads cv crew).filter fun e => e.2.active).mergeSort
    fun x y => decide (x.2.vlane ≤ y.2.vlane)
  ⟨ts.map fun e => e.1.lane, ((s.cove? cv).map fun c => c.isC16 && !c.isProtected).getD false⟩

/-- Whether any half of a crew is in serial key mode. -/
def Crew.isSerial (cr : Crew) : Bool := cr.serial.any id

/-- The spill area or block of a crew that has entered or left serial key mode (R37, R324). -/
def State.assignSpill (s : State) (cv : CoveRef) (crew : Nat) : State :=
  match s.crew? cv crew, s.cove? cv with
  | some cr, some c =>
    if cr.isSerial then
      if c.spillUser = some crew ∨ cr.block.isSome then s
      else if c.spillUser.isNone then s.modCove cv fun c => { c with spillUser := some crew }
      else
        let used := (s.crews.filter fun e => e.1.1 == cv).filterMap fun e => e.2.block
        s.modCrew cv crew fun x => { x with block := c.spillBlocks.find? fun b => !used.contains b }
    else
      (s.modCove cv fun c => { c with
        spillUser := if c.spillUser = some crew then none else c.spillUser }).modCrew cv crew
          fun x => { x with block := none }
  | _, _ => s

/-- The key file of a lane as it would be spilled. -/
def Crew.fileOf (cr : Crew) (lane half : Nat) : Strand :=
  if cr.serial.getD half false then cr.files.getD lane Strand.zero else cr.strandAt lane

/-- The bytes of a spill area or block (R37, R324): 32 members of 64 keys. -/
def spillBytesOf (f : Nat → Strand) : List Byte :=
  (List.range 32).flatMap fun lane => (f lane).keys.flatMap fun v => leBytes 4 v.toNat

/-- The tags of its chunks. -/
def spillTagsOf (f : Nat → Strand) : List Bool :=
  (List.range 32).flatMap fun lane => (List.range 16).map fun q => (f lane).tags.getLsbD q

/-- The address of a spill block of a context (R324). -/
def State.spillAddress (s : State) (x : Context) (ctx block : Nat) : Except Stop Nat :=
  match s.agentRead (frontAgent x.die ctx) .read (x.saveBase + 0x1008) 8 with
  | .ok (_, bs, _, _) => .ok (x.saveBase + leNat bs % 2 ^ 48 + 8192 * block)
  | .error e => .error e

/-- A spill block that the tables do not let the core write is an imprecise fault of the crew's first thread
(log 104); a granule in transfer has the block written when the crew's keys next change or are recorded. -/
def State.spillLost (s : State) (cv : CoveRef) (n a : Nat) : Stop → State
  | .trap cause _ =>
    match (s.coveThreads cv).find? fun e => e.2.crew == n with
    | some e => s.postDue e.1 ⟨2, cause, dw a, e.2.pc, 0, s.link.nextId, none⟩
    | none => s
  | _ => s

/-- The key values of a crew in serial key mode written to its spill area, or to its block of the save
area; nothing of any other crew (R37, R324). -/
def State.spillCrew (s : State) (cv : CoveRef) (c : Cove) (n : Nat) (cr : Crew) : State :=
  if !cr.isSerial then s
  else
    let f (lane : Nat) : Strand := cr.fileOf lane (logicalHalf c lane)
    match cr.block with
    | none =>
      let a := c.scratchBase + c.declared
      if c.spillUser = some n then s.scratchSet cv.die cv.core a (spillBytesOf f) (spillTagsOf f) else s
    | some b =>
      match s.ctx? c.ctx with
      | none => s
      | some x =>
        match s.spillAddress x c.ctx b with
        | .error e => s.spillLost cv n (x.saveBase + 0x1008) e
        | .ok a =>
          match s.agentWrite (frontAgent x.die c.ctx) a (spillBytesOf f) (spillTagsOf f) with
          | .ok s1 => s1
          | .error e => s.spillLost cv n a e

/-- The latent errors of strands that a crew no longer has, or has only now, leave with the words that
held them (R91). -/
def State.freshStrands (s : State) (cv : CoveRef) (crew : Nat) (before after : Crew) : State :=
  { s with upsets := s.upsets.filter fun u => match u with
      | .strand c n k _ => !(c == cv && n == crew
          && ((before.strands.getD k none).isNone || (after.strands.getD k none).isNone))
      | _ => true }

/-- The logical crews of a crew that have entered serial key mode (R392). -/
def serialEntered (before after : Crew) : Nat :=
  ((List.range 2).filter fun h => after.serial.getD h false && !before.serial.getD h false).length

/-- A crew changed: its counters of R392 kept, its spill area assigned, and the key values of one in serial
key mode written there. -/
def State.updateCrew (s : State) (cv : CoveRef) (crew : Nat) (f : Crew → Crew) : State :=
  match s.crew? cv crew, s.cove? cv with
  | some old, some c =>
    let s1 := ((s.modCrew cv crew f).freshStrands cv crew old (f old)).assignSpill cv crew
    let n := serialEntered old (f old)
    let s2 := if n = 0 then s1
      else s1.count cv.die cv.core c.ctx fun k => { k with serialEntries := k.serialEntries + dw n }
    match s2.crew? cv crew, s2.cove? cv with
    | some cr, some c => s2.spillCrew cv c crew cr
    | _, _ => s2
  | _, _ => s

/-- One key write of members of a crew. The strands that it copies or writes in place are read: theirs, and
where it brings on serial key mode every strand (R91, R37). -/
def State.keyWrite (s : State) (cv : CoveRef) (crew : Nat) (lanes : List Nat) (where' : DWord × Nat)
    (f : Nat → Strand → Strand) : State :=
  let l := s.lanesOf cv crew
  let s1 := s.touchLanes cv crew lanes
  let enters (cr : Crew) : Bool := serialEntered cr (Crew.writeKeys l where' f 33 lanes cr) != 0
  let s2 := if ((s1.crew? cv crew).map enters).getD false then s1.touchLanes cv crew l.act else s1
  s2.updateCrew cv crew (Crew.writeKeys l where' f 33 lanes)

/-- The members of the current thread's crew that have the slot before them, in ascending order of
virtual lane; of equal virtual lanes of two logical crews the lower physical lane comes first (log 116). -/
def State.issuedCrew (s : State) (c : Cur) : List (TRef × Thread) :=
  (c.iss.todo.filterMap fun r => (s.thread? r).bind fun t =>
    if t.cove = c.t.cove ∧ t.crew = c.t.crew then some (r, t) else none).mergeSort
      fun x y => decide (x.2.vlane ≤ y.2.vlane)

/-- Members whose turn at the slot another has taken for them. -/
def State.skipRest (s : State) (rs : List TRef) (r : TRef) : State :=
  { s with issue := s.issue.map fun (i : Issue) =>
      { i with todo := i.todo.filter fun x => x == r || !rs.contains x } }

/-- What the sources of a key-class instruction read for one member of the crew. -/
def State.keySources (s : State) (c : Cur) (srcs : List Opnd) (m : TRef × Thread) :
    Except Stop (List Word) :=
  (readAll s { c with r := m.1, t := m.2 } (srcs.map fun x => (x, .w32))).map (·.map lo32)

/-- The value of a lane in a list of members' values. -/
def laneValue (vals : List (TRef × Word)) (lane : Nat) : Word :=
  ((vals.find? fun v => v.1.lane == lane).map Prod.snd).getD 0

/-- One key write of the members with the values computed for them (R124), and the producer value of
each (R58). -/
def State.keyResults (s : State) (c : Cur) (d : Opnd) (vals : List (TRef × Word)) : State :=
  let s1 := match d with
    | .k n => s.keyWrite c.t.cove c.t.crew (vals.map fun (v : TRef × Word) => v.1.lane)
        (c.iss.addr, c.iss.slot) fun lane k => k.write n.val (laneValue vals lane)
    | _ => s
  vals.foldl (fun (s : State) (v : TRef × Word) =>
    s.modThread v.1 fun t => t.produce .w32 (v.2.setWidth 128) false) s1

/-- A key-class instruction (R33, R122, R124): its first member of a crew performs it for every member
of the crew that has it before it, once per strand; a member on a poisoned strand that reads a key
traps. -/
def keyOp (s : State) (d : Opnd) (srcs : List Opnd) (f : List Word → Word) :
    Host.Outcome State Fault Refusal :=
  withCur s fun c0 =>
    let names := srcs.flatMap fun x => x.names .w32
    let s1 := (s.issuedCrew c0).foldl (fun s m => s.touch m.1 names) s
    withCur s1 fun c =>
      let ms := s1.issuedCrew c
      let good := ms.filterMap fun m => (s1.keySources c srcs m).toOption.map fun v => (m.1, f v)
      let bad := ms.filter fun m => !(s1.keySources c srcs m).isOk
      let s2 := (s1.keyResults c d good).skipRest (ms.map Prod.fst) c.r
      .next (bad.foldl (fun s m => s.trapThread m.1
        ⟨.uncorrectable, s.freeTval, c.iss.addr, c.iss.slot, 0, 0, none⟩) s2)

/-- Two key sources. -/
def key2 (s : State) (d a b : Opnd) (f : Nat → Nat → Nat) : Host.Outcome State Fault Refusal :=
  keyOp s d [a, b] fun v => BitVec.ofNat 32 (f (v.getD 0 0).toNat (v.getD 1 0).toNat)

/-- kcmp over either source B. -/
def kcmpOp (s : State) (t : Ty) (cond : Cond) (d a b : Opnd) : Host.Outcome State Fault Refusal :=
  keyOp s d [a, b] fun v =>
    let x (w : Word) : Int := if tySigned t then w.toInt else (w.toNat : Int)
    if condInt cond (x (v.getD 0 0)) (x (v.getD 1 0)) then 1 else 0

/-- kmovi over either source B (R119, R124). A discarded D reads 0 (log 95). -/
def kmoviOp (s : State) (pos : Bool) (d b : Opnd) : Host.Outcome State Fault Refusal :=
  keyOp s d [if pos then d else .none, b] fun v =>
    BitVec.ofNat 32 (moveImm 32 (if pos then 12 else 0) (v.getD 0 0).toNat (v.getD 1 0).toNat)

/-- kadd (R122). -/
def execKadd (d a b : Opnd) (s : State) :
    Host.Outcome State Fault Refusal :=
  key2 s d a b fun x y => x + y

/-- The immediate twin of kadd. -/
def execKaddImm (d a : Opnd) (imm : BitVec 20) (s : State) :
    Host.Outcome State Fault Refusal :=
  key2 s d a (immInt imm) fun x y => x + y

/-- ksub (R122). -/
def execKsub (d a b : Opnd) (s : State) :
    Host.Outcome State Fault Refusal :=
  key2 s d a b fun x y => x + 2 ^ 32 - y

/-- The immediate twin of ksub. -/
def execKsubImm (d a : Opnd) (imm : BitVec 20) (s : State) :
    Host.Outcome State Fault Refusal :=
  key2 s d a (immInt imm) fun x y => x + 2 ^ 32 - y

/-- kmul (R122). -/
def execKmul (d a b : Opnd) (s : State) :
    Host.Outcome State Fault Refusal :=
  key2 s d a b fun x y => x * y

/-- The immediate twin of kmul. -/
def execKmulImm (d a : Opnd) (imm : BitVec 20) (s : State) :
    Host.Outcome State Fault Refusal :=
  key2 s d a (immInt imm) fun x y => x * y

/-- kand (R122). -/
def execKand (d a b : Opnd) (s : State) :
    Host.Outcome State Fault Refusal :=
  key2 s d a b fun x y => x &&& y

/-- The immediate twin of kand. -/
def execKandImm (d a : Opnd) (imm : BitVec 20) (s : State) :
    Host.Outcome State Fault Refusal :=
  key2 s d a (immInt imm) fun x y => x &&& y

/-- kor (R122). -/
def execKor (d a b : Opnd) (s : State) :
    Host.Outcome State Fault Refusal :=
  key2 s d a b fun x y => x ||| y

/-- The immediate twin of kor. -/
def execKorImm (d a : Opnd) (imm : BitVec 20) (s : State) :
    Host.Outcome State Fault Refusal :=
  key2 s d a (immInt imm) fun x y => x ||| y

/-- kxor (R122). -/
def execKxor (d a b : Opnd) (s : State) :
    Host.Outcome State Fault Refusal :=
  key2 s d a b fun x y => x ^^^ y

/-- The immediate twin of kxor. -/
def execKxorImm (d a : Opnd) (imm : BitVec 20) (s : State) :
    Host.Outcome State Fault Refusal :=
  key2 s d a (immInt imm) fun x y => x ^^^ y

/-- kshl (R122). -/
def execKshl (d a b : Opnd) (s : State) :
    Host.Outcome State Fault Refusal :=
  key2 s d a b fun x y => shlBits 32 x y

/-- The immediate twin of kshl. -/
def execKshlImm (d a : Opnd) (imm : BitVec 20) (s : State) :
    Host.Outcome State Fault Refusal :=
  key2 s d a (immInt imm) fun x y => shlBits 32 x y

/-- kshr (R122). -/
def execKshr (d a b : Opnd) (s : State) :
    Host.Outcome State Fault Refusal :=
  key2 s d a b fun x y => shrBits 32 x y

/-- The immediate twin of kshr. -/
def execKshrImm (d a : Opnd) (imm : BitVec 20) (s : State) :
    Host.Outcome State Fault Refusal :=
  key2 s d a (immInt imm) fun x y => shrBits 32 x y

/-- kmov (R122). -/
def execKmov (d a : Opnd) (s : State) :
    Host.Outcome State Fault Refusal :=
  keyOp s d [a] fun v => v.getD 0 0

/-- kmovi (R122). -/
def execKmovi (pos : Bool) (d b : Opnd) (s : State) :
    Host.Outcome State Fault Refusal :=
  kmoviOp s pos d b

/-- The immediate twin of kmovi. -/
def execKmoviImm (pos : Bool) (d : Opnd) (imm : BitVec 20) (s : State) :
    Host.Outcome State Fault Refusal :=
  kmoviOp s pos d (immInt imm)

/-- kcmp (R122). -/
def execKcmp (t : Ty) (cond : Cond) (d a b : Opnd) (s : State) :
    Host.Outcome State Fault Refusal :=
  kcmpOp s t cond d a b

/-- The immediate twin of kcmp. -/
def execKcmpImm (t : Ty) (cond : Cond) (d a : Opnd) (imm : BitVec 20) (s : State) :
    Host.Outcome State Fault Refusal :=
  kcmpOp s t cond d a (immInt imm)

/-- klea (R122). -/
def execKlea (sh : Fin 8) (d a b : Opnd) (s : State) :
    Host.Outcome State Fault Refusal :=
  key2 s d a b fun x y => x + y * 2 ^ sh.val

/-- The immediate twin of klea. -/
def execKleaImm (sh : Fin 8) (d a : Opnd) (imm : BitVec 20) (s : State) :
    Host.Outcome State Fault Refusal :=
  key2 s d a (immInt imm) fun x y => x + y * 2 ^ sh.val

end Sys2Proof.Machine
end

