-- ==== Sys2Proof/Machine/Cross.lean ====
section
/-! DEFINITION. Rendezvous (R173 to R178): arrivals, their groups, and what a complete group gives its
members; the cross-lane instructions (R179 to R183) and kmerge (R126). -/

namespace Sys2Proof.Machine

/-- The three kinds of latch (R174, R126, R264). -/
inductive LatchKind where
  | cross | merge | gang
  deriving DecidableEq, Repr

/-- The kind of latch that an instruction arrives at. -/
def Latch.kind (l : Latch) : LatchKind :=
  match l.instr with
  | .kmerge => .merge
  | .mma _ _ _ _ _ => .gang
  | .mmaSp _ _ _ _ _ => .gang
  | .mmaSc _ _ _ _ _ => .gang
  | _ => .cross

/-- One thread's arrival. -/
structure Arr where
  r : TRef
  t : Thread
  l : Latch
  deriving DecidableEq, Repr

/-- The arrivals of a cove whose instructions are known. -/
def State.arrivals (s : State) (cv : CoveRef) : List Arr :=
  (s.coveThreads cv).flatMap fun e => (e.2.latches.filter fun l => l.raw.isEmpty).map fun l => ⟨e.1, e.2, l⟩

/-- The parity that parts the visible lanes' groups from the shadows' (R178). -/
def Cove.parity (c : Cove) (lane : Nat) : Nat := if c.isProtected then lane % 2 else 0

/-- Whether two arrivals belong to one group (R174, R178, R126, R264). -/
def sameGroup (c : Cove) (a b : Arr) : Bool :=
  match a.l.kind, b.l.kind with
  | .cross, .cross =>
    a.t.crew == b.t.crew && logicalHalf c a.r.lane == logicalHalf c b.r.lane
      && c.parity a.r.lane == c.parity b.r.lane && a.l.clause == b.l.clause && a.l.slot == b.l.slot
  | .merge, .merge => a.t.crew == b.t.crew && logicalHalf c a.r.lane == logicalHalf c b.r.lane
  | .gang, .gang =>
    c.parity a.r.lane == c.parity b.r.lane && a.l.clause == b.l.clause && a.l.slot == b.l.slot
      && a.l.mask == b.l.mask
  | _, _ => false

/-- The arrivals of the group of one of them. -/
def groupOf (c : Cove) (all : List Arr) (a : Arr) : List Arr := all.filter (sameGroup c a)

/-- Whether a thread is a member that the group of an arrival waits for while it is active (R175, R126,
R264). -/
def memberOf (c : Cove) (a : Arr) (r : TRef) (t : Thread) : Bool :=
  match a.l.kind with
  | .cross =>
    t.crew == a.t.crew && logicalHalf c r.lane == logicalHalf c a.r.lane
      && c.parity r.lane == c.parity a.r.lane && a.l.mask.testBit t.vlane
  | .merge => t.crew == a.t.crew && logicalHalf c r.lane == logicalHalf c a.r.lane
  | .gang => c.parity r.lane == c.parity a.r.lane && a.l.mask.testBit (crewNumber c t.crew r.lane)

/-- The active members a group waits for. -/
def State.needed (s : State) (c : Cove) (a : Arr) : List (TRef × Thread) :=
  (s.coveThreads a.t.cove).filter fun e => e.2.active && memberOf c a e.1 e.2

/-- A member has ended the clause in which it arrived (R174). -/
def Thread.atLatch (t : Thread) : Bool := !t.latches.isEmpty && t.status != .ready && !t.held

/-- A member is held by its latches and by nothing else: it neither naps nor waits (R176). -/
def Thread.heldThere (t : Thread) : Bool := t.atLatch && t.status == .latched

/-- An arrival's latch taken from its thread, which is released once it has none left; then the trap it
was entering, or a fault due, is taken (R174, R176). -/
def State.unlatch (s : State) (r : TRef) (l : Latch) : State :=
  let s1 := s.modThread r fun t => { t with latches := t.latches.erase l }
  match s1.thread? r with
  | none => s1
  | some t =>
    if !t.latches.isEmpty then s1
    else if t.status = .latched then s1.makeReady r
    else s1.modThread r Thread.wakeHwait

/-- GANG_MISMATCH in one arrived member (R176, R266): kind 1, its latched mask or gang as TVAL, and the
arrival withdrawn. -/
def State.mismatch (s : State) (a : Arr) : State :=
  let tval := if a.l.kind = .merge then 0 else dw a.l.mask
  (s.postOne a.r ⟨1, .gangMismatch, tval, a.l.clause, a.l.slot, 0, none⟩ true).unlatch a.r a.l

/-- The destination of a cross-lane instruction or of rast. -/
def crossDest : Instr → Opnd
  | .xpull _ _ d _ _ _ => d
  | .xpullImm _ _ d _ _ => d
  | .xpush _ _ _ d _ _ _ => d
  | .xvote _ _ d _ _ => d
  | .xfirst _ _ d _ _ => d
  | .xred _ _ _ d _ _ => d
  | .xscan _ _ _ _ d _ _ => d
  | .xmatch _ _ d _ _ => d
  | .rast _ d _ _ _ => d
  | _ => .none

/-- The groups that a cross-lane instruction writes, each at an offset from D (R179 to R182). -/
def crossGroups : Instr → List (Nat × Width)
  | .xpull _ t _ _ _ _ => [(0, t.width)]
  | .xpullImm _ t _ _ _ => [(0, t.width)]
  | .xpush _ t cm _ _ _ _ => (0, t.width) :: if cm then [(t.width.regs, .w32)] else []
  | .xfirst _ t _ _ _ => [(0, t.width)]
  | .rast _ _ _ _ _ => [(0, .w128)]
  | _ => [(0, .w32)]

/-- The groups that the release of an arrival may write read as before the clause until it ends (R60). -/
def Thread.hideCross (t : Thread) (i : Instr) : Thread :=
  match crossDest i with
  | .g n => (crossGroups i).foldl (fun t g => t.hide (n.val + g.1) g.2) t
  | _ => t

/-- A thread's arrival at the current slot (R174). -/
def State.arrive (s : State) (c : Cur) (i : Instr) (mask : Nat) (off : Bool) (vals : List Quad) :
    State :=
  s.modThread c.r fun t =>
    let u := if off then t else t.hideCross i
    { u with latches := u.latches ++ [⟨c.iss.addr, c.iss.slot, mask, off, i, vals, []⟩] }

/-- The member mask at its width; none names every lane (R173). -/
def Cove.maskOf (c : Cove) (o : Opnd) (v : Quad × Bool) : Nat :=
  if o = .none then 2 ^ c.width - 1 else (lo32 v).toNat % 2 ^ c.width

/-- A rendezvous instruction at its slot (R173, R174): a thread outside its own mask does nothing, and none
of its other operands is read; one predicated off arrives without operands. -/
def crossOp (s : State) (gd : Guard) (i : Instr) (srcs : List (Opnd × Width)) (mask : Opnd) :
    Host.Outcome State Fault Refusal :=
  withCur s fun c0 =>
    let s1 := s.touch c0.r (mask.names .w32)
    withCur s1 fun c1 =>
      match readOpnd s1 c1 .w32 mask with
      | .error e => conclude s1 c1 (.error e)
      | .ok v =>
        let m := c1.cv.maskOf mask v
        let on := guardHolds gd c1.t
        if m.testBit c1.lane then
          reading s1 (if on then srcs else []) fun s c vs => .ok (s.arrive c i m (!on) (vs.map Prod.fst))
        else .next s1

/-! What the members of a complete group receive. -/

/-- A contributing member: its lane and latched operands. -/
structure Con where
  lane : Nat
  a : Quad
  b : Quad
  deriving DecidableEq, Repr

/-- What one member receives: writes, each at an offset from D, and flags. -/
structure XRes where
  writes : List (Nat × Width × Quad)
  flags : Word
  deriving DecidableEq, Repr

/-- A set of lanes as a mask. -/
def laneMask (ls : List Nat) : Nat := ls.foldl (fun m x => m ||| 2 ^ x) 0

/-- The identities of R182. -/
def redIdentity (op : Nat) (t : Ty) : Nat :=
  match op, t with
  | 1, .f32 => fp32.infBits
  | 2, .f32 => fp32.signed true fp32.infBits
  | 1, .i32 => 2 ^ 31 - 1
  | 1, _ => 2 ^ 32 - 1
  | 2, .i32 => 2 ^ 31
  | 3, _ => 2 ^ 32 - 1
  | _, _ => 0

/-- One integer combination of R182. -/
def redStep (op : Nat) (t : Ty) (x y : Nat) : Nat :=
  let key (v : Nat) : Int := if t = .i32 then (BitVec.ofNat 32 v).toInt else v
  match op with
  | 0 => (x + y) % 2 ^ 32
  | 1 => if key y < key x then y else x
  | 2 => if key x < key y then y else x
  | 3 => x &&& y
  | 4 => x ||| y
  | _ => x ^^^ y

/-- The exact sum of finite FP32 values as a multiple of the least subnormal. -/
def sumTerms : List FVal → Int
  | [] => 0
  | .num n m e :: vs =>
    (if n then -1 else 1) * (m * 2 ^ (e - fp32.qmin).toNat : Nat) + sumTerms vs
  | _ :: vs => sumTerms vs

/-- The .f32 sum of R182: exact, rounded once. -/
def sumF32 (xs : List Nat) : Nat × Word :=
  let vs := xs.map fp32.read
  let plus := vs.any fun v => v == .inf false
  let minus := vs.any fun v => v == .inf true
  if vs.any FVal.isNan || (plus && minus) then
    (fp32.nan, flagIf (vs.any FVal.isSignalling || (plus && minus)) flNV)
  else if plus then (fp32.infBits, 0)
  else if minus then (fp32.signed true fp32.infBits, 0)
  else
    let x := sumTerms vs
    if x = 0 then (fp32.signed (!vs.isEmpty && vs.all FVal.neg) 0, 0)
    else fp32.roundNum .rn false (decide (x < 0)) x.natAbs fp32.qmin

/-- A combination over values in lane order (R182). -/
def reduceVals (op : Nat) (t : Ty) (xs : List Nat) : Nat × Word :=
  if t = .f32 then
    if op = 0 then sumF32 xs
    else xs.foldl (fun acc x =>
      let p := fp32.pick (op == 2) false acc.1 x
      (p.1, acc.2 ||| p.2)) (redIdentity op t, 0)
  else (xs.foldl (redStep op t) (redIdentity op t), 0)

/-- xpull for one member (R180). -/
def pullRes (t : Ty) (w : Nat) (con : List Con) (me : Con) : XRes :=
  let from' := (lo32 (me.b, false)).toNat % w
  ⟨[(0, t.width, ((con.find? fun x => x.lane == from').map (·.a)).getD 0)], 0⟩

/-- xpush for one member (R180). -/
def pushRes (t : Ty) (cm : Bool) (w : Nat) (con : List Con) (me : Con) : XRes :=
  let sources := con.filter fun x => (lo32 (x.b, false)).toNat % w == me.lane
  let mask := if cm then [(t.width.regs, .w32, ofNatQ (laneMask (sources.map (·.lane))))] else []
  match sources.getLast? with
  | some x => ⟨(0, t.width, x.a) :: mask, 0⟩
  | none => ⟨mask, 0⟩

/-- xvote (R181). -/
def voteRes (vop : Fin 3) (con : List Con) : XRes :=
  let yes := con.filter fun x => x.a != 0
  let v := if vop = 0 then (if yes.length = con.length then 1 else 0)
    else if vop = 1 then (if yes.isEmpty then 0 else 1) else laneMask (yes.map (·.lane))
  ⟨[(0, .w32, ofNatQ v)], 0⟩

/-- xmatch for one member (R181). -/
def matchRes (con : List Con) (me : Con) : XRes :=
  ⟨[(0, .w32, ofNatQ (laneMask ((con.filter fun x => x.a == me.a).map (·.lane))))], 0⟩

/-- xred and xscan over the values of some members (R182). -/
def redRes (op : Fin 6) (t : Ty) (con : List Con) : XRes :=
  let r := reduceVals op.val t (con.map fun x => (lo32 (x.a, false)).toNat)
  ⟨[(0, .w32, ofNatQ r.1)], r.2⟩

/-- What a member receives at the release of a cross-lane group (R179 to R183); the contributing
members stand in rising order of lane. -/
def crossRes (w : Nat) (i : Instr) (con : List Con) (me : Con) : XRes :=
  match i with
  | .xpull _ t _ _ _ _ => pullRes t w con me
  | .xpullImm _ t _ _ _ => pullRes t w con me
  | .xpush _ t cm _ _ _ _ => pushRes t cm w con me
  | .xvote _ vop _ _ _ => voteRes vop con
  | .xfirst _ t _ _ _ => ⟨[(0, t.width, ((con.head?).map (·.a)).getD 0)], 0⟩
  | .xred _ t rop _ _ _ => redRes rop t con
  | .xscan _ t exc rop _ _ _ =>
    redRes rop t (con.filter fun x => decide (x.lane < me.lane) || (!exc && x.lane == me.lane))
  | .xmatch _ _ _ _ _ => matchRes con me
  | _ => ⟨[], 0⟩

/-- A member's writes and flags (R175). -/
def Thread.receive (t : Thread) (d : Opnd) (x : XRes) : Thread :=
  (match d with
    | .g n =>
      x.writes.foldl (fun (t : Thread) (w : Nat × Width × Quad) => t.write (n.val + w.1) w.2.1 w.2.2 false) t
    | _ => t).orFlags x.flags

/-- Arrivals in rising order of lane. -/
def sortArr (g : List Arr) : List Arr := g.mergeSort fun x y => decide (x.t.vlane ≤ y.t.vlane)

/-- The contributing members of a group, in rising order of lane (R175). -/
def contributing (g : List Arr) : List Arr := (sortArr g).filter fun a => !a.l.off

/-- A member's writes and flags, once the latent errors of the words written are found (R22, R175). -/
def State.give (s : State) (r : TRef) (d : Opnd) (x : XRes) : State :=
  (match d with
    | .g n => x.writes.foldl (fun (s : State) (w : Nat × Width × Quad) => s.touchGroup r (n.val + w.1) w.2.1) s
    | _ => s).modThread r fun t => t.receive d x

/-- The writes of a cross-lane group's release. -/
def State.crossWrite (s : State) (c : Cove) (i : Instr) (g : List Arr) : State :=
  let con := (contributing g).map fun a => (⟨a.t.vlane, a.l.vals.getD 0 0, a.l.vals.getD 1 0⟩ : Con)
  (contributing g).foldl (fun s a =>
    s.give a.r (crossDest i)
      (crossRes c.width i con ⟨a.t.vlane, a.l.vals.getD 0 0, a.l.vals.getD 1 0⟩)) s

/-- Whether a mask covers every active member of a crew or logical crew (R36). -/
def State.fullCrew (s : State) (c : Cove) (a : Arr) : Bool :=
  (s.coveThreads a.t.cove).all fun e => !e.2.active || e.2.crew != a.t.crew
    || logicalHalf c e.1.lane != logicalHalf c a.r.lane || a.l.mask.testBit e.2.vlane

/-- The merge of strands at a full-crew rendezvous (R36, R37). -/
def State.meetCrew (s : State) (cv : CoveRef) (crew half : Nat) : State :=
  let l := s.lanesOf cv crew
  (s.touchLanes cv crew (l.ofHalf half)).updateCrew cv crew (Crew.meet · l half)

/-- Every arrival of a group leaves its latch. -/
def State.unlatchAll (s : State) (g : List Arr) : State :=
  g.foldl (fun s a => s.unlatch a.r a.l) s

/-- The release of a kmerge group (R126). -/
def State.mergeRelease (s : State) (c : Cove) (a : Arr) (g : List Arr) : State :=
  let l := s.lanesOf a.t.cove a.t.crew
  let h := logicalHalf c a.r.lane
  let s1 := match (l.ofHalf h).head? with
    | some lane => (s.touchLanes a.t.cove a.t.crew (l.ofHalf h)).updateCrew a.t.cove a.t.crew (Crew.adopt · l h lane)
    | none => s
  s1.unlatchAll g

/-- xpull (R180). -/
def execXpull (gd : Guard) (t : Ty) (d a b c : Opnd) (s : State) :
    Host.Outcome State Fault Refusal :=
  crossOp s gd (.xpull gd t d a b c) [(a, t.width), (b, .w32)] c

/-- The immediate twin of xpull: no mask (R179). -/
def execXpullImm (gd : Guard) (t : Ty) (d a : Opnd) (imm : BitVec 20) (s : State) :
    Host.Outcome State Fault Refusal :=
  crossOp s gd (.xpullImm gd t d a imm) [(a, t.width), (immInt imm, .w32)] .none

/-- xpush (R180). -/
def execXpush (gd : Guard) (t : Ty) (cm : Bool) (d a b c : Opnd) (s : State) :
    Host.Outcome State Fault Refusal :=
  crossOp s gd (.xpush gd t cm d a b c) [(a, t.width), (b, .w32)] c

/-- xvote (R181). -/
def execXvote (gd : Guard) (vop : Fin 3) (d a c : Opnd) (s : State) :
    Host.Outcome State Fault Refusal :=
  crossOp s gd (.xvote gd vop d a c) [(a, .w32)] c

/-- xfirst (R181). -/
def execXfirst (gd : Guard) (t : Ty) (d a c : Opnd) (s : State) :
    Host.Outcome State Fault Refusal :=
  crossOp s gd (.xfirst gd t d a c) [(a, t.width)] c

/-- xred (R182). -/
def execXred (gd : Guard) (t : Ty) (rop : Fin 6) (d a c : Opnd) (s : State) :
    Host.Outcome State Fault Refusal :=
  crossOp s gd (.xred gd t rop d a c) [(a, .w32)] c

/-- xscan (R182). -/
def execXscan (gd : Guard) (t : Ty) (exc : Bool) (rop : Fin 6) (d a c : Opnd) (s : State) :
    Host.Outcome State Fault Refusal :=
  crossOp s gd (.xscan gd t exc rop d a c) [(a, .w32)] c

/-- xmatch (R181). -/
def execXmatch (gd : Guard) (t : Ty) (d a c : Opnd) (s : State) :
    Host.Outcome State Fault Refusal :=
  crossOp s gd (.xmatch gd t d a c) [(a, t.width)] c

/-- rdv (R183). -/
def execRdv (gd : Guard) (c : Opnd) (s : State) :
    Host.Outcome State Fault Refusal :=
  crossOp s gd (.rdv gd c) [] c

/-- kmerge (R126): every active member waits at its own kmerge, whatever its address. -/
def execKmerge  (s : State) :
    Host.Outcome State Fault Refusal :=
  withCur s fun c => .next (s.arrive c .kmerge 0 false [])

end Sys2Proof.Machine
end

