-- ==== Sys2Proof/Machine/Narrow.lean ====
section
/-! DEFINITION. Q4 codes, block scales and structured sparsity in registers (R149 to R165). The array
reads its Q4, scaled and sparse operands through the same functions. -/

namespace Sys2Proof.Machine

/-- Magnitudes of a kind's codes by index, in eighths (R149). -/
def gridOf : Nat → List Nat
  | 0 => [0, 8, 16, 24, 32, 40, 48, 56]
  | 1 => [0, 4, 8, 12, 16, 24, 32, 48]
  | 2 => [0, 1, 2, 4, 8, 16, 32, 64]
  | _ => [0, 8, 16, 24, 32, 48, 64, 96]

/-- The largest magnitude of a kind. -/
def qmax (kind : Nat) : Nat := (gridOf kind).getD 7 0 / 8

/-- The sign and index of a code; none where it is reserved (R149). -/
def codeIndex (kind c : Nat) : Option (Bool × Nat) :=
  if c % 16 = 8 then none
  else if c % 16 < 8 then some (false, c % 16)
  else some (true, if kind = 0 then 16 - c % 16 else c % 8)

/-- The code of a sign and an index; zero of either sign is 0 (R160). -/
def codeOf (kind : Nat) (neg : Bool) (i : Nat) : Nat :=
  if i = 0 then 0 else if !neg then i else if kind = 0 then 16 - i else 8 + i

/-- The fields of a scale word (R150). -/
def scaleKind (w : Nat) : Nat := w / 2 ^ 18 % 4
def scaleExp (w : Nat) : Nat := w / 2 ^ 10 % 256
def scaleNan (w : Nat) : Bool := scaleExp w == 255

/-- The format of a scale: 8 exponent and 10 fraction bits (R150). -/
def fpScale : Fmt := ⟨8, 10, true⟩

/-- The value of a scale word whose E is not 255, as a significand and an exponent (R150). -/
def scaleNum (w : Nat) : Nat × Int :=
  match fpScale.read (w % 2 ^ 18) with
  | .num _ m e => (m, e)
  | _ => (0, 0)

/-- The value of a code in a kind times 1: sign, significand, exponent. -/
def codeNum (kind c : Nat) : Option (Bool × Nat × Int) :=
  (codeIndex kind c).map fun x => (x.1, (gridOf kind).getD x.2 0, -3)

/-- The element of a code under a scale word (R149, R150, R153): none where it reads as NaN. -/
def q4Val (w c : Nat) : Option FVal :=
  if scaleNan w then none
  else (codeNum (scaleKind w) c).map fun x =>
    .num x.1 (x.2.1 * (scaleNum w).1) (x.2.2 + (scaleNum w).2)

/-- qscale's word for a value (R159), with its flags. -/
def scaleFor (kind : Nat) (x : FVal) : Nat × Word :=
  match x with
  | .num _ m e =>
    if m = 0 then (kind * 2 ^ 18 + 127 * 2 ^ 10, 0)
    else
      let k := qmax kind
      let top := m * 2 ^ 64
      let v : Nat × Int :=
        if top % k = 0 then (top / k, e - 64) else (2 * (top / k) + 1, e - 65)
      let b := fpScale.roundNum .ru false false v.1 v.2
      (kind * 2 ^ 18 + b.1, b.2 &&& flNX)
  | _ => (kind * 2 ^ 18 + 255 * 2 ^ 10, flNV)

/-- A scale word placed in a slot of a triple (R151, R159). -/
def placeScale (old slot w : Nat) : Nat :=
  if slot = 3 then w
  else (old % 2 ^ 60) - old / 2 ^ (20 * slot) % 2 ^ 20 * 2 ^ (20 * slot) + w * 2 ^ (20 * slot)

/-- The index of the grid that a magnitude q in (0, qmax] rounds to: a8 over s is q in eighths, low is
the last index not above it (R160). -/
def gridIndex (kind : Nat) (r : Rnd) (neg : Bool) (a8 s : Nat) : Nat × Bool :=
  let g := gridOf kind
  let low := (g.filter fun x => decide (x * s ≤ a8)).length - 1
  if g.getD low 0 * s = a8 then (low, false)
  else
    let mid := (g.getD low 0 + g.getD (low + 1) 0) * s
    let up := match r with
      | .rn => decide (mid < 2 * a8) || (decide (mid = 2 * a8) && low % 2 == 1)
      | .rz => false
      | .ru => !neg
      | .rd => neg
    (low + up.toNat, true)

/-- qpack's code for one element (R160). -/
def encodeQ4 (w : Nat) (r : Rnd) (x : FVal) : Nat × Word :=
  let kind := scaleKind w
  let (sm, se) := scaleNum w
  if scaleNan w || x.isNan then (8, flNV)
  else if sm = 0 then (0, flagIf (!x.isZero) flNV)
  else
    match x with
    | .num neg m e =>
      let e0 := min (e + 3) se
      let a8 := m * 2 ^ (e + 3 - e0).toNat
      let s := sm * 2 ^ (se - e0).toNat
      if (gridOf kind).getD 7 0 * s < a8 then (codeOf kind neg 7, flOF ||| flNX)
      else
        let (i, nx) := gridIndex kind r neg a8 s
        (codeOf kind neg i, flagIf nx flNX)
    | .inf neg => (codeOf kind neg 7, flOF ||| flNX)
    | .nan _ => (8, flNV)

/-- Element i of w bits of a value. -/
def elem (v : Quad) (w i : Nat) : Nat := v.toNat / 2 ^ (w * i) % 2 ^ w

/-- Elements of w bits joined, the first lowest. -/
def joinElems (w : Nat) : List Nat → Nat
  | [] => 0
  | x :: xs => x + 2 ^ w * joinElems w xs

/-- The elements of a quad that a packing type takes (R160). -/
def packCount (t : Ty) : Nat := if t = .f32 then 4 else 8

/-- The OR of flags. -/
def orAll (fl : List Word) : Word := fl.foldl (· ||| ·) 0

/-- A list of results as one value with the OR of their flags. -/
def joinRes (w : Nat) (rs : List (Nat × Word)) : ARes :=
  { value := ofNatQ (joinElems w (rs.map Prod.fst)), flags := orAll (rs.map Prod.snd) }

/-- qunpk's element (R161). -/
def decodeQ4 (f : Fmt) (w c : Nat) : Nat × Word :=
  match q4Val w c with
  | none => (f.nan, flNV)
  | some v => if codeIndex (scaleKind w) c = some (false, 0) then (0, 0) else f.putVal .rn v

/-- The stored elements of a group: N of R156. -/
def keepOf (n : Fin 3) : Nat :=
  match n with
  | 0 => 2
  | 1 => 4
  | 2 => 8

/-- The rank key of an element (R162): NaN above every number, then magnitude. -/
def rankKey (t : Ty) (x : Nat) : Nat :=
  match t with
  | .i8 => (BitVec.ofNat 8 x).toInt.natAbs
  | .n8 => x
  | _ =>
    let f := fmtOf t
    if (f.read x).isNan then f.signBit else x % f.signBit

/-- The chosen indices of a group in ascending order: those with fewer than n elements before them
(R162). -/
def chosen (t : Ty) (n : Nat) (xs : List Nat) : List Nat :=
  let keys := xs.map (rankKey t)
  (List.range 12).filter fun i =>
    decide (((List.range 12).filter fun j =>
      decide (keys.getD i 0 < keys.getD j 0) || (decide (keys.getD i 0 = keys.getD j 0)
        && decide (j < i))).length < n)

/-- The twelve elements of a group: a quad, and for 16-bit types a pair above it (R162). -/
def groupElems (t : Ty) (a b : Quad) : List Nat :=
  (List.range 12).map fun i =>
    if tyBits t = 8 then elem a 8 i else if i < 8 then elem a 16 i else elem b 16 (i - 8)

/-- The index of stored element j in metadata. -/
def metaIndex (m j : Nat) : Nat := m / 2 ^ (4 * j) % 16

/-- The gather form of spcmp (R163): the stored elements, and whether an index names no position. -/
def gatherElems (xs : List Nat) (n meta' : Nat) : List Nat × Bool :=
  let idx := (List.range n).map (metaIndex meta')
  (idx.map fun i => xs.getD i 0, idx.any fun i => decide (12 ≤ i))

/-- The expansion of spexp (R164, R157): the later of two stored elements at one position stays. -/
def expandElems (t : Ty) (a : Quad) (n meta' : Nat) : List Nat × Bool :=
  let idx := (List.range n).map (metaIndex meta')
  (((List.range n).foldl (fun l j => l.set (metaIndex meta' j) (elem a (tyBits t) j))
      (List.replicate 12 0)), idx.any fun i => decide (12 ≤ i))

/-- qpack (R160). -/
def execQpack (gd : Guard) (t : Ty) (rnd : Rnd) (d a b : Opnd) (s : State) :
    Host.Outcome State Fault Refusal :=
  runA s gd d .w32 [(a, .w128), (b, .w32)] fun _ v =>
    joinRes 4 ((List.range (packCount t)).map fun i =>
      encodeQ4 (lo32 (nth v 1)).toNat rnd ((fmtOf t).read (elem (nth v 0).1 (tyBits t) i)))

/-- qunpk (R161). -/
def execQunpk (gd : Guard) (t : Ty) (d a b : Opnd) (s : State) : Host.Outcome State Fault Refusal :=
  runA s gd d .w128 [(a, .w32), (b, .w32)] fun _ v =>
    joinRes (tyBits t) ((List.range (packCount t)).map fun i =>
      decodeQ4 (fmtOf t) (lo32 (nth v 1)).toNat (elem (nth v 0).1 4 i))

/-- qscale (R159). With D discarded the bits kept are 0 (log 97). -/
def execQscale (gd : Guard) (t : Ty) (d a b : Opnd) (s : State) : Host.Outcome State Fault Refusal :=
  runA s gd d .w64 [(d, .w64), (a, .w32), (b, .w32)] fun _ v =>
    let k := (lo32 (nth v 2)).toNat
    let w := scaleFor (k % 4) ((fmtOf t).read (fbitsOf t (nth v 1)))
    { value := ofNatQ (placeScale (lo64 (nth v 0)).toNat (k / 4 % 4) w.1), flags := w.2 }

/-- spcmp, its select form where C is none, else its gather form (R162, R163). -/
def execSpcmp (gd : Guard) (t : Ty) (n : Fin 3) (d a b c : Opnd) (s : State) :
    Host.Outcome State Fault Refusal :=
  if c = .none then
    runA s gd d .w32 [(a, .w128), (b, .w64)] fun _ v =>
      { value := ofNatQ (joinElems 4 (chosen t (keepOf n) (groupElems t (nth v 0).1 (nth v 1).1))) }
  else
    runA s gd d .w128 [(a, .w128), (b, .w64), (c, .w32)] fun _ v =>
      let r := gatherElems (groupElems t (nth v 0).1 (nth v 1).1) (keepOf n) (lo32 (nth v 2)).toNat
      { value := ofNatQ (joinElems (tyBits t) r.1), flags := flagIf r.2 flNV }

/-- spexp (R164). -/
def execSpexp (gd : Guard) (t : Ty) (n : Fin 3) (d a b c : Opnd) (s : State) :
    Host.Outcome State Fault Refusal :=
  runA s gd d .w128 [(a, .w128), (b, .w32), (c, .w32)] fun _ v =>
    let r := expandElems t (nth v 0).1 (keepOf n) (lo32 (nth v 1)).toNat
    let part := if tyBits t = 8 then r.1
      else if (lo32 (nth v 2)).toNat % 2 = 0 then r.1.take 8 else r.1.drop 8
    { value := ofNatQ (joinElems (tyBits t) part), flags := flagIf r.2 flNV }

end Sys2Proof.Machine
end

