-- ==== Sys2Proof/Machine/Engine.lean ====
section
/-! DEFINITION. What the engine commands share (R300, R301): their checks by side, the accesses that an
operation makes while it runs, its fork (R223), and the handle instructions hwait, htest and hmov
(R305, R306, R308). -/

namespace Sys2Proof.Machine

/-- Capability checks of R201 on a range by its first address. -/
def checkRange (v : Quad × Bool) (perm : Nat) (a : Int) (n : Nat) : Except Stop Unit :=
  match capFailure v.1 v.2 perm a n with
  | some e => .error (.trap e (tvalOf a))
  | none => .ok ()

/-- Checks in order; the first that fails decides. -/
def firstStop : List (Except Stop Unit) → Except Stop Unit
  | [] => .ok ()
  | .error e :: _ => .error e
  | .ok _ :: rest => firstStop rest

/-- A check as a value: the trap raised where a condition does not hold. -/
def require (ok : Bool) (cause : Cause) (tval : DWord) : Except Stop Unit :=
  if ok then .ok () else .error (.trap cause tval)

/-- The space of one side of a copy is one that the form takes, and is there (R301, R198). -/
def State.spaceCheck (s : State) (c : Cur) (cap : Quad) (a : Nat) (write : Bool) (spaces : List Nat) :
    Except Stop Unit :=
  let space := capSpace cap
  require (spaces.contains space && ((space != 5 && space != 6) || s.spaceUp c.r.die c.ctx space))
    (if write then .storeFault else .loadFault) (dw a)

/-- The space checks of R301 and R198 on one side of a copy, over a range of it. -/
def State.sideCheck (s : State) (c : Cur) (cap : Quad) (a n : Nat) (write : Bool) (spaces : List Nat) :
    Except Stop Unit :=
  firstStop [s.spaceCheck c cap a write spaces,
    match capSpace cap with
    | 2 => require (decide (a + n ≤ c.cv.declared)) .capBounds (dw a)
    | 3 =>
      match s.scratchOf c 3 a n with
      | .ok _ => .ok ()
      | .error e => .error e
    | 4 => require (decide (a + n ≤ c.cv.constLen)) .capBounds (dw a)
    | _ => .ok ()]

/-- Whether every link request that an operation's fork follows has finished (R223). -/
def State.forked (s : State) (cr : CoveRef) (c : Cove) (after : Nat) : Bool :=
  s.link.reqs.all fun q => !(q.open && decide (q.id < after) && q.die == cr.die
    && q.launch == c.launch && q.cove == c.index)

/-- n bytes of the host's memory, which the machine does not hold: free values (log 2). -/
def State.hostBytes (s : State) : Nat → State × List Byte
  | 0 => (s, [])
  | n + 1 =>
    let (s1, bs) := s.draw.2.hostBytes n
    (s1, s.draw.1.setWidth 8 :: bs)

/-- The agent of an engine of a cove's core. -/
def Cove.engine (cr : CoveRef) (c : Cove) (sys : Bool) : Agent :=
  ⟨cr.die, some cr.core, c.ctx, some c.launch, sys, false⟩

/-- The agent of accesses performed at the peer's home slice (R198, R394). -/
def peerAgent (d : DieId) (ctx : Nat) (sys : Bool) : Agent :=
  ⟨otherDie d, none, ctx, none, sys, false⟩

/-- The scratchpad of a cove of the bay, or the issuing cove's own (R198). -/
def State.scratchSide (s : State) (cr : CoveRef) (c : Cove) (space a n : Nat) :
    Except Stop (Nat × Nat) :=
  if space = 2 then
    if a + n ≤ c.declared then .ok (cr.core, c.scratchBase + a)
    else .error (.trap .capBounds (dw a))
  else
    match (if a / 2 ^ 36 = 0 then s.bayCove cr c (a / 2 ^ 32) else none) with
    | some (k, x) =>
      if a % 2 ^ 32 + n ≤ x.declared then .ok (k.core, x.scratchBase + a % 2 ^ 32)
      else .error (.trap .capBounds (dw a))
    | none => .error (.trap .capBounds (dw a))

/-- Bytes an operation has read: the state, the bytes, their chunk tags, and how many come before the
first poisoned one. -/
structure SideRead where
  state : State
  bytes : List Byte
  tags : List Bool
  good : Nat

/-- A read of an engine by space (R198, R301), its tags those of the 16-byte chunks from its first
byte. One that was asked for before the link drains goes on (R295), and a first access to space 5 or 6 ends
replayability (R292). -/
def State.sideRead (s : State) (cr : CoveRef) (c : Cove) (space : Nat) (sys : Bool) (a n : Nat) :
    Except Stop SideRead :=
  let made (x : State × List Byte × List Bool × Option Nat) (first' : Nat) : SideRead :=
    ⟨x.1, x.2.1, x.2.2.1, match x.2.2.2 with | some y => y - first' | none => n⟩
  match space with
  | 0 | 7 =>
    match s.agentRead (c.engine cr sys) .read a n with
    | .error e => .error e
    | .ok x => .ok (made x a)
  | 4 =>
    if c.constLen < a + n then .error (.trap .capBounds (dw a))
    else
      match s.agentRead (c.engine cr sys) .read (c.constBase + a) n with
      | .error e => .error e
      | .ok x => .ok (made x (c.constBase + a))
  | 5 =>
    if s.spaceLinked cr.die c.ctx 5 then
      let (s1, bs) := (s.noReplay cr.die c.launch).hostBytes n
      .ok ⟨s1, bs, [], n⟩
    else .error (.trap .loadFault (dw a))
  | 6 =>
    if s.spaceLinked cr.die c.ctx 6 then
      match (s.noReplay cr.die c.launch).agentRead (peerAgent cr.die c.ctx sys) .read a n with
      | .error e => .error e
      | .ok x => .ok (made x a)
    else .error (.trap .loadFault (dw a))
  | _ =>
    match s.scratchSide cr c space a n with
    | .error e => .error e
    | .ok (core, p) =>
      let (s1, bs, bad) := s.readScratch cr.die core p n
      .ok ⟨s1, bs, (List.range (n / 16)).map fun i => s1.scratchTag cr.die core (p / 16 + i),
        if bad then 0 else n⟩

/-- A write of an engine by space; the core's L1 copies of what it writes drop (R224). -/
def State.sideWrite (s : State) (cr : CoveRef) (c : Cove) (space : Nat) (sys : Bool) (a : Nat)
    (bs : List Byte) (tags : List Bool) : Except Stop State :=
  match space with
  | 0 | 7 =>
    match s.agentWrite (c.engine cr sys) a bs tags with
    | .error e => .error e
    | .ok s1 => .ok (s1.dropL1 cr.die cr.core c.ctx a bs.length)
  | 5 =>
    if s.spaceLinked cr.die c.ctx 5 then .ok (s.noReplay cr.die c.launch).wakeOthers
    else .error (.trap .storeFault (dw a))
  | 6 =>
    if s.spaceLinked cr.die c.ctx 6 then
      (s.noReplay cr.die c.launch).agentWrite (peerAgent cr.die c.ctx sys) a bs tags
    else .error (.trap .storeFault (dw a))
  | _ =>
    match s.scratchSide cr c 2 a bs.length with
    | .error e => .error e
    | .ok (core, p) => .ok (s.scratchSet cr.die core p bs tags)

/-- The word of a handle whose operation a stop ended. -/
def stopWord (count : Nat) : Stop → DWord
  | .trap c _ => faultedWord c count
  | _ => handleWord 0 count

/-- An engine command's handle named pending at the end of its clause, in both threads of a pair
(R298, R305). -/
def State.markPending (s : State) (c : Cur) (d : Opnd) : State :=
  s.both c fun t => t.deferHandle d pendingWord

/-- An engine command that completes at its slot: its word at the end of its clause. -/
def State.markDone (s : State) (c : Cur) (d : Opnd) (v : DWord) : State :=
  s.both c fun t => t.deferHandle d v

/-- The word that hmov writes from a pair (R308). -/
def movedWord (v : DWord) : DWord :=
  let st := handleStatus v
  if st ≤ 3 ∨ (0x4000 ≤ st ∧ st ≤ 0x7FFF) then v else handleWord 1 (handleCount v)

/-- hwait (R305). -/
def execHwait (gd : Guard) (a : Opnd) (s : State) : Host.Outcome State Fault Refusal :=
  readingIf s gd [(a, .w32)] fun s c vs =>
    .ok (s.modThread c.r fun t =>
      { t with status := .hwait ((lo32 (nth vs 0)).toNat % 2 ^ 16), passed := 0 })

/-- htest (R306). -/
def execHtest (gd : Guard) (d a : Opnd) (s : State) : Host.Outcome State Fault Refusal :=
  readingIf s gd [(a, .w32)] fun s c vs =>
    .ok (s.modThread c.r fun t =>
      t.deferReg d .w64 ((t.handle ((lo32 (nth vs 0)).toNat % 16)).setWidth 128) false)

/-- hmov (R308). -/
def execHmov (gd : Guard) (d a : Opnd) (s : State) : Host.Outcome State Fault Refusal :=
  readingIf s gd [(a, .w64)] fun s c vs =>
    .ok (s.modThread c.r fun t =>
      match a with
      | .h _ => ((t.deferHandle a 0).deferHandle d (lo64 (nth vs 0)))
      | _ => t.deferHandle d (movedWord (lo64 (nth vs 0))))

end Sys2Proof.Machine
end

