-- ==== Sys2Proof/Machine/Copy.lean ====
section
/-! DEFINITION. Copies (R301 to R304): the slot checks of each form, the operation, its count and its
arrival. -/

namespace Sys2Proof.Machine

/-- Fields of the copy descriptor (R302). -/
def cpBarrier (v : Quad) : Nat := qbits v 119 9
def cpArrives (v : Quad) : Bool := qbits v 118 1 == 1
def cpReserved (v : Quad) : Nat := qbits v 112 6
def cpP (v : Quad) : Nat := qbits v 80 32
def cpQ (v : Quad) : Nat := qbits v 48 32
def cpS (v : Quad) : Nat := qbits v 32 16
def cpL (v : Quad) : Nat := qbits v 0 32

/-- P and Q as signed strides. -/
def strideOf (n : Nat) : Int := (BitVec.ofNat 32 n).toInt

/-- The forms of a copy, numbered as F[7:5] (R299): 0 blk, 1 tile, 2 gat, 3 sct, 4 mc, 5 fill. -/
def indexedForm (form : Nat) : Bool := form == 2 || form == 3

/-- The value of the first descriptor field that fails, in the order of R302's table. -/
def cpBadField (form barriers : Nat) (v : Quad) : Option Nat :=
  if cpArrives v ∧ barriers ≤ cpBarrier v then some (cpBarrier v)
  else if cpReserved v ≠ 0 then some (cpReserved v)
  else if (form = 0 ∨ form = 4 ∨ form = 5) ∧ cpP v ≠ 0 then some (cpP v)
  else if (form = 0 ∨ form = 4) ∧ cpQ v ≠ 0 then some (cpQ v)
  else if (form = 0 ∨ form = 5) ∧ cpS v ≠ 0 then some (cpS v)
  else if indexedForm form ∧ (cpS v = 0 ∨ 4096 < cpS v) then some (cpS v)
  else none

/-- The units that a copy counts (R302). -/
def cpTotal (form : Nat) (v : Quad) : Nat := if form = 1 then cpS v * cpL v else cpL v

/-- The range of a side whose rows or elements have a stride: lowest address and length. -/
def spanOf (cursor : Nat) (stride : Int) (rows bytes : Nat) : Int × Nat :=
  if rows = 0 ∨ bytes = 0 then (cursor, 0)
  else
    let reach := ((rows : Int) - 1) * stride
    ((cursor : Int) + min 0 reach, reach.natAbs + bytes)

/-- The range checked at the slot on the destination side; none where each element is checked while
the operation runs (R303). -/
def cpDstSpan (form : Nat) (dst v : Quad) : Option (Int × Nat) :=
  match form with
  | 1 => some (spanOf (capCursor dst) (strideOf (cpP v)) (cpS v) (cpL v))
  | 2 => some (capCursor dst, cpL v * cpS v)
  | 3 => none
  | _ => some (capCursor dst, cpL v)

def cpSrcSpan (form : Nat) (src v : Quad) : Option (Int × Nat) :=
  match form with
  | 1 => some (spanOf (capCursor src) (strideOf (cpQ v)) (cpS v) (cpL v))
  | 2 => none
  | 3 => some (capCursor src, cpL v * cpS v)
  | _ => some (capCursor src, cpL v)

/-- The capability checks of one side: an indexed side is checked for its tag and permission only. -/
def sideCap (v : Quad × Bool) (perm : Nat) : Option (Int × Nat) → Except Stop Unit
  | some x => checkRange v perm x.1 x.2
  | none =>
    match capFailure v.1 v.2 perm (capCursor v.1) 0 with
    | some .capBounds => .ok ()
    | some e => .error (.trap e (dw (capCursor v.1)))
    | none => .ok ()

/-- The targets of cp.mc: bay positions of the set bits (R303). -/
def mcTargets (v : Quad) : List Nat := (List.range 16).filter fun j => (cpS v).testBit j

/-- The cove at a bay position; without bays position 0 is the issuing cove (R303). -/
def State.mcCove (s : State) (cr : CoveRef) (c : Cove) (j : Nat) : Option (CoveRef × Cove) :=
  if c.bayCount = 0 then (if j = 0 then some (cr, c) else none)
  else if j = c.bayPos then some (cr, c)
  else s.bayCove cr c j

/-- The targets of cp.mc lie in the bay, and the range in each one's declared scratchpad (R303). -/
def State.mcCheck (s : State) (c : Cur) (dst v : Quad) : Except Stop Unit :=
  require ((mcTargets v).all fun j =>
    match s.mcCove c.t.cove c.cv j with
    | some (_, k) => decide (capCursor dst + cpL v ≤ k.declared)
    | none => false) .capBounds (dw (capCursor dst))

/-- The slot checks of a copy in the order of R300. Of an indexed side only the tag, the permission and the
space are checked here: its elements are checked in the operation (R303). -/
def State.copyCheck (s : State) (c : Cur) (form : Nat) (dst src : Quad × Bool) (v : Quad) :
    Except Stop Unit :=
  match cpBadField form c.cv.barCount v with
  | some x => .error (.trap .formatInvalid (dw x))
  | none =>
    let side (x : Option (Int × Nat)) (cap : Quad) (write : Bool) (spaces : List Nat) : Except Stop Unit :=
      match x with
      | some y => s.sideCheck c cap y.1.toNat y.2 write spaces
      | none => s.spaceCheck c cap (capCursor cap) write spaces
    firstStop [
      require (!(indexedForm form && cpQ v % 4 != 0)) .align (dw (cpQ v)),
      sideCap dst permWrite (cpDstSpan form dst.1 v),
      if form = 5 then .ok () else sideCap src permRead (cpSrcSpan form src.1 v),
      require (!indexedForm form || decide (cpQ v + 4 * cpL v ≤ c.cv.declared)) .capBounds (dw (cpQ v)),
      if form = 4 then
        (if capSpace dst.1 = 2 then s.mcCheck c dst.1 v
         else .error (.trap .storeFault (dw (capCursor dst.1))))
      else side (cpDstSpan form dst.1 v) dst.1 true (if form = 3 then [0, 5, 6, 7] else [0, 2, 5, 6, 7]),
      if form = 5 then .ok () else side (cpSrcSpan form src.1 v) src.1 false [0, 2, 3, 4, 5, 6, 7]]

/-- A copy at its slot (R300 to R302): it enters the copy queue; an empty one completes at its clause's end
(`State.endEmptyCopies`). -/
def copyOp (s : State) (gd : Guard) (form : Nat) (d a b x : Opnd) : Host.Outcome State Fault Refusal :=
  onceReading s gd [(a, .w128), (b, .w128), (x, .w128)] fun s c vs =>
    let dst := nth vs 0
    let src := nth vs 1
    let v := (nth vs 2).1
    match s.copyCheck c form dst src v with
    | .error e => .error e
    | .ok _ =>
      if cpTotal form v ≠ 0 ∧ Config.copyQueue ≤ (s.core c.r.die c.r.core).copies.length then .error .hold
      else
        .ok ((s.markPending c d).modCore c.r.die c.r.core fun k => { k with
          copies := k.copies ++
            [⟨c.r, c.t.cove, handleNo d, form, dst.1, src.1, v, 0, s.link.nextId⟩] })

/-- One stretch of a copy (R303): source and destination addresses and bytes. -/
structure Stretch where
  src : Nat
  dst : Nat
  n : Nat
  deriving DecidableEq, Repr

/-- Where bytes that start at an address may go in one piece: to the end of its granule. -/
def toGranule (a : Nat) : Nat := granuleSize - a % granuleSize

/-- The bytes of one piece: within a granule on both sides, and whole chunks by themselves where both
sides lie alike in their chunks, so that tags can go with them (R301). -/
def pieceLength (x : Stretch) : Nat :=
  let n := min x.n (min (toGranule x.src) (toGranule x.dst))
  if x.src % 16 = x.dst % 16 then
    if x.src % 16 ≠ 0 then min n (16 - x.src % 16)
    else if 16 ≤ n then n / 16 * 16 else n
  else n

/-- The fill pattern from a place on (R303). -/
def fillBytes (q p n : Nat) : List Byte :=
  (List.range n).map fun i => BitVec.ofNat 8 (q / 2 ^ (8 * ((p + i) % 4)))

/-- What a copy needs while it runs. -/
structure CopyEnv where
  cr : CoveRef
  cv : Cove
  op : CopyOp
  keep : Bool
  deriving DecidableEq, Repr

/-- Bytes written to the destination side of a copy, to every target of cp.mc. -/
def State.copyWrite (s : State) (e : CopyEnv) (a : Nat) (bs : List Byte) (tags : List Bool) :
    Except Stop State :=
  if e.op.form = 4 then
    (mcTargets e.op.desc).foldl (fun acc j =>
      match acc, s.mcCove e.cr e.cv j with
      | .ok s1, some (k, x) => .ok (s1.scratchSet k.die k.core (x.scratchBase + a) bs tags)
      | .ok s1, none => .ok s1
      | .error x, _ => .error x) (.ok s)
  else s.sideWrite e.cr e.cv (capSpace e.op.dst) (capSystem e.op.dst) a bs tags

/-- One piece read and written: the state, the bytes done, and what stopped it. -/
def State.copyPiece (s : State) (e : CopyEnv) (place : Nat) (x : Stretch) :
    State × Nat × Option Stop :=
  let n := pieceLength x
  let read : Except Stop SideRead :=
    if e.op.form = 5 then .ok ⟨s, fillBytes (cpQ e.op.desc) place n, [], n⟩
    else s.sideRead e.cr e.cv (capSpace e.op.src) (capSystem e.op.src) x.src n
  match read with
  | .error y => (s, 0, some y)
  | .ok r =>
    let tags := if e.keep && x.src % 16 == x.dst % 16 && x.src % 16 == 0 && r.good % 16 == 0 then
      r.tags.take (r.good / 16) else []
    if r.good = 0 then (r.state, 0, some (.trap .uncorrectable (dw x.src)))
    else
      match r.state.copyWrite e x.dst (r.bytes.take r.good) tags with
      | .error y => (r.state, 0, some y)
      | .ok s1 =>
        (s1, r.good, if r.good < n then some (.trap .uncorrectable (dw (x.src + r.good))) else none)

/-- A stretch copied piece by piece. -/
def State.copyStretch (e : CopyEnv) : Nat → State → Nat → Stretch → State × Nat × Option Stop
  | 0, s, _, _ => (s, 0, none)
  | fuel + 1, s, place, x =>
    if x.n = 0 then (s, 0, none)
    else
      match s.copyPiece e place x with
      | (s1, k, some y) => (s1, k, some y)
      | (s1, k, none) =>
        let (s2, m, y) := State.copyStretch e fuel s1 (place + k) ⟨x.src + k, x.dst + k, x.n - k⟩
        (s2, k + m, y)

/-- The index of element i of a gather or scatter, with its poison (R302). -/
def State.copyIndex (s : State) (e : CopyEnv) (i : Nat) : State × Option Nat :=
  let p := e.cv.scratchBase + cpQ e.op.desc + 4 * i
  let (s1, bs, bad) := s.readScratch e.cr.die e.cr.core p 4
  (s1, if bad then none else some (leNat bs))

/-- The stretch that starts at unit p of a copy (R303), after its index is read and an indexed element
checked. -/
def State.stretchAt (s : State) (e : CopyEnv) (p : Nat) : State × Except Stop Stretch :=
  let v := e.op.desc
  let src := capCursor e.op.src
  let dst := capCursor e.op.dst
  let L := cpL v
  match e.op.form with
  | 1 =>
    let row := p / L
    let col := p % L
    (s, .ok ⟨((src : Int) + row * strideOf (cpQ v)).toNat + col,
      ((dst : Int) + row * strideOf (cpP v)).toNat + col, L - col⟩)
  | 2 | 3 =>
    match s.copyIndex e p with
    | (s1, none) => (s1, .error (.trap .uncorrectable (dw (cpQ v + 4 * p))))
    | (s1, some i) =>
      let gather := e.op.form == 2
      let a := (if gather then src else dst) + i * cpP v
      match capFailure (if gather then e.op.src else e.op.dst) true
          (if gather then permRead else permWrite) a (cpS v) with
      | some x => (s1, .error (.trap x (dw a)))
      | none => (s1, .ok (if gather then ⟨a, dst + p * cpS v, cpS v⟩ else ⟨src + p * cpS v, a, cpS v⟩))
  | _ => (s, .ok ⟨src + p, dst + p, L - p⟩)

/-- Units done by bytes of a stretch: elements for gather and scatter, else bytes. -/
def unitsDone (e : CopyEnv) (x : Stretch) (bytes : Nat) : Nat :=
  if indexedForm e.op.form then bytes / max x.n 1 else bytes

/-- A stretch cut so that a copy counted in bytes does not pass a count. -/
def Stretch.upTo (x : Stretch) (e : CopyEnv) (left : Nat) : Stretch :=
  if indexedForm e.op.form then x else { x with n := min x.n left }

/-- A copy run from unit p up to a count: the state, the count reached, and what stopped it. -/
def State.copyRun (e : CopyEnv) (limit : Nat) : Nat → State → Nat → State × Nat × Option Stop
  | 0, s, p => (s, p, none)
  | fuel + 1, s, p =>
    if limit ≤ p then (s, p, none)
    else
      match s.stretchAt e p with
      | (s1, .error y) => (s1, p, some y)
      | (s1, .ok y) =>
        let x := y.upTo e (limit - p)
        match State.copyStretch e (x.n + 1) s1 p x with
        | (s2, k, some y) => (s2, p + unitsDone e x k, some y)
        | (s2, k, none) => State.copyRun e limit fuel s2 (p + max 1 (unitsDone e x k))

/-- A completed copy's handle is written, then its arrival made (R304). -/
def State.landCopy (s : State) (op : CopyOp) (w : DWord) : State :=
  let s1 := s.completeHandle op.owner op.handle w
  if cpArrives op.desc then
    match s1.cove? op.cove with
    | some c => s1.copyArrive op.cove c (cpBarrier op.desc)
    | none => s1
  else s1

/-- A thread is held within a clause. -/
def State.heldAt (s : State) (r : TRef) : Bool := ((s.thread? r).map Thread.held).getD false

/-- A copy leaves its core: its handle is written, then its arrival made (R304). While its thread is held in the
clause that issued it, whose handles are written at its end (R60), both wait for that end. -/
def State.endCopy (s : State) (d : DieId) (core : Nat) (op : CopyOp) (w : DWord) : State :=
  let s1 := s.modCore d core fun k => { k with copies := k.copies.erase op }
  if s1.heldAt op.owner then s1.modCore d core fun k => { k with ended := k.ended ++ [(op, w)] }
  else s1.landCopy op w

/-- The completed copies of a core whose threads' clauses have ended: their handles are written, then their
arrivals made (R304). -/
def State.landEnded (s : State) (d : DieId) (core : Nat) : State :=
  ((s.core d core).ended.filter fun e => !s.heldAt e.1.owner).foldl (fun s e => s.landCopy e.1 e.2)
    (s.modCore d core fun k => { k with ended := k.ended.filter fun e => s.heldAt e.1.owner })

/-- What a copy runs in. -/
def copyEnv (c : Cove) (op : CopyOp) : CopyEnv :=
  ⟨op.cove, c, op, op.form != 5 && capHas op.src permLoadCap && capHas op.dst permStoreCap⟩

/-- A copy runs to its end (R298, R300, R303): the word of its handle. -/
def State.runCopy (s : State) (d : DieId) (core : Nat) (c : Cove) (op : CopyOp) :
    Host.Outcome State Fault Refusal :=
  let total := cpTotal op.form op.desc
  match State.copyRun (copyEnv c op) total (total + 1) s op.progress with
  | (s1, n, none) => .next (s1.endCopy d core op (handleWord 0 n))
  | (s1, n, some (.trap cause x)) => .next (s1.endCopy d core op (stopWord n (.trap cause x)))
  | (_, _, some (.halt f)) => .fault f
  | (_, _, some .hold) => .next s

/-- The empty copies of a core whose clauses have ended complete: their handles are written, then their
arrivals made (R302, R304). -/
def State.endEmptyCopies (s : State) (d : DieId) (core : Nat) : State :=
  ((s.core d core).copies.filter fun op =>
    cpTotal op.form op.desc == 0 && !s.heldAt op.owner).foldl
    (fun s op => s.endCopy d core op (handleWord 0 0)) s

/-- The count at which a copy stops under a granularity of bytes (R337): the first boundary of what it has
moved at or past its progress. -/
def CopyOp.stopAt (op : CopyOp) (unit : Nat) : Nat :=
  let each := if indexedForm op.form then max 1 (cpS op.desc) else 1
  let bytes := (op.progress * each + unit - 1) / unit * unit
  min (cpTotal op.form op.desc) ((bytes + each - 1) / each)

/-- A copy run up to a boundary and stopped there with its progress kept (R337, R361): the copy as it stops,
or none where it has come to its end. While a granule it meets is in transfer it stops where it is. -/
def State.stopCopy (s : State) (d : DieId) (core : Nat) (c : Cove) (op : CopyOp) (unit : Nat) :
    State × Option CopyOp :=
  match State.copyRun (copyEnv c op) (op.stopAt unit) (op.stopAt unit + 1) s op.progress with
  | (s1, n, none) =>
    if cpTotal op.form op.desc ≤ n then (s1.endCopy d core op (handleWord 0 n), none)
    else (s1, some { op with progress := n })
  | (s1, n, some (.trap cause x)) => (s1.endCopy d core op (stopWord n (.trap cause x)), none)
  | (_, _, some _) => (s, some op)

/-! The units of a context that stops (R361). -/

/-- The coves of a context that are resident, without those of band launches, which are never pre-empted
(R411). -/
def State.covesIn (s : State) (ctx : Nat) : List (CoveRef × Cove) :=
  s.coves.filter fun e => e.2.ctx == ctx && e.2.band.isNone

/-- The granularity entry that applies to a context: that of its highest resident launch (R337). -/
def State.policy (s : State) (ctx : Nat) (x : Context) : Nat :=
  let prio := (s.covesIn ctx).foldl (fun n e =>
    max n (((s.entry? x.die e.2.launch).map (·.priority)).getD 0)) 0
  ((s.vi x.die x.vi).granularity.getD prio 0).toNat

/-- A copy of a cove that stops short of its end. One without a handle has no form in a copy record (R365), so
it runs to its end where the image must hold all, at a checkpoint (log 38); an empty one completes with its
clause (R302). -/
def stopsCopy (cv : CoveRef) (ckpt : Bool) (op : CopyOp) : Bool :=
  op.cove == cv && (op.handle.isSome || !ckpt) && cpTotal op.form op.desc != 0

/-- The units that hold work of a cove told to stop (R361, R337): rays park at once, or their rounds
finish; copies stop at a boundary of their count, or finish. -/
def State.stopUnits (s : State) (ctx policy : Nat) (ckpt : Bool) (cv : CoveRef) : State :=
  let s1 := if policy / 4 % 4 = 1 then s.parkRays cv.die cv.core fun x => x.cove == cv else s
  if policy % 4 = 1 ∨ policy % 4 = 2 then
    ((s1.core cv.die cv.core).copies.filter (stopsCopy cv ckpt)).foldl (fun s op =>
      match s.cove? cv with
      | none => s
      | some c =>
        match s.stopCopy cv.die cv.core c op (if policy % 4 = 1 then 4096 else 48) with
        | (s2, none) => s2
        | (s2, some o) => (s2.modCore cv.die cv.core fun k => { k with copies := k.copies.erase op }).modCtx
            ctx fun x => { x with copies := x.copies ++ [o] }) s1
  else s1

/-- The units told again to stop what held threads of a stopping context have issued since (R361). -/
def State.stopLate (s : State) (d : DieId) (core : Nat) : State :=
  s.contexts.foldl (fun s e =>
    if e.2.status = .stopping then
      ((s.covesIn e.1).filter fun k => k.1.die == d && k.1.core == core && k.2.recorded.isNone).foldl
        (fun s k => s.stopUnits e.1 (s.policy e.1 e.2) e.2.ckpt.isSome k.1) s
    else s) s

/-- cp.blk (R303). -/
def execCpBlk (gd : Guard) (d a b c : Opnd) (s : State) : Host.Outcome State Fault Refusal :=
  copyOp s gd 0 d a b c

/-- cp.tile (R303). -/
def execCpTile (gd : Guard) (d a b c : Opnd) (s : State) : Host.Outcome State Fault Refusal :=
  copyOp s gd 1 d a b c

/-- cp.gat (R303). -/
def execCpGat (gd : Guard) (d a b c : Opnd) (s : State) : Host.Outcome State Fault Refusal :=
  copyOp s gd 2 d a b c

/-- cp.sct (R303). -/
def execCpSct (gd : Guard) (d a b c : Opnd) (s : State) : Host.Outcome State Fault Refusal :=
  copyOp s gd 3 d a b c

/-- cp.mc (R303). -/
def execCpMc (gd : Guard) (d a b c : Opnd) (s : State) : Host.Outcome State Fault Refusal :=
  copyOp s gd 4 d a b c

/-- cp.fill (R303). -/
def execCpFill (gd : Guard) (d a c : Opnd) (s : State) : Host.Outcome State Fault Refusal :=
  copyOp s gd 5 d a .none c

/-- A copy in flight completes (R298, R304): it performs all it has left, unless an access before its
fork is outstanding (R223), or a granule it meets is in transfer. -/
def copyCompleteOp (die : DieId) (core idx : Nat) (s : State) : Host.Outcome State Fault Refusal :=
  match (s.core die core).copies[idx]? with
  | none => .next s
  | some op =>
    match s.cove? op.cove with
    | none => .next s
    | some c => if s.forked op.cove c op.after then s.runCopy die core c op else .next s

end Sys2Proof.Machine
end

