-- ==== Sys2Proof/Machine/Special.lean ====
section
/-! DEFINITION. The special functions (R142, R143). An inexact value is held as an odd significand one
bit below the digits computed, so that it lies strictly between them and rounds the right way. -/

namespace Sys2Proof.Machine

/-- The integral square root, bit by bit. -/
def isqrtFrom : Nat → Nat → Nat → Nat
  | 0, _, r => r
  | i + 1, n, r =>
    let x := r + 2 ^ i
    isqrtFrom i n (if x * x ≤ n then x else r)

def isqrt (n : Nat) : Nat := isqrtFrom (n.log2 / 2 + 1) n 0

/-- Digits and their exponent, exact or with a nonzero tail. -/
def digits (exact : Bool) (m : Nat) (e : Int) : Nat × Int :=
  if exact then (m, e) else (2 * m + 1, e - 1)

/-- A significand with an even exponent. -/
def evenExp (m : Nat) (e : Int) : Nat × Int := if e % 2 = 0 then (m, e) else (2 * m, e - 1)

/-- 1 over a nonzero value. -/
def rcpNum (m : Nat) (e : Int) : Nat × Int :=
  let k := m.log2 + 64
  digits (2 ^ k % m == 0) (2 ^ k / m) (-e - k)

/-- The square root of a nonzero value. -/
def sqrtNum (m : Nat) (e : Int) : Nat × Int :=
  let (m, e) := evenExp m e
  let s := isqrt (m * 2 ^ 128)
  digits (s * s == m * 2 ^ 128) s (e / 2 - 64)

/-- 1 over the square root of a nonzero value. -/
def rsqNum (m : Nat) (e : Int) : Nat × Int :=
  let (m, e) := evenExp m e
  let k := m.log2 + 64
  let s := isqrt (2 ^ (2 * k) / m)
  digits (s * s * m == 2 ^ (2 * k)) s (-(e / 2) - k)

/-- The natural logarithm of 2 in units of 2^-256, and half of pi in units of 2^-700. -/
def ln2Fix : Nat :=
  80260960185991308862233904206310070533990667611589946606122867505419956976171
def halfPiFix : Nat :=
  8262602152594147061287983805487470089013074215260758626837214422111344939587307205780117695449900780326368897062760429324593906749130338293746360149972059569773623052881230514159146586943722109827020060943767293

/-- The sum of term x^n k!/(k+n)! in units of 2^-p. -/
def expSum : Nat → Nat → Nat → Nat → Nat → Nat
  | 0, _, _, _, _ => 0
  | fuel + 1, k, p, x, term => term + expSum fuel (k + 1) p x (term * x / 2 ^ p / (k + 1))

/-- The sum of pow z^(2n)/(2n + k) in units of 2^-p. -/
def atanhSum : Nat → Nat → Nat → Nat → Nat → Nat
  | 0, _, _, _, _ => 0
  | fuel + 1, k, p, z, pow => pow / k + atanhSum fuel (k + 2) p z (pow * z / 2 ^ p * z / 2 ^ p)

/-- The alternating sum of term x^(2n) k!/(k+2n)! in units of 2^-p. -/
def waveSum : Nat → Nat → Nat → Nat → Nat → Int
  | 0, _, _, _, _ => 0
  | fuel + 1, k, p, x, term =>
    (term : Int) - waveSum fuel (k + 2) p x (term * x / 2 ^ p * x / 2 ^ p / ((k + 1) * (k + 2)))

/-- 2 to a nonzero value. -/
def ex2Num (neg : Bool) (m : Nat) (e : Int) : Nat × Int :=
  if 9 ≤ e + m.log2 then (1, if neg then -512 else 512)
  else
    let x : Int := m * 2 ^ (e + 160).toNat
    let x := if neg then -x else x
    let n := x / 2 ^ 160
    let f := (x % 2 ^ 160).toNat
    if f = 0 then (1, n)
    else digits false (expSum 60 0 160 (f * ln2Fix / 2 ^ 256) (2 ^ 160)) (n - 160)

/-- The binary logarithm of a nonzero value: sign, digits and exponent; that of 1 is +0 (log 96). -/
def lg2Num (m : Nat) (e : Int) : Bool × Nat × Int :=
  let l := m.log2
  let top := e + l
  if m = 2 ^ l then (decide (top < 0), top.natAbs, 0)
  else
    let z := (m - 2 ^ l) * 2 ^ 160 / (m + 2 ^ l)
    let v : Int := top * 2 ^ 160 + 2 * atanhSum 60 1 160 z z * 2 ^ 256 / ln2Fix
    (decide (v < 0), digits false v.natAbs (-160))

/-- Sine and cosine of a nonzero value, reduced over the whole finite range: the quarter turns, and
the two series of what is left. -/
def waveNum (neg : Bool) (m : Nat) (e : Int) : Nat × Int × Int :=
  let x := m * 2 ^ (e + 700).toNat
  let q := (x + halfPiFix / 2) / halfPiFix
  let r : Int := (x : Int) - q * halfPiFix
  let y := r.natAbs / 2 ^ 400
  let sn := waveSum 40 1 300 y y
  let cs := waveSum 40 0 300 y (2 ^ 300)
  let sn := if r < 0 then -sn else sn
  (q % 4, if neg then -sn else sn, cs)

/-- The digits of a sine or cosine. -/
def waveDigits (v : Int) : Bool × Nat × Int := (decide (v < 0), digits false v.natAbs (-300))

/-- sin and cos by quarter turn; a negative argument inverts the turns' part in the sine's sign. -/
def sinNum (neg : Bool) (m : Nat) (e : Int) : Bool × Nat × Int :=
  let (q, sn, cs) := waveNum neg m e
  let cs' := if neg then -cs else cs
  waveDigits (match q with | 0 => sn | 1 => cs' | 2 => -sn | _ => -cs')

def cosNum (neg : Bool) (m : Nat) (e : Int) : Bool × Nat × Int :=
  let (q, sn, cs) := waveNum neg m e
  let sn' := if neg then -sn else sn
  waveDigits (match q with | 0 => cs | 1 => -sn' | 2 => -cs | _ => sn')

/-- A bound of R143: a number of ulps, or a power of two that bounds the absolute error. -/
inductive Bound where
  | ulps (n : Nat)
  | absolute (k : Nat)
  deriving DecidableEq, Repr

/-- Whether an FP32 value lies within a bound of an exact value. -/
def withinBound (b : Bound) (cand : Nat) (neg : Bool) (m : Nat) (e : Int) : Bool :=
  match fp32.read cand with
  | .num n' m' e' =>
    let (d, de) := sumNum n' m' e' (!neg) m e
    let (u, ue) : Nat × Int := match b with
      | .ulps n => (n, max (e + m.log2 - 23) (-149))
      | .absolute k => (1, -(k : Int))
    decide ((sumNum false d.natAbs de true u ue).1 ≤ 0)
  | _ => false

/-- A bounded .f32 result (R143): the nearest value moved by the implementation's offset where that
stays in the bound, and the nearest value elsewhere. -/
def offsetBits (offset : Int) (b : Bound) (keep : Bool) (near : Nat) (neg : Bool) (m : Nat)
    (e : Int) : Nat :=
  let mag : Int := (near % 2 ^ 31 : Nat)
  let at0 : Int := (if fp32.neg near then -mag else mag) + offset
  let cand := fp32.signed (decide (at0 < 0) || (decide (at0 = 0) && neg)) at0.natAbs
  let normal := decide (2 ^ 23 ≤ near % 2 ^ 31) && decide (2 ^ 23 ≤ cand % 2 ^ 31)
    && decide (near % 2 ^ 31 ≤ fp32.maxFinite)
  if at0.natAbs ≤ fp32.maxFinite && withinBound b cand neg m e && (normal || !keep) then cand
  else near

/-- A nonzero result of rsq, ex2, lg2, sin or cos from its digits (R143): the exact value rounded RNE
with .f16 and where it is exact, within the bound with .f32. -/
def bounded (f : Fmt) (fn x : Nat) (b : Bound) (keep : Bool) (v : Bool × Nat × Int) : Nat × Word :=
  let (neg, m, e) := v
  let (near, fl) := f.round .rn false neg m e
  if f == fp32 && fl &&& flNX != 0 then (offsetBits (Config.specialOffset fn (BitVec.ofNat 32 x)) b keep near neg m e, fl) else (near, fl)

/-- The NaN cases every special function shares. -/
def specialNan (f : Fmt) (s : Bool) : Nat × Word := (f.nan, flagIf s flNV)
def invalid (f : Fmt) : Nat × Word := (f.nan, flNV)
def infOf (f : Fmt) (neg : Bool) (fl : Word) : Nat × Word := (f.signed neg f.infBits, fl)

def rcpOp (f : Fmt) (r : Rnd) (x : Nat) : Nat × Word :=
  match f.read x with
  | .nan s => specialNan f s
  | .inf n => (f.signed n 0, 0)
  | .num n m e =>
    if m = 0 then infOf f n flDZ
    else
      let v := rcpNum m e
      f.roundNum r false n v.1 v.2

def rsqOp (f : Fmt) (x : Nat) : Nat × Word :=
  match f.read x with
  | .nan s => specialNan f s
  | .inf n => if n then invalid f else (0, 0)
  | .num n m e =>
    if m = 0 then infOf f n flDZ
    else if n then invalid f
    else
      let v := rsqNum m e
      bounded f 1 x (.ulps 1) false (false, v.1, v.2)

def sqrtOp (f : Fmt) (r : Rnd) (x : Nat) : Nat × Word :=
  match f.read x with
  | .nan s => specialNan f s
  | .inf n => if n then invalid f else (x, 0)
  | .num n m e =>
    if m = 0 then (f.signed n 0, 0)
    else if n then invalid f
    else
      let v := sqrtNum m e
      f.roundNum r false false v.1 v.2

/-- The value 1. -/
def Fmt.one (f : Fmt) : Nat := f.bias * 2 ^ f.fbits

def ex2Op (f : Fmt) (x : Nat) : Nat × Word :=
  match f.read x with
  | .nan s => specialNan f s
  | .inf n => if n then (0, 0) else infOf f false 0
  | .num n m e =>
    if m = 0 then (f.one, 0)
    else
      let v := ex2Num n m e
      bounded f 3 x (.ulps 2) true (false, v.1, v.2)

/-- Whether a positive value lies in [0.5, 2]. -/
def nearOne (m : Nat) (e : Int) : Bool :=
  decide (-1 ≤ e + m.log2) && (decide (e + m.log2 ≤ 0) || (m == 2 ^ m.log2 && e + m.log2 == 1))

def lg2Op (f : Fmt) (x : Nat) : Nat × Word :=
  match f.read x with
  | .nan s => specialNan f s
  | .inf n => if n then invalid f else infOf f false 0
  | .num n m e =>
    if m = 0 then infOf f true flDZ
    else if n then invalid f
    else bounded f 4 x (if nearOne m e then .absolute 22 else .ulps 2) false (lg2Num m e)

def sinOp (f : Fmt) (x : Nat) : Nat × Word :=
  match f.read x with
  | .nan s => specialNan f s
  | .inf _ => invalid f
  | .num n m e =>
    if m = 0 then (f.signed n 0, 0)
    else bounded f 5 x (.absolute 21) false (sinNum n m e)

def cosOp (f : Fmt) (x : Nat) : Nat × Word :=
  match f.read x with
  | .nan s => specialNan f s
  | .inf _ => invalid f
  | .num n m e =>
    if m = 0 then (f.one, 0)
    else bounded f 6 x (.absolute 21) false (cosNum n m e)

/-- rcp (R142, R143). -/
def execRcp (gd : Guard) (t : Ty) (rnd : Rnd) (d a : Opnd) (s : State) :
    Host.Outcome State Fault Refusal :=
  flt1 s gd t d a fun f x => rcpOp f rnd x

/-- rsq (R142, R143). -/
def execRsq (gd : Guard) (t : Ty) (d a : Opnd) (s : State) : Host.Outcome State Fault Refusal :=
  flt1 s gd t d a rsqOp

/-- sqrt (R142, R143). -/
def execSqrt (gd : Guard) (t : Ty) (rnd : Rnd) (d a : Opnd) (s : State) :
    Host.Outcome State Fault Refusal :=
  flt1 s gd t d a fun f x => sqrtOp f rnd x

/-- ex2 (R142, R143). -/
def execEx2 (gd : Guard) (t : Ty) (d a : Opnd) (s : State) : Host.Outcome State Fault Refusal :=
  flt1 s gd t d a ex2Op

/-- lg2 (R142, R143). -/
def execLg2 (gd : Guard) (t : Ty) (d a : Opnd) (s : State) : Host.Outcome State Fault Refusal :=
  flt1 s gd t d a lg2Op

/-- sin (R142, R143). -/
def execSin (gd : Guard) (t : Ty) (d a : Opnd) (s : State) : Host.Outcome State Fault Refusal :=
  flt1 s gd t d a sinOp

/-- cos (R142, R143). -/
def execCos (gd : Guard) (t : Ty) (d a : Opnd) (s : State) : Host.Outcome State Fault Refusal :=
  flt1 s gd t d a cosOp

end Sys2Proof.Machine
end

