-- ==== Sys2Proof/Machine/Ray.lean ====
section
/-! DEFINITION. Rays (R309 to R316): park records, slots, the traversal of a hierarchy with its triangle
and Gaussian tests, rounds and parking. -/

namespace Sys2Proof.Machine

/-- A 32-bit word of a list of bytes. -/
def wordAt (bs : List Byte) (i : Nat) : Nat := leNat ((bs.drop i).take 4)

/-- A vector of three FP32 values. -/
structure V3 where
  x : Nat
  y : Nat
  z : Nat
  deriving DecidableEq, Repr

def v3At (bs : List Byte) (i : Nat) : V3 := ⟨wordAt bs i, wordAt bs (i + 4), wordAt bs (i + 8)⟩

/-- A vector of exact values, as multiples of the least FP32 subnormal. -/
structure E3 where
  x : Int
  y : Int
  z : Int
  deriving DecidableEq, Repr

/-- The exact values of a vector; none where one is a NaN or an infinity. -/
def V3.exact (v : V3) : Option E3 :=
  match multipleF32 v.x, multipleF32 v.y, multipleF32 v.z with
  | some a, some b, some c => some ⟨a, b, c⟩
  | _, _, _ => none

def E3.sub (a b : E3) : E3 := ⟨a.x - b.x, a.y - b.y, a.z - b.z⟩
def E3.cross (a b : E3) : E3 :=
  ⟨a.y * b.z - a.z * b.y, a.z * b.x - a.x * b.z, a.x * b.y - a.y * b.x⟩
def E3.dot (a b : E3) : Int := a.x * b.x + a.y * b.y + a.z * b.z

/-- A hit: t, a, b and key (R313). -/
structure Hit where
  t : Nat
  a : Nat
  b : Nat
  key : Nat
  deriving DecidableEq, Repr

/-- What a round reads of its park record (R309). -/
structure RayIn where
  origin : V3
  dir : V3
  tmin : Nat
  tmax : Nat
  flags : Nat
  root : Quad
  rootTag : Bool
  deriving DecidableEq, Repr

def f32le (a b : Nat) : Bool := (fp32.read a).le (fp32.read b)
def f32lt (a b : Nat) : Bool :=
  !(fp32.read a).isNan && !(fp32.read b).isNan && !(fp32.read b).le (fp32.read a)

/-- Arithmetic of R315: FP32, RNE, no flag. -/
def fadd32 (a b : Nat) : Nat := (fp32.add .rn a b).1
def fsub32 (a b : Nat) : Nat := (fp32.sub .rn a b).1
def fmul32 (a b : Nat) : Nat := (fp32.mul .rn a b).1
def ffma32 (a b c : Nat) : Nat := (fp32.fma .rn a b c).1
def fneg32 (a : Nat) : Nat := a ^^^ 2 ^ 31
def frcp32 (a : Nat) : Nat := (rcpOp fp32 .rn a).1
def frsq32 (a : Nat) : Nat := (rsqOp fp32 a).1
def one32 : Nat := fp32.one
def two32 : Nat := 0x40000000

/-- dot of R315. -/
def dot32 (a b : V3) : Nat := ffma32 a.z b.z (ffma32 a.y b.y (fmul32 a.x b.x))

/-- Digits of exp(-y) for y = m 2^e at least 0. -/
def expNum (m : Nat) (e : Int) : Nat × Int :=
  if m = 0 then (1, 0)
  else if 8 ≤ e + m.log2 then (1, -512)
  else
    let x : Int := -((m * 2 ^ (e + 256).toNat : Nat) : Int)
    let n := x / ln2Fix
    digits false (expSum 80 0 256 (x % ln2Fix).toNat (2 ^ 256)) (n - 256)

/-- The response of R315: opacity times exp(-dd / 2), within 2 ulp. -/
def responseOf (opacity dd : Nat) : Nat :=
  match fp32.read opacity, fp32.read dd with
  | .num _ m e, .num _ k f =>
    let v := expNum k (f - 1)
    let near := fp32.round .rn false false (m * v.1) (e + v.2)
    if near.2 &&& flNX != 0 then
      offsetBits (Config.responseOffset (BitVec.ofNat 32 opacity) (BitVec.ofNat 32 dd)) (.ulps 2) false
        near.1 false (m * v.1) (e + v.2)
    else near.1
  | .num _ _ _, .inf _ => 0
  | .inf _, .num _ _ _ => fp32.infBits
  | _, _ => fp32.nan

/-- The triangle test (R311, R314) over exact values. -/
def triHit (o d : E3) (cull : Bool) (v0 v1 v2 : E3) (id : Nat) : Option Hit :=
  let a := v0.sub o
  let b := v1.sub o
  let c := v2.sub o
  let e01 := d.dot (a.cross b)
  let e12 := d.dot (b.cross c)
  let e20 := d.dot (c.cross a)
  let s := e01 + e12 + e20
  let same := (decide (0 ≤ e01) && decide (0 ≤ e12) && decide (0 ≤ e20))
    || (decide (e01 ≤ 0) && decide (e12 ≤ 0) && decide (e20 ≤ 0))
  if !same || (e01 == 0 && e12 == 0 && e20 == 0) || (cull && decide (0 < s)) then none
  else
    let n := (v1.sub v0).cross (v2.sub v0)
    some ⟨ratioF32 (n.dot a) s false, ratioF32 e20 s false, ratioF32 e01 s false, 2 ^ 30 + id⟩

/-- A column of the rotation matrix of R315 from products p and q, on the diagonal and off it. -/
def diag32 (p q : Nat) : Nat := fsub32 one32 (fmul32 two32 (fadd32 p q))
def offPlus (p q : Nat) : Nat := fmul32 two32 (fadd32 p q)
def offMinus (p q : Nat) : Nat := fmul32 two32 (fsub32 p q)

/-- The three columns of Q. -/
def rotation (w x y z : Nat) : V3 × V3 × V3 :=
  let m := fmul32
  (⟨diag32 (m y y) (m z z), offPlus (m x y) (m w z), offMinus (m x z) (m w y)⟩,
   ⟨offMinus (m x y) (m w z), diag32 (m x x) (m z z), offPlus (m y z) (m w x)⟩,
   ⟨offPlus (m x z) (m w y), offMinus (m y z) (m w x), diag32 (m x x) (m y y)⟩)

/-- An FP16 value as FP32. -/
def half32 (x : Nat) : Nat := (convertFloat fp32 fp16 .rn false x).1

/-- The Gaussian test (R315). -/
def gaussHit (r : RayIn) (p : List Byte) : Option Hit :=
  let h (i : Nat) : Nat := half32 (leNat ((p.drop (12 + 2 * i)).take 2))
  let dot4 := ffma32 (h 3) (h 3) (ffma32 (h 2) (h 2) (ffma32 (h 1) (h 1) (fmul32 (h 0) (h 0))))
  let k := frsq32 dot4
  let (c0, c1, c2) := rotation (fmul32 (h 0) k) (fmul32 (h 1) k) (fmul32 (h 2) k) (fmul32 (h 3) k)
  let o := r.origin
  let g := v3At p 0
  let v : V3 := ⟨fsub32 o.x g.x, fsub32 o.y g.y, fsub32 o.z g.z⟩
  let s (i : Nat) : Nat := frcp32 (wordAt p (20 + 4 * i))
  let loc (u : V3) : V3 :=
    ⟨fmul32 (dot32 c0 u) (s 0), fmul32 (dot32 c1 u) (s 1), fmul32 (dot32 c2 u) (s 2)⟩
  let xl := loc v
  let dl := loc r.dir
  let a := dot32 dl dl
  let b := dot32 xl dl
  let t := fneg32 (fmul32 b (frcp32 a))
  let dd := (fp32.pick true false (ffma32 b t (dot32 xl xl)) 0).1
  let opacity := wordAt p 32
  let cutoff := wordAt p 36
  if f32lt 0 a && f32le dd (fmul32 cutoff cutoff) && f32le r.tmin t && f32le t r.tmax
      && f32lt 0 opacity then
    some ⟨t, responseOf opacity dd, 0, 2 ^ 31 + wordAt p 40⟩
  else none

/-- One axis of a box against the line of a ray: where it enters and leaves, over the absolute value of
the direction; none where the line runs beside the box. -/
def axisSpan (o d lo hi : Int) : Option (Int × Int × Int) :=
  if 0 ≤ d then some (lo - o, hi - o, d) else some (o - hi, o - lo, -d)

/-- The exact box is met by the line of the ray (R310): on axes the ray runs along, every entry comes
before every exit; on the others the origin lies between the bounds. -/
def meetsBox (axes : List (Int × Int × Int × Int)) : Bool :=
  (axes.all fun a => a.2.1 != 0 || (decide (a.2.2.1 ≤ a.1) && decide (a.1 ≤ a.2.2.2)))
    && (axes.all fun a => axes.all fun b => a.2.1 == 0 || b.2.1 == 0 ||
      (match axisSpan a.1 a.2.1 a.2.2.1 a.2.2.2, axisSpan b.1 b.2.1 b.2.2.1 b.2.2.2 with
        | some p, some q => decide (p.1 * q.2.2 ≤ q.2.1 * p.2.2)
        | _, _ => true))

/-- A bound of a child box as a multiple of the least subnormal. -/
def boxBound (origin : Int) (q e : Nat) : Int :=
  origin + q * 2 ^ (((BitVec.ofNat 8 e).toInt + 149).toNat)

/-- Whether a ray meets the box of child c of a node (R310): a NaN bound is met, an infinite one is used
as it stands and is met by no ray of finite origin. -/
def childMet (o d : E3) (node : List Byte) (c : Nat) : Bool :=
  let org := v3At node 0
  if (fp32.read org.x).isNan || (fp32.read org.y).isNan || (fp32.read org.z).isNan then true
  else
    match org.exact with
    | none => false
    | some g =>
      let q (j : Nat) : Nat := leNat ((node.drop (16 + 12 * c + 2 * j)).take 2)
      let e (j : Nat) : Nat := ((node.getD (12 + j) 0)).toNat
      meetsBox [(o.x, d.x, boxBound g.x (q 0) (e 0), boxBound g.x (q 3) (e 0)),
        (o.y, d.y, boxBound g.y (q 1) (e 1), boxBound g.y (q 4) (e 1)),
        (o.z, d.z, boxBound g.z (q 2) (e 2), boxBound g.z (q 5) (e 2))]

/-- A read through the root capability (R310). -/
def State.rayRead (s : State) (cr : CoveRef) (c : Cove) (r : RayIn) (a n : Nat) :
    Except Stop (State × List Byte) :=
  match capFailure r.root r.rootTag permRead a n with
  | some e => .error (.trap e (dw a))
  | none =>
    match s.sideRead cr c (capSpace r.root) (capSystem r.root) a n with
    | .error e => .error e
    | .ok x =>
      if x.good < n then .error (.trap .uncorrectable (dw (a + x.good))) else .ok (x.state, x.bytes)

/-- A node whose reserved fields are zero (R310). -/
def nodeOk (node : List Byte) : Bool :=
  node.getD 15 0 == 0 && ((node.drop 176).all fun b => b == 0)
    && ((List.range 8).all fun c => leNat ((node.drop (112 + 8 * c)).take 8) / 2 ^ 40 % 2 ^ 18 == 0)

/-- One primitive of a leaf (R311): its hit, or FORMAT_INVALID. -/
def primHit (o d : E3) (r : RayIn) (tri : Bool) (p : List Byte) : Except Stop (Option Hit) :=
  let bad : Except Stop (Option Hit) := .error (.trap .formatInvalid 0)
  if tri then
    if wordAt p 36 / 2 ^ 30 ≠ 0 ∨ leNat (p.drop 40) ≠ 0 then bad
    else
      match (v3At p 0).exact, (v3At p 12).exact, (v3At p 24).exact with
      | some v0, some v1, some v2 => .ok (triHit o d (r.flags.testBit 4) v0 v1 v2 (wordAt p 36))
      | _, _, _ => .ok none
  else if wordAt p 40 / 2 ^ 30 ≠ 0 ∨ wordAt p 44 ≠ 0 then bad
  else .ok (gaussHit r p)

/-- The primitives of a leaf in order. -/
def State.leafHits (cr : CoveRef) (c : Cove) (o d : E3) (r : RayIn) (tri : Bool) :
    Nat → Nat → State → List Hit → Except Stop (State × List Hit)
  | 0, _, s, hs => .ok (s, hs)
  | n + 1, a, s, hs =>
    match s.rayRead cr c r a 48 with
    | .error e => .error e
    | .ok (s1, p) =>
      match primHit o d r tri p with
      | .error e => .error e
      | .ok (some h) => State.leafHits cr c o d r tri n (a + 48) s1 (h :: hs)
      | .ok none => State.leafHits cr c o d r tri n (a + 48) s1 hs

/-- The children of a node that the ray meets: nodes to visit and leaves with their kind, address and
primitives (R309, R310). -/
structure Child where
  kind : Nat
  at' : Nat
  prims : Nat
  deriving DecidableEq, Repr

def nodeChildren (o d : E3) (r : RayIn) (base : Nat) (node : List Byte) : List Child :=
  (List.range 8).filterMap fun c =>
    let e := leNat ((node.drop (112 + 8 * c)).take 8)
    let kind := e / 2 ^ 62
    if kind = 0 ∨ (kind = 2 ∧ r.flags.testBit 5) ∨ (kind = 3 ∧ r.flags.testBit 6) then none
    else if childMet o d node c then some ⟨kind, base + 48 * (e % 2 ^ 40), e / 2 ^ 58 % 16 + 1⟩
    else none

/-- The leaves among a node's children tested in order. -/
def State.childHits (cr : CoveRef) (c : Cove) (o d : E3) (r : RayIn) :
    List Child → State → List Hit → Except Stop (State × List Hit)
  | [], s, hs => .ok (s, hs)
  | x :: xs, s, hs =>
    if x.kind = 1 then State.childHits cr c o d r xs s hs
    else
      match State.leafHits cr c o d r (x.kind == 2) x.prims x.at' s hs with
      | .error e => .error e
      | .ok (s1, hs1) => State.childHits cr c o d r xs s1 hs1

/-- The hierarchy visited from a stack of nodes; a node more than the fuel, 2^24, faults (R310). -/
def State.visit (cr : CoveRef) (c : Cove) (o d : E3) (r : RayIn) (base : Nat) :
    Nat → List Nat → State → List Hit → Except Stop (State × List Hit)
  | _, [], s, hs => .ok (s, hs)
  | 0, _ :: _, _, _ => .error (.trap .formatInvalid 0)
  | fuel + 1, a :: rest, s, hs =>
    match s.rayRead cr c r a 192 with
    | .error e => .error e
    | .ok (s1, node) =>
      if !nodeOk node then .error (.trap .formatInvalid (dw a))
      else
        let kids := nodeChildren o d r base node
        match State.childHits cr c o d r kids s1 hs with
        | .error e => .error e
        | .ok (s2, hs2) =>
          State.visit cr c o d r base fuel
            (((kids.filter fun k => k.kind == 1).map fun k => k.at') ++ rest) s2 hs2

/-- Hits below in (t, key) order. -/
def Hit.before (a b : Hit) : Bool :=
  f32lt a.t b.t || (f32le a.t b.t && f32le b.t a.t && decide (a.key < b.key))

def Hit.same (a b : Hit) : Bool := f32le a.t b.t && f32le b.t a.t && a.key == b.key

/-- A hit put into an ordered list; an equal one is there already (R313). -/
def putHit (h : Hit) : List Hit → List Hit
  | [] => [h]
  | x :: xs => if h.same x then x :: xs else if h.before x then h :: x :: xs else x :: putHit h xs

/-- The hits a round reports (R313): those in range and after the last one returned, in order. -/
def roundHits (r : RayIn) (first' : Bool) (tlast last k : Nat) (hs : List Hit) : List Hit :=
  let mark : Hit := ⟨tlast, 0, 0, last⟩
  ((hs.filter fun h => f32le r.tmin h.t && f32le h.t r.tmax && (first' || mark.before h)).foldr
    putHit []).take k

/-- The park record's checks (R312, R313) beyond its own range: k, the flags, and the hit buffer. -/
def recordStop (cv : Cove) (rec : List Byte) : Option Stop :=
  let flags := wordAt rec 32
  let k := flags % 16
  let buffer := wordAt rec 36
  if k = 0 ∨ 8 < k then some (.trap .formatInvalid (dw k))
  else if flags / 2 ^ 7 ≠ 0 then some (.trap .formatInvalid (dw (flags / 2 ^ 7)))
  else if buffer % 16 ≠ 0 then some (.trap .align (dw buffer))
  else if cv.declared < buffer + 16 * k then some (.trap .capBounds (dw buffer))
  else none

/-- The record of a ray: the state, its bytes, and whether an error poisons it. -/
def State.readRecord (s : State) (cr : CoveRef) (c : Cove) (record : Nat) :
    State × List Byte × Bool :=
  s.readScratch cr.die cr.core (c.scratchBase + record) 128

/-- What a round takes from its record. -/
def rayIn (s : State) (cr : CoveRef) (c : Cove) (record : Nat) (rec : List Byte) : RayIn where
  origin := v3At rec 0
  dir := v3At rec 12
  tmin := wordAt rec 24
  tmax := wordAt rec 28
  flags := wordAt rec 32
  root := quadOf ((rec.drop 48).take 16)
  rootTag := s.scratchTag cr.die cr.core ((c.scratchBase + record) / 16 + 3)

/-- The hits of a whole traversal from a root that lies as nodes do (R310): none for a ray that can find none
(R313). -/
def State.traverse (s : State) (cr : CoveRef) (c : Cove) (r : RayIn) :
    Except Stop (State × List Hit) :=
  let base := capBase r.root
  if ((capCursor r.root : Int) - base) % 48 ≠ 0 then
    .error (.trap .formatInvalid (dw (capCursor r.root)))
  else
    match r.origin.exact, r.dir.exact with
    | some o, some d =>
      if d = ⟨0, 0, 0⟩ || (fp32.read r.tmin).isNan || (fp32.read r.tmax).isNan then .ok (s, [])
      else State.visit cr c o d r base.toNat (2 ^ 24) [capCursor r.root] s []
    | _, _ => .ok (s, [])

/-- One round (R313): the hits written, the record updated, and the count. -/
def State.rayRound (s : State) (cr : CoveRef) (c : Cove) (record : Nat) : Except Stop (State × Nat) :=
  if record % 16 ≠ 0 then .error (.trap .align (dw record))
  else if c.declared < record + 128 then .error (.trap .capBounds (dw record))
  else
    match s.readRecord cr c record with
    | (_, _, true) => .error (.trap .uncorrectable (dw record))
    | (s1, rec, false) =>
      let word64 := wordAt rec 64
      match recordStop c rec with
      | some e => .error e
      | none =>
        if word64 % 4 = 3 ∨ word64 / 8 ≠ 0 ∨ leNat ((rec.drop 40).take 8) ≠ 0 then .error (.trap .formatInvalid (dw word64))
        else
          let r := rayIn s1 cr c record rec
          match s1.traverse cr c r with
          | .error e => .error e
          | .ok (s2, hs) =>
            let k := r.flags % 16
            let out := roundHits r (wordAt rec 68 == 0) (wordAt rec 72) (wordAt rec 76) k hs
            let s3 := s2.scratchPut cr.die cr.core (c.scratchBase + wordAt rec 36)
              (out.flatMap fun h => leBytes 4 h.t ++ leBytes 4 h.a ++ leBytes 4 h.b ++ leBytes 4 h.key)
            let last := out.getLast?
            let tail := leBytes 4 (word64 % 4 + (if out.length < k then 4 else word64 / 4 % 2 * 4))
              ++ leBytes 4 (wordAt rec 68 + out.length)
              ++ leBytes 4 ((last.map Hit.t).getD (wordAt rec 72))
              ++ leBytes 4 ((last.map Hit.key).getD (wordAt rec 76)) ++ List.replicate 48 0
            .ok (s3.scratchPut cr.die cr.core (c.scratchBase + record + 64) tail, out.length)

/-! Slots. -/

/-- A thread's slot on a record. -/
def Core.raySlot (k : Core) (r : TRef) (record : Nat) : Option RaySlot :=
  k.rays.find? fun x => x.owner == r && x.record == record

/-- The state field of a record written, the exhausted bit kept (R309). -/
def State.setRayState (s : State) (cr : CoveRef) (c : Cove) (record v : Nat) : State :=
  let p := c.scratchBase + record + 64
  s.scratchPut cr.die cr.core p (leBytes 4 (leNat (s.scratchBytes cr.die cr.core p 4) / 4 * 4 + v))

/-- A slot freed without a write of its record. -/
def State.freeRay (s : State) (d : DieId) (core : Nat) (x : RaySlot) : State :=
  s.modCore d core fun k => { k with rays := k.rays.erase x }

/-- The least recently used ray of a list with no round in progress. -/
def idleRay : List RaySlot → Option RaySlot
  | [] => none
  | x :: xs =>
    match idleRay xs with
    | some y => some (if x.rounds.isEmpty && decide (x.used ≤ y.used) then x else y)
    | none => if x.rounds.isEmpty then some x else none

/-- A free ray slot, parking an idle ray where all are taken (R300, R316). -/
def State.roomForRay (s : State) (d : DieId) (core : Nat) : Option State :=
  if (s.core d core).rays.length < Config.raySlots then some s
  else (idleRay (s.core d core).rays).map fun x => s.parkRay d core x

/-- A ray put into a slot with its first round. -/
def State.takeRay (s : State) (c : Cur) (record : Nat) (h : List Nat) : State :=
  s.modCore c.r.die c.r.core fun k => { k with
    rays := k.rays ++ [⟨c.r, c.t.cove, record, h, k.useClock, s.link.nextId⟩]
    useClock := k.useClock + 1 }

/-- A round asked of a ray that has a slot; what precedes the instruction precedes the round (R223). -/
def State.addRound (s : State) (c : Cur) (x : RaySlot) (h : List Nat) : State :=
  s.modCore c.r.die c.r.core fun k => { k with
    rays := k.rays.map fun y => if y == x then
      { y with rounds := y.rounds ++ h, used := k.useClock, after := s.link.nextId } else y
    useClock := k.useClock + 1 }

/-- A record's own checks: alignment and range (R312, R316). -/
def recordStopAt (cv : Cove) (record : Nat) : Option Stop :=
  if record % 16 ≠ 0 then some (.trap .align (dw record))
  else if cv.declared < record + 128 then some (.trap .capBounds (dw record))
  else none

/-- The checks of ray.go (R312). -/
def State.rayGoCheck (s : State) (c : Cur) (a : Quad × Bool) (record : Nat) :
    Except Stop State :=
  match recordStopAt c.cv record with
  | some e => .error e
  | none =>
    match s.readRecord c.t.cove c.cv record with
    | (_, _, true) => .error (.trap .uncorrectable s.freeTval)
    | (s1, rec, false) =>
      match recordStop c.cv rec with
      | some e => .error e
      | none =>
        match firstStop [checkRange a permRead (capCursor a.1) 192,
            s1.sideCheck c a.1 (capCursor a.1) 192 false [0, 2, 3, 4, 5, 6, 7]] with
        | .error e => .error e
        | .ok _ => .ok s1

/-- The record that ray.go leaves (R312). -/
def State.startRecord (s : State) (c : Cur) (a : Quad × Bool) (record : Nat) : State :=
  let p := c.cv.scratchBase + record
  let s1 := s.scratchPut c.r.die c.r.core (p + 48) (quadBytes 16 a.1)
  let s2 := if a.2 then s1.scratchTagPut c.r.die c.r.core (p / 16 + 3) true else s1
  s2.scratchPut c.r.die c.r.core (p + 64) (leBytes 4 2 ++ List.replicate 12 0)

/-- ray.go (R312). -/
def rayGoOp (s : State) (gd : Guard) (d a b : Opnd) : Host.Outcome State Fault Refusal :=
  onceReading s gd [(a, .w128), (b, .w32)] fun s c vs =>
    let record := (lo32 (nth vs 1)).toNat
    match s.rayGoCheck c (nth vs 0) record with
    | .error e => .error e
    | .ok s1 =>
      let s2 := match (s1.core c.r.die c.r.core).raySlot c.r record with
        | some x => s1.freeRay c.r.die c.r.core x
        | none => s1
      match s2.roomForRay c.r.die c.r.core with
      | none => .error .hold
      | some s3 =>
        .ok (((s3.startRecord c (nth vs 0) record).takeRay c record (handleNo d).toList).markPending c d)

/-- ray.next (R316). -/
def rayNextOp (s : State) (gd : Guard) (d a : Opnd) : Host.Outcome State Fault Refusal :=
  onceReading s gd [(a, .w32)] fun s c vs =>
    let record := (lo32 (nth vs 0)).toNat
    match recordStopAt c.cv record with
    | some e => .error e
    | none =>
      let w := leNat (s.scratchBytes c.r.die c.r.core (c.cv.scratchBase + record + 64) 4)
      let slot := (s.core c.r.die c.r.core).raySlot c.r record
      if w % 4 = 0 ∨ w % 4 = 3 ∨ (w % 4 = 2 ∧ slot = none) then
        .ok (s.markDone c d (faultedWord .formatInvalid 0))
      else if w / 4 % 2 = 1 then .ok (s.markDone c d (handleWord 0 0))
      else
        match slot with
        | some x => .ok ((s.addRound c x (handleNo d).toList).markPending c d)
        | none =>
          match s.roomForRay c.r.die c.r.core with
          | none => .error .hold
          | some s1 =>
            .ok (((s1.setRayState c.t.cove c.cv record 2).takeRay c record (handleNo d).toList).markPending
              c d)

/-- ray.end (R316): a round in progress is abandoned without a handle write. -/
def rayEndOp (s : State) (gd : Guard) (a : Opnd) : Host.Outcome State Fault Refusal :=
  onceReading s gd [(a, .w32)] fun s c vs =>
    let record := (lo32 (nth vs 0)).toNat
    match recordStopAt c.cv record with
    | some e => .error e
    | none =>
      let s1 := match (s.core c.r.die c.r.core).raySlot c.r record with
        | some x => s.freeRay c.r.die c.r.core x
        | none => s
      .ok (s1.setRayState c.t.cove c.cv record 0)

/-- A round's end at its slot: the next round asked of the ray stands first. -/
def State.popRound (s : State) (d : DieId) (core : Nat) (x : RaySlot) : State :=
  s.modCore d core fun k => { k with
    rays := k.rays.map fun y => if y == x then { y with rounds := y.rounds.drop 1 } else y }

/-- The next round of a ray (R313); one asked for since the link drains finds no tree across it (R295). -/
def State.roundOf (s : State) (x : RaySlot) (c : Cove) : Except Stop (State × Nat) :=
  let root : Quad := quadOf (s.scratchBytes x.cove.die x.cove.core (c.scratchBase + x.record + 48) 16)
  if s.lateFor x.cove.die x.after (capSpace root) then .error (.trap .loadFault (dw (capCursor root)))
  else s.rayRound x.cove c x.record

/-- A round that ends (R313): done with its count, or faulted, which parks the ray where no further
round waits on it (R316). -/
def State.endRound (s : State) (d : DieId) (core : Nat) (c : Cove) (x : RaySlot) (h : Nat) :
    Host.Outcome State Fault Refusal :=
  match s.roundOf x c with
  | .ok (s1, n) =>
    .next (((s1.popRound d core x).completeHandle x.owner (some h) (handleWord 0 n)).count d core c.ctx
      fun k => { k with rayRounds := k.rayRounds + 1 })
  | .error (.trap cause _) =>
    let s1 := s.completeHandle x.owner (some h) (faultedWord cause 0)
    .next (if x.rounds.length ≤ 1 then (s1.freeRay d core x).setRayState x.cove c x.record 1
      else s1.popRound d core x)
  | .error (.halt f) => .fault f
  | .error .hold => .next s

/-- ray.go (R312). -/
def execRayGo (gd : Guard) (d a b : Opnd) (s : State) : Host.Outcome State Fault Refusal :=
  rayGoOp s gd d a b

/-- ray.next (R316). -/
def execRayNext (gd : Guard) (d a : Opnd) (s : State) : Host.Outcome State Fault Refusal :=
  rayNextOp s gd d a

/-- ray.end (R316). -/
def execRayEnd (gd : Guard) (a : Opnd) (s : State) : Host.Outcome State Fault Refusal :=
  rayEndOp s gd a

/-- A traversal round completes (R313). -/
def rayRoundCompleteOp (die : DieId) (core idx : Nat) (s : State) :
    Host.Outcome State Fault Refusal :=
  match (s.core die core).rays[idx]? with
  | none => .next s
  | some x =>
    match s.cove? x.cove, x.rounds.head? with
    | some c, some h => if s.forked x.cove c x.after then s.endRound die core c x h else .next s
    | _, _ => .next s

end Sys2Proof.Machine
end

