-- ==== Sys2Proof/Machine/Search.lean ====
section
/-! DEFINITION. Motion search (R317): its slot checks, the full-pel and fractional search, and its
completion. -/

namespace Sys2Proof.Machine

/-- Fields of the search descriptor (R317). -/
def meResult (v : Quad) : Nat := qbits v 96 19
def meHeight (v : Quad) : Nat := qbits v 64 16
def meWidth (v : Quad) : Nat := qbits v 48 16
def mePitch (v : Quad) : Nat := qbits v 32 16
def meY (v : Quad) : Nat := qbits v 16 16
def meX (v : Quad) : Nat := qbits v 0 16

/-- The value of the first descriptor field that fails, in the order of R317's table. -/
def meBadField (v : Quad) : Option Nat :=
  if qbits v 115 13 ≠ 0 then some (qbits v 115 13)
  else if qbits v 80 16 ≠ 0 then some (qbits v 80 16)
  else if meY v % 8 ≠ 0 then some (meY v)
  else if meX v % 8 ≠ 0 then some (meX v)
  else none

/-- A coordinate clamped to a plane of a size. -/
def clampTo (x : Int) (size : Nat) : Nat := min x.toNat (size - 1)

/-- The rectangle of pixels that a block's search reads: first row and column, rows and columns. -/
structure PelBox where
  row : Nat
  col : Nat
  rows : Nat
  cols : Nat
  deriving DecidableEq, Repr

/-- The current block (R317). -/
def meBlock (v : Quad) : PelBox := ⟨meY v, meX v, 8, 8⟩

/-- The reference pixels within 32 pels of the block, clamped to the plane. -/
def meWindow (v : Quad) : PelBox :=
  let r0 := clampTo ((meY v : Int) - 32) (meHeight v)
  let r1 := clampTo ((meY v : Int) + 39) (meHeight v)
  let c0 := clampTo ((meX v : Int) - 32) (meWidth v)
  let c1 := clampTo ((meX v : Int) + 39) (meWidth v)
  ⟨r0, c0, r1 - r0 + 1, c1 - c0 + 1⟩

/-- The address range of a rectangle in a plane. -/
def PelBox.range (b : PelBox) (cap v : Quad) : Nat × Nat :=
  (capCursor cap + b.row * mePitch v + b.col, (b.rows - 1) * mePitch v + b.cols)

/-- The slot checks of me.srch in the order of R300. -/
def State.searchCheck (s : State) (c : Cur) (a b : Quad × Bool) (v : Quad) : Except Stop Unit :=
  match meBadField v with
  | some x => .error (.trap .formatInvalid (dw x))
  | none =>
    let p := (meWindow v).range a.1 v
    let q := (meBlock v).range b.1 v
    firstStop [
      require (meResult v % 8 == 0) .align (dw (meResult v)),
      checkRange a permRead p.1 p.2,
      checkRange b permRead q.1 q.2,
      require (decide (meResult v + 8 ≤ c.cv.declared)) .capBounds (dw (meResult v)),
      s.sideCheck c a.1 p.1 p.2 false [0, 2, 3, 4, 5, 6, 7],
      s.sideCheck c b.1 q.1 q.2 false [0, 2, 3, 4, 5, 6, 7]]

/-- me.srch at its slot (R300, R317). -/
def searchOp (s : State) (gd : Guard) (d a b x : Opnd) : Host.Outcome State Fault Refusal :=
  onceReading s gd [(a, .w128), (b, .w128), (x, .w128)] fun s c vs =>
    match s.searchCheck c (nth vs 0) (nth vs 1) (nth vs 2).1 with
    | .error e => .error e
    | .ok _ =>
      .ok ((s.markPending c d).modCore c.r.die c.r.core fun k => { k with
        searches := k.searches ++
          [⟨c.r, c.t.cove, handleNo d, (nth vs 0).1, (nth vs 1).1, (nth vs 2).1, s.link.nextId⟩] })

/-- Rows of pixels read. -/
abbrev Pels := List (List Nat)

/-- A rectangle of a plane read row by row; a poisoned pixel is consumed (R193). -/
def State.readPels (s : State) (cr : CoveRef) (c : Cove) (cap v : Quad) (b : PelBox) :
    Nat → Except Stop (State × Pels)
  | 0 => .ok (s, [])
  | n + 1 =>
    match s.readPels cr c cap v b n with
    | .error e => .error e
    | .ok (s1, rows) =>
      let a := capCursor cap + (b.row + n) * mePitch v + b.col
      match s1.sideRead cr c (capSpace cap) (capSystem cap) a b.cols with
      | .error e => .error e
      | .ok r =>
        if r.good < b.cols then .error (.trap .uncorrectable (dw (a + r.good)))
        else .ok (r.state, rows ++ [r.bytes.map BitVec.toNat])

/-- A pixel of a rectangle by its coordinates in the plane. -/
def pelAt (p : Pels) (b : PelBox) (x y : Nat) : Nat := (p.getD (y - b.row) []).getD (x - b.col) 0

/-- What a search compares. -/
structure SearchIn where
  desc : Quad
  reference : Pels
  current : Pels
  deriving DecidableEq, Repr

/-- A reference pixel with its coordinates clamped to the plane (R317). -/
def SearchIn.ref (e : SearchIn) (x y : Int) : Nat :=
  pelAt e.reference (meWindow e.desc) (clampTo x (meWidth e.desc)) (clampTo y (meHeight e.desc))

/-- The quarter-pel mean of four pixels (R317, step 3). -/
def quarter (fx fy p00 p10 p01 p11 : Nat) : Nat :=
  ((4 - fx) * (4 - fy) * p00 + fx * (4 - fy) * p10 + (4 - fx) * fy * p01 + fx * fy * p11 + 8) / 16

/-- A reference sample at a position in quarter pels. -/
def SearchIn.sample (e : SearchIn) (qx qy : Int) : Nat :=
  let x := qx / 4
  let y := qy / 4
  quarter (qx % 4).toNat (qy % 4).toNat (e.ref x y) (e.ref (x + 1) y) (e.ref x (y + 1))
    (e.ref (x + 1) (y + 1))

/-- The sum of absolute differences of the block at a vector in quarter pels. -/
def SearchIn.sad (e : SearchIn) (vx vy : Int) : Nat :=
  ((List.range 64).map fun i =>
    let x := meX e.desc + i % 8
    let y := meY e.desc + i / 8
    ((e.sample (4 * x + vx) (4 * y + vy) : Int)
      - pelAt e.current (meBlock e.desc) x y).natAbs).foldl (· + ·) 0

/-- A candidate vector, in quarter pels, with its SAD. -/
structure Cand where
  x : Int
  y : Int
  sad : Nat
  deriving DecidableEq, Repr

/-- The full-pel order of R317: least SAD, then |dx| + |dy|, then dy, then dx. -/
def Cand.before (a b : Cand) : Bool :=
  if a.sad ≠ b.sad then a.sad < b.sad
  else if a.x.natAbs + a.y.natAbs ≠ b.x.natAbs + b.y.natAbs then
    a.x.natAbs + a.y.natAbs < b.x.natAbs + b.y.natAbs
  else if a.y ≠ b.y then a.y < b.y
  else a.x < b.x

/-- The candidate at a vector. -/
def SearchIn.cand (e : SearchIn) (x y : Int) : Cand := ⟨x, y, e.sad x y⟩

/-- Step 1 of R317. -/
def SearchIn.fullPel (e : SearchIn) : Cand :=
  (List.range (65 * 65)).foldl (fun best i =>
    let c := e.cand (4 * ((i % 65 : Nat) - 32 : Int)) (4 * ((i / 65 : Nat) - 32 : Int))
    if c.before best then c else best) (e.cand 0 0)

/-- Step 2 of R317 at a distance in quarter pels: the neighbours in raster order. -/
def SearchIn.refine (e : SearchIn) (centre : Cand) (k : Int) : Cand :=
  ([(-k, -k), (0, -k), (k, -k), (-k, 0), (k, 0), (-k, k), (0, k), (k, k)] : List (Int × Int)).foldl
    (fun best p =>
      let x := centre.x + p.1
      let y := centre.y + p.2
      if 128 < x.natAbs ∨ 128 < y.natAbs then best
      else if e.sad x y < best.sad then e.cand x y else best) centre

/-- The 8-byte result (R317). -/
def SearchIn.result (e : SearchIn) : DWord :=
  let c := e.refine (e.refine e.fullPel 2) 1
  (0 : BitVec 16) ++ BitVec.ofNat 16 c.sad ++ BitVec.ofInt 16 c.y ++ BitVec.ofInt 16 c.x

/-- The result of a search, and the state after its reads; in a plane without pixels no rule states one,
and it is a free value (log 2). -/
def State.searchResult (s : State) (c : Cove) (op : SearchOp) : Except Stop (State × DWord) :=
  if meWidth op.desc = 0 ∨ meHeight op.desc = 0 then
    .ok (s.draw.2, (s.draw.1.setWidth 48 : BitVec 48).setWidth 64)
  else
    match s.readPels op.cove c op.reference op.desc (meWindow op.desc) (meWindow op.desc).rows with
    | .error e => .error e
    | .ok (s1, rf) =>
      match s1.readPels op.cove c op.current op.desc (meBlock op.desc) 8 with
      | .error e => .error e
      | .ok (s2, cu) => .ok (s2, (SearchIn.mk op.desc rf cu).result)

/-- A search leaves its core and its handle is written. -/
def State.endSearch (s : State) (d : DieId) (core : Nat) (op : SearchOp) (w : DWord) : State :=
  (s.modCore d core fun k => { k with searches := k.searches.erase op }).completeHandle
    op.owner op.handle w

/-- A search run to its end (R298, R317). -/
def State.runSearch (s : State) (d : DieId) (core : Nat) (c : Cove) (op : SearchOp) :
    Host.Outcome State Fault Refusal :=
  match s.searchResult c op with
  | .ok (s1, w) =>
    .next ((s1.scratchPut d core (c.scratchBase + meResult op.desc) (leBytes 8 w.toNat)).endSearch
      d core op (handleWord 0 1))
  | .error (.trap cause x) => .next (s.endSearch d core op (stopWord 0 (.trap cause x)))
  | .error (.halt f) => .fault f
  | .error .hold => .next s

/-- me.srch (R317). -/
def execMeSrch (gd : Guard) (d a b c : Opnd) (s : State) : Host.Outcome State Fault Refusal :=
  searchOp s gd d a b c

/-- A motion search completes (R317). -/
def meSrchCompleteOp (die : DieId) (core idx : Nat) (s : State) :
    Host.Outcome State Fault Refusal :=
  match (s.core die core).searches[idx]? with
  | none => .next s
  | some op =>
    match s.cove? op.cove with
    | none => .next s
    | some c => if s.forked op.cove c op.after then s.runSearch die core c op else .next s

end Sys2Proof.Machine
end

