-- ==== Sys2Proof/Machine/Sample.lean ====
section
/-! DEFINITION. Sampling and image stores (R318 to R321), the band window that image stores reach
(R415), and hcancel (R307). -/

namespace Sys2Proof.Machine

/-- An image (R318). -/
structure Image where
  cap : Quad
  tag : Bool
  mode : Nat
  filter : Nat
  format : Nat
  pitch : Nat
  height : Nat
  width : Nat
  deriving DecidableEq, Repr

/-- The value of the first field of an image descriptor that fails (R318). -/
def imageBadField (hi : Nat) : Option Nat :=
  if hi / 2 ^ 72 ≠ 0 then some (hi / 2 ^ 72)
  else if hi / 2 ^ 70 % 4 = 3 then some 3
  else if 1 < hi / 2 ^ 68 % 4 then some (hi / 2 ^ 68 % 4)
  else if 4 < hi / 2 ^ 64 % 16 then some (hi / 2 ^ 64 % 16)
  else none

/-- The image of a descriptor record (R318). -/
def imageOf (bs : List Byte) (tag : Bool) : Except Stop Image :=
  let hi := leNat ((bs.drop 16).take 16)
  match imageBadField hi with
  | some x => .error (.trap .formatInvalid (dw x))
  | none => .ok ⟨quadOf (bs.take 16), tag, hi / 2 ^ 70 % 4, hi / 2 ^ 68 % 4, hi / 2 ^ 64 % 16,
      hi / 2 ^ 32 % 2 ^ 32, hi / 2 ^ 16 % 2 ^ 16 + 1, hi % 2 ^ 16 + 1⟩

/-- Bytes of a texel by format (R318). -/
def texelBytes : Nat → Nat
  | 0 => 4
  | 1 => 1
  | 2 => 8
  | 3 => 4
  | _ => 16

/-- The slot checks of an image descriptor (R300, R318). -/
def State.imageCheck (s : State) (c : Cur) (a : Quad × Bool) : Except Stop Unit :=
  let x := capCursor a.1
  firstStop [
    require (x % 16 == 0) .align (dw x),
    checkRange a (permRead + permLoadCap) x 32,
    s.sideCheck c a.1 x 32 false [0, 2, 3, 4, 5, 6, 7]]

/-- Bytes of a range with those in the band buffers of a head in their place (R415): the buffers hold them. -/
def Head.overlay (h : Head) (a : Nat) (bs : List Byte) : List Byte :=
  let size := 64 * bitsOf h.geo 16 16
  (List.range bs.length).map fun i =>
    let off := a + i - (h.window.1 + 65536)
    if h.window.1 + 65536 ≤ a + i ∧ off < 2 * size then
      (memBytes (h.buffers.getD (off / size) []) (off % size) 1).getD 0 0
    else bs.getD i 0

/-- An image descriptor record read; in the band window too, whose buffers hold no tags (R415). -/
def State.readImage (s : State) (cr : CoveRef) (c : Cove) (cap : Quad) : Except Stop (State × Image) :=
  let x := capCursor cap
  let read : Except Stop SideRead :=
    if capSpace cap = 0 ∨ capSpace cap = 7 then
      match s.agentRead { c.engine cr (capSystem cap) with win := true } .read x 32 with
      | .error e => .error e
      | .ok (s1, bs, tags, bad) =>
        let good := match bad with | some y => y - x | none => 32
        match (s1.die cr.die).windowHead c.ctx x 32 with
        | some (_, h) =>
          if x + 32 ≤ h.window.1 + 65536 then .ok ⟨s1, bs, tags, good⟩
          else .ok ⟨s1, h.overlay x bs, [false, false], good⟩
        | none => .ok ⟨s1, bs, tags, good⟩
    else s.sideRead cr c (capSpace cap) (capSystem cap) x 32
  match read with
  | .error e => .error e
  | .ok r =>
    if r.good < 32 then .error (.trap .uncorrectable (dw (x + r.good)))
    else
      match imageOf r.bytes (r.tags.getD 0 false) with
      | .error e => .error e
      | .ok i => .ok (r.state, i)

/-- The address of a texel, checked by R201 (R318). -/
def Image.texelAt (i : Image) (perm x y : Nat) : Except Stop Nat :=
  let a := capCursor i.cap + y * i.pitch + x * texelBytes i.format
  match capFailure i.cap i.tag perm a (texelBytes i.format) with
  | some e => .error (.trap e (dw a))
  | none => .ok a

/-- An index through an address mode (R319). -/
def addressMode (mode n : Nat) (i : Int) : Nat :=
  match mode with
  | 0 => (min (max i 0) (n - 1)).toNat
  | 1 => (i % n).toNat
  | _ =>
    let j := (i % (2 * n)).toNat
    if j < n then j else 2 * n - 1 - j

/-- A texel: its channels, and what each is divided by (255 for unorm). -/
structure Texel where
  channels : List FVal
  whole : Nat
  deriving DecidableEq, Repr

/-- A texel's channels from its bytes; missing channels read 0 and missing alpha 1 (R318). -/
def texelOf (format : Nat) (bs : List Byte) : Texel :=
  let one (d : Nat) : FVal := .num false d 0
  let at' (i n : Nat) : Nat := leNat ((bs.drop (n * i)).take n)
  match format with
  | 0 => ⟨(List.range 4).map fun i => .num false (at' i 1) 0, 255⟩
  | 1 => ⟨[.num false (at' 0 1) 0, one 0, one 0, one 255], 255⟩
  | 2 => ⟨(List.range 4).map fun i => fp16.read (at' i 2), 1⟩
  | 3 => ⟨[fp32.read (at' 0 4), one 0, one 0, one 1], 1⟩
  | _ => ⟨(List.range 4).map fun i => fp32.read (at' i 4), 1⟩

/-- A texel read (R319); a poisoned one is consumed. -/
def State.readTexel (s : State) (cr : CoveRef) (c : Cove) (i : Image) (x y : Int) :
    Except Stop (State × Texel) :=
  match i.texelAt permRead (addressMode i.mode i.width x) (addressMode i.mode i.height y) with
  | .error e => .error e
  | .ok a =>
    if capSpace i.cap = 1 then .error (.trap .loadFault (dw a))
    else
      match s.sideRead cr c (capSpace i.cap) (capSystem i.cap) a (texelBytes i.format) with
      | .error e => .error e
      | .ok r =>
        if r.good < texelBytes i.format then .error (.trap .uncorrectable (dw (a + r.good)))
        else .ok (r.state, texelOf i.format r.bytes)

/-- Texels read in order. -/
def State.readTexels (s : State) (cr : CoveRef) (c : Cove) (i : Image) :
    List (Int × Int) → Except Stop (State × List Texel)
  | [] => .ok (s, [])
  | p :: ps =>
    match s.readTexel cr c i p.1 p.2 with
    | .error e => .error e
    | .ok (s1, t) =>
      match s1.readTexels cr c i ps with
      | .error e => .error e
      | .ok (s2, ts) => .ok (s2, t :: ts)

/-- A coordinate times a size, in 1/256 of a texel, rounded down (R319): a NaN or infinity reads as 0. -/
def texelCoord (u : Word) (size : Nat) : Int :=
  match fp32.read u.toNat with
  | .num n m e =>
    let k : Int := (if n then -1 else 1) * ((m * size * 256 : Nat) : Int)
    if 0 ≤ e then k * (2 ^ e.toNat : Nat) else k / (2 ^ (-e).toNat : Nat)
  | _ => 0

/-- n/d times 2^e rounded to a format, RNE (R130). -/
def Fmt.ratio (f : Fmt) (neg : Bool) (n d : Nat) (e : Int) : Nat × Word :=
  let k := d.log2 + 64
  let q := n * 2 ^ k / d
  f.roundNum .rn false neg (2 * q + if n * 2 ^ k % d = 0 then 0 else 1) (e - k - 1)

/-- Weighted values: weights in 1/65,536. -/
abbrev Mix := List (Nat × FVal)

/-- The exact sum of weighted finite values, in units of 2^(qmin of FP32 - 16). -/
def mixSum : Mix → Int
  | [] => 0
  | (w, .num n m e) :: xs =>
    (if n then -1 else 1) * ((w * m * 2 ^ (e - fp32.qmin).toNat : Nat) : Int) + mixSum xs
  | _ :: xs => mixSum xs

/-- A channel of the weighted sum (R319): texels of weight zero take no part. -/
def mixChannel (f : Fmt) (whole : Nat) (xs : Mix) : Nat × Word :=
  let vs := (xs.filter fun x => x.1 != 0).map Prod.snd
  let opposite := vs.contains (.inf true) && vs.contains (.inf false)
  if vs.any FVal.isNan || opposite then
    (f.nan, flagIf (vs.any FVal.isSignalling || opposite) flNV)
  else
    match vs.find? FVal.isInf with
    | some v => f.putVal .rn v
    | none =>
      let x := mixSum xs
      if x = 0 then (f.signed (!vs.isEmpty && vs.all FVal.neg) 0, 0)
      else f.ratio (decide (x < 0)) x.natAbs whole (fp32.qmin - 16)

/-- One channel of one texel. -/
def Texel.channel (t : Texel) (i : Nat) : FVal := t.channels.getD i (.num false 0 0)

/-- The elements and flags that a sampling operation returns for the texels it read: four for bilinear
filtering and smp.g, in the order x0 y0, x1 y0, x0 y1, x1 y1, with the fractions in 1/256 (R319). -/
def sampleElems (f : Fmt) (gather : Bool) (fx fy : Nat) (ts : List Texel) : List (Nat × Word) :=
  let whole := ((ts.head?).map Texel.whole).getD 1
  match ts with
  | [t] => (List.range 4).map fun i => mixChannel f whole [(65536, t.channel i)]
  | [a, b, c, d] =>
    if gather then [c, d, b, a].map fun t => mixChannel f whole [(65536, t.channel 0)]
    else (List.range 4).map fun i => mixChannel f whole
      [((256 - fx) * (256 - fy), a.channel i), (fx * (256 - fy), b.channel i),
       ((256 - fx) * fy, c.channel i), (fx * fy, d.channel i)]
  | _ => []

/-- The texels that a sampling operation reads, and its fractions. -/
def sampleAt (i : Image) (gather : Bool) (u v : Word) : List (Int × Int) × Nat × Nat :=
  let x := texelCoord u i.width
  let y := texelCoord v i.height
  if !gather && i.filter == 0 then ([(x / 256, y / 256)], 0, 0)
  else
    let p := (x - 128) / 256
    let q := (y - 128) / 256
    ([(p, q), (p + 1, q), (p, q + 1), (p + 1, q + 1)], ((x - 128) % 256).toNat, ((y - 128) % 256).toNat)

/-- The format of a sampling operation's result. -/
def SampleOp.fmt (op : SampleOp) : Fmt := if op.half then fp16 else fp32

/-- The width of its destination. -/
def SampleOp.width (op : SampleOp) : Width := if op.half then .w64 else .w128

/-- A sampling operation's result (R319): the state after its reads, its elements and their flags. -/
def State.sampleResult (s : State) (c : Cove) (op : SampleOp) :
    Except Stop (State × List (Nat × Word)) :=
  match s.readImage op.cove c op.cap with
  | .error e => .error e
  | .ok (s1, i) =>
    let p := sampleAt i op.gather op.u op.v
    if s1.lateFor op.cove.die op.after (capSpace i.cap) then .error (.trap .loadFault (dw (capCursor i.cap)))
    else match s1.readTexels op.cove c i p.1 with
    | .error e => .error e
    | .ok (s2, ts) => .ok (s2, sampleElems op.fmt op.gather p.2.1 p.2.2 ts)

/-- A register that an operation delivers to its thread when it completes: at the end of the clause that
the thread is held in, else at once (R60, R94). -/
def Thread.land (t : Thread) (n : Nat) (w : Width) (v : Quad) (tag : Bool) : Thread :=
  if !t.active then t
  else if t.held then { t with defer := t.defer ++ [.reg n w v tag] }
  else t.write n w v tag

/-- The same once the latent errors of the words written are found (R22). -/
def State.landOne (s : State) (r : TRef) (n : Nat) (w : Width) (v : Quad) (tag : Bool) : State :=
  (s.touchGroup r n w).modThread r (Thread.land · n w v tag)

/-- The same in both threads of a protected pair (R42). -/
def State.land (s : State) (r : TRef) (n : Nat) (w : Width) (v : Quad) (tag : Bool) : State :=
  let s1 := s.landOne r n w v tag
  if s1.pairAt r then s1.landOne (shadowOf r) n w v tag else s1

/-- A sampling operation leaves its core. -/
def State.dropSample (s : State) (d : DieId) (core : Nat) (op : SampleOp) : State :=
  s.modCore d core fun k => { k with samples := k.samples.erase op }

/-- A sampling operation that completes: its destination, its flags and its handle (R298, R319). -/
def State.endSample (s : State) (d : DieId) (core : Nat) (op : SampleOp) (rs : List (Nat × Word)) :
    State :=
  let v := ofNatQ (joinElems (if op.half then 16 else 32) (rs.map Prod.fst))
  ((((s.dropSample d core op).land op.owner op.dest op.width v false).orFlags op.owner
    (orAll (rs.map Prod.snd)))).completeHandle op.owner op.handle (handleWord 0 1)

/-- A fault of a sampling operation (R320): deferred, with the handle faulted. -/
def State.failSample (s : State) (d : DieId) (core : Nat) (op : SampleOp) (cause : Cause) (x : DWord) :
    State :=
  ((s.dropSample d core op).completeHandle op.owner op.handle (faultedWord cause 0)).postDue op.owner
    ⟨1, cause, x, op.clause, op.slot, 0, none⟩

/-- smp and smp.g at their slot (R300, R318). -/
def sampleOp (s : State) (gd : Guard) (gather : Bool) (t : Ty) (d a b x : Opnd) :
    Host.Outcome State Fault Refusal :=
  onceReading s gd [(a, .w128), (b, .w64)] fun s c vs =>
    match s.imageCheck c (nth vs 0) with
    | .error e => .error e
    | .ok _ =>
      let uv := lo64 (nth vs 1)
      .ok (((s.markPending c x).both c fun u => u.hideDest (destOf d (if t == .f16 then .w64 else .w128))).modCore
        c.r.die c.r.core fun k => { k with
        samples := k.samples ++ [⟨c.r, c.t.cove, handleNo x, gather, t == .f16,
          ((destOf d .w32).map Prod.fst).getD 0, (nth vs 0).1, uv.setWidth 32,
          (uv >>> 32).setWidth 32, c.iss.addr, c.iss.slot, s.link.nextId⟩] })

/-- smp (R318, R319). -/
def execSmp (gd : Guard) (t : Ty) (d a b c : Opnd) (s : State) : Host.Outcome State Fault Refusal :=
  sampleOp s gd false t d a b c

/-- smp.g (R318, R319). -/
def execSmpG (gd : Guard) (t : Ty) (d a b c : Opnd) (s : State) : Host.Outcome State Fault Refusal :=
  sampleOp s gd true t d a b c

/-- A sampling operation run to its end. -/
def State.runSample (s : State) (d : DieId) (core : Nat) (c : Cove) (op : SampleOp) :
    Host.Outcome State Fault Refusal :=
  match s.sampleResult c op with
  | .ok (s1, rs) => .next (s1.endSample d core op rs)
  | .error (.trap cause x) => .next (s.failSample d core op cause x)
  | .error (.halt f) => .fault f
  | .error .hold => .next s

/-- A sampling operation completes (R319). -/
def smpCompleteOp (die : DieId) (core idx : Nat) (s : State) : Host.Outcome State Fault Refusal :=
  match (s.core die core).samples[idx]? with
  | none => .next s
  | some op =>
    match s.cove? op.cove with
    | none => .next s
    | some c => if s.forked op.cove c op.after then s.runSample die core c op else .next s

/-! Image stores. -/

/-- Element i of the data of an image store. -/
def imgElem (t : Ty) (v : Quad) (i : Nat) : Nat := elem v (tyBits t) i

/-- A channel as unorm (R321): the byte, and whether a NaN was converted. -/
def toUnorm (v : FVal) : Nat × Bool :=
  match v with
  | .nan _ => (0, true)
  | .inf n => (if n then 0 else 255, false)
  | .num n m e => if n then (0, false) else (min 255 (roundAt .rn false (m * 255) e 0).1, false)

/-- The bytes of a texel and its NV (R321): .b32 is stored raw in the formats that accept it. -/
def texelData (format : Nat) (t : Ty) (v : Quad) : Except Stop (List Byte × Word) :=
  let n := if format = 1 ∨ format = 3 then 1 else 4
  if t = .b32 then
    if format = 2 ∨ format = 4 then .error (.trap .formatInvalid (dw format))
    else .ok (quadBytes (texelBytes format) v, 0)
  else if format ≤ 1 then
    let cs := (List.range n).map fun i => toUnorm ((fmtOf t).read (imgElem t v i))
    .ok (cs.map fun x => BitVec.ofNat 8 x.1, flagIf (cs.any Prod.snd) flNV)
  else
    let f := if format = 2 then fp16 else fp32
    .ok (((List.range n).flatMap fun i =>
      leBytes (f.width / 8) (convertFloat f (fmtOf t) .rn false (imgElem t v i)).1), 0)

/-- Fields of HGEO (R412). -/
def Head.total (h : Head) : Nat := bitsOf h.geo 48 16
def Head.height (h : Head) : Nat := bitsOf h.geo 32 16
def Head.width (h : Head) : Nat := bitsOf h.geo 16 16

/-- Bands of a frame. -/
def Head.bandCount (h : Head) : Nat := h.height / 16

/-- The absolute line index (R414). -/
def Head.now (h : Head) : Nat := h.frame * h.total + h.line

/-- The deadline of a sequence number (R414). -/
def Head.deadline (h : Head) (q : Nat) : Nat :=
  q / max 1 h.bandCount * h.total + 16 * (q % max 1 h.bandCount)

/-- Whether the buffer of a sequence may be written: the deadline of the one before has come (R415,
R419). -/
def Head.bufferFree (h : Head) (q : Nat) : Bool := decide (h.deadline (q - 1) ≤ h.now) || q == 0

/-- The buffer and the offset in it that a range of a band window names; none for the records. -/
def Head.bufferAt (h : Head) (a n : Nat) : Option (Nat × Nat) :=
  let off := a - h.window.1
  let size := 64 * h.width
  if a < h.window.1 + 65536 ∨ size = 0 then none
  else if (off - 65536) % size + n ≤ size ∧ (off - 65536) / size < 2 then
    some ((off - 65536) / size, (off - 65536) % size)
  else none

/-- Bytes written to a buffer of a head. -/
def Head.putBuffer (h : Head) (i off : Nat) (bs : List Byte) : Head :=
  { h with buffers := h.buffers.set i (memPut (h.buffers.getD i []) off bs) }

/-- A write of an image store: into a band buffer, or by space (R321, R415). -/
def State.imgWrite (s : State) (op : ImgOp) (c : Cove) (i : Image) (a : Nat) (bs : List Byte) :
    Except Stop State :=
  let sys := capSystem i.cap
  let global := capSpace i.cap == 0 || capSpace i.cap == 7
  match (if global then (s.die op.cove.die).windowHead c.ctx a bs.length else none) with
  | some (n, h) =>
    match h.bufferAt a bs.length with
    | none => .error (.trap .storeFault (dw a))
    | some (k, off) =>
      let waits := match c.band with
        | some b => b.head == n && b.seq % 2 == k && !h.bufferFree b.seq
        | none => false
      if waits then .error .hold
      else .ok (s.modHead op.cove.die n fun x => x.putBuffer k off bs)
  | none =>
    if [0, 2, 5, 6, 7].contains (capSpace i.cap) && !s.lateFor op.cove.die op.after (capSpace i.cap) then
      s.sideWrite op.cove c (capSpace i.cap) sys a bs []
    else .error (.trap .storeFault (dw a))

/-- An image store's effect (R321): the state, its count and its flags. One whose texel lies outside the image
writes nothing and, by the model's choice, sets no flag for its data either (DESIGN CHOICE, log 115: R97 names NV
for a conversion, and no rule says whether a discarded store converts). -/
def State.imgResult (s : State) (c : Cove) (op : ImgOp) : Except Stop (State × Nat × Word) :=
  match s.readImage op.cove c op.cap with
  | .error e => .error e
  | .ok (s1, i) =>
    match (if effTag i.cap i.tag then texelData i.format op.ty op.data
        else .error (.trap .capTag (dw (capCursor i.cap)))) with
    | .error e => .error e
    | .ok (bs, fl) =>
      if i.width ≤ op.x.toNat ∨ i.height ≤ op.y.toNat then .ok (s1, 0, 0)
      else
        match i.texelAt permWrite op.x.toNat op.y.toNat with
        | .error e => .error e
        | .ok a =>
          match s1.imgWrite op c i a bs with
          | .error e => .error e
          | .ok s2 => .ok (s2, 1, fl)

/-- An image store leaves its core with its handle and flags. -/
def State.endImg (s : State) (d : DieId) (core : Nat) (op : ImgOp) (w : DWord) (fl : Word) : State :=
  ((s.modCore d core fun k => { k with images := k.images.erase op }).orFlags op.owner fl).completeHandle
    op.owner op.handle w

/-- img.st at its slot (R300, R321). -/
def imgOp (s : State) (gd : Guard) (t : Ty) (d a b x : Opnd) : Host.Outcome State Fault Refusal :=
  onceReading s gd [(a, .w128), (b, .w64), (x, if t = .f32 then .w128 else if t = .f16 then .w64 else .w32)]
    fun s c vs =>
    match s.imageCheck c (nth vs 0) with
    | .error e => .error e
    | .ok _ =>
      let xy := lo64 (nth vs 1)
      .ok ((s.markPending c d).modCore c.r.die c.r.core fun k => { k with
        images := k.images ++ [⟨c.r, c.t.cove, handleNo d, t, (nth vs 0).1, xy.setWidth 32,
          (xy >>> 32).setWidth 32, (nth vs 2).1, s.link.nextId⟩] })

/-- img.st (R321). -/
def execImgSt (gd : Guard) (t : Ty) (d a b c : Opnd) (s : State) : Host.Outcome State Fault Refusal :=
  imgOp s gd t d a b c

/-- An image store run to its end; one to a buffer still being scanned out waits (R415), and one of a cancelled
cove is discarded (R390, R417). -/
def State.runImg (s : State) (d : DieId) (core : Nat) (c : Cove) (op : ImgOp) :
    Host.Outcome State Fault Refusal :=
  if c.stopping then .next (s.endImg d core op (handleWord 1 0) 0)
  else match s.imgResult c op with
  | .ok (s1, n, fl) => .next (s1.endImg d core op (handleWord 0 n) fl)
  | .error (.trap cause x) => .next (s.endImg d core op (stopWord 0 (.trap cause x)) 0)
  | .error (.halt f) => .fault f
  | .error .hold => .next s

/-- An image store completes (R321). -/
def imgStCompleteOp (die : DieId) (core idx : Nat) (s : State) :
    Host.Outcome State Fault Refusal :=
  match (s.core die core).images[idx]? with
  | none => .next s
  | some op =>
    match s.cove? op.cove with
    | none => .next s
    | some c => if s.forked op.cove c op.after then s.runImg die core c op else .next s

/-! hcancel. -/

/-- Whether an operation of a thread's handle stands in the array queue or is a sampling operation,
which hcancel leaves alone (R307). -/
def Core.keeps (k : Core) (r : TRef) (n : Nat) : Bool :=
  k.array.any (fun x => x.members.contains (r, n))
    || k.samples.any fun x => x.owner == r && x.handle == some n

/-- The operation of a pending handle stopped, with its handle cancelled (R307). -/
def State.cancelHandle (s : State) (r : TRef) (n : Nat) : State :=
  let k := s.core r.die r.core
  let word := handleWord 1 0
  match k.copies.find? fun x => x.owner == r && x.handle == some n with
  | some op => s.endCopy r.die r.core op (handleWord 1 op.progress)
  | none =>
    match k.rays.find? fun x => x.owner == r && x.rounds.contains n with
    | some x =>
      (s.modCore r.die r.core fun k => { k with
        rays := k.rays.map fun y => if y == x then { y with rounds := y.rounds.erase n } else y }).completeHandle
        r (some n) word
    | none =>
      (s.modCore r.die r.core fun k => { k with
        searches := k.searches.filter fun x => !(x.owner == r && x.handle == some n)
        images := k.images.filter fun x => !(x.owner == r && x.handle == some n) }).completeHandle
        r (some n) word

/-- hcancel (R307). -/
def execHcancel (gd : Guard) (a : Opnd) (s : State) : Host.Outcome State Fault Refusal :=
  onceReading s gd [(a, .w32)] fun s c vs =>
    let n := (lo32 (nth vs 0)).toNat % 16
    .ok (if handleComplete (c.t.handle n) || (s.core c.r.die c.r.core).keeps c.r n then s
      else s.cancelHandle c.r n)

end Sys2Proof.Machine
end

