-- ==== Sys2Proof/Machine/Matrix.lean ====
section
/-! DEFINITION. The matrix array (R258 to R277): gangs, the checks at release, the accumulation, the
array queue and mzero. -/

namespace Sys2Proof.Machine

/-- Crews of a cove as gangs and masks name them: logical crews in compatibility mode (R263). -/
def Cove.crewCount (c : Cove) : Nat := if c.isC16 && !c.isProtected then 2 * c.crews else c.crews

/-- Set bits of a gang value. -/
def gangSize (g : Nat) : Nat := ((List.range 32).filter g.testBit).length

/-- Rows 1 and 2 of R266. -/
def gangBad (c : Cur) (g : Nat) : Bool :=
  !g.testBit c.crew || g == 0 || decide (6 < gangSize g) || decide (2 ^ c.cv.crewCount ≤ g)

/-- A thread's arrival at an instruction of the mma group (R264). -/
def gangOp (s : State) (gd : Guard) (i : Instr) (a b x : Opnd) : Host.Outcome State Fault Refusal :=
  withCur s fun c0 =>
    let on := guardHolds gd c0.t
    reading s ((x, .w32) :: (if on then [(a, .w128), (b, .w32)] else [])) fun s c vs =>
      let g := (lo32 (nth vs 0)).toNat
      if gangBad c g then .error (.trap .gangMismatch (dw g))
      else .ok (s.arrive c i g (!on) ((vs.drop 1).map Prod.fst))

/-! Format words and descriptors. -/

/-- Fields of the format word (R154). -/
def fmtA (w : Nat) : Nat := w % 16
def fmtB (w : Nat) : Nat := w / 2 ^ 4 % 16
def fmtInt (w : Nat) : Bool := w / 2 ^ 8 % 16 == 1
def fmtSat (w : Nat) : Bool := w / 2 ^ 14 % 2 == 1
def fmtSparse (w : Nat) : Bool := w / 2 ^ 15 % 2 == 1
def fmtN (w : Nat) : Nat := w / 2 ^ 16 % 4
def fmtScaledA (w : Nat) : Bool := w / 2 ^ 18 % 2 == 1
def fmtScaledB (w : Nat) : Bool := w / 2 ^ 19 % 2 == 1

/-- Operand format codes of R154, those with a floating value, and those that may be scaled. -/
def opCode (f : Nat) : Bool := decide (2 ≤ f) && decide (f ≤ 8)
def opFloat (f : Nat) : Bool := decide (2 ≤ f) && decide (f ≤ 5)
def opScales (f : Nat) : Bool := f == 4 || f == 5 || f == 8

/-- A format word is well formed for a variant: 0 mma, 1 mma.sp, 2 mma.sc (R155). -/
def fmtOk (variant w : Nat) : Bool :=
  let scaled := fmtScaledA w || fmtScaledB w
  w / 2 ^ 20 == 0 && opCode (fmtA w) && opCode (fmtB w) && decide (w / 2 ^ 8 % 16 ≤ 1)
    && (!fmtInt w || (!opFloat (fmtA w) && !opFloat (fmtB w) && !scaled))
    && w / 2 ^ 12 % 4 == 0
    && (fmtSparse w == (variant == 1)) && decide (fmtN w < 3) && (fmtSparse w || fmtN w == 0)
    && (scaled == (variant == 2))
    && (!fmtScaledA w || opScales (fmtA w)) && (!fmtScaledB w || opScales (fmtB w))

/-- Half bytes of an element (R261). -/
def halfBytes : Nat → Nat
  | 2 => 4
  | 3 => 4
  | 8 => 1
  | _ => 2

/-- Stored elements of a group (R156). -/
def sparseKeep (w : Nat) : Nat := 2 * 2 ^ fmtN w

/-- The dense K (R261). -/
def denseK (variant w : Nat) : Nat := if variant = 1 then 768 / sparseKeep w else 64

/-- N of a tile descriptor (R260). -/
def tileN (d : Quad) : Nat := qbits d 84 10

/-- A range that an operation names: remote bit, bay position, offset and bytes. -/
structure TileRange where
  remote : Bool
  pos : Nat
  off : Nat
  size : Nat
  deriving DecidableEq, Repr

/-- Bytes of the side data (R261, R262). -/
def sideBytes (variant w n : Nat) : Nat :=
  if variant = 1 then 2048
  else (if fmtScaledA w then 352 else 0) + (if fmtScaledB w then (2 * n + 2) / 3 * 8 else 0)

def tileA (w : Nat) (d : Quad) : TileRange :=
  ⟨qbits d 23 1 == 1, qbits d 19 4, qbits d 0 19, 2048 * halfBytes (fmtA w)⟩

def tileB (variant w : Nat) (d : Quad) : TileRange :=
  ⟨qbits d 55 1 == 1, qbits d 51 4, qbits d 32 19, denseK variant w * tileN d * halfBytes (fmtB w) / 2⟩

def tileC (d : Quad) : TileRange := ⟨false, 0, qbits d 64 19, 256 * tileN d⟩

def tileSide (variant w : Nat) (d : Quad) : TileRange :=
  ⟨qbits d 119 1 == 1, qbits d 115 4, qbits d 96 19, sideBytes variant w (tileN d)⟩

/-- The ranges of an operation of the mma group (R261, R262). -/
def tileRanges (variant w : Nat) (d : Quad) : List TileRange :=
  [tileA w d, tileB variant w d, tileC d] ++ if variant = 0 then [] else [tileSide variant w d]

/-- N, and the reserved bits that mzero checks too (R260, R277). -/
def shapeOk (d : Quad) : Bool :=
  qbits d 94 2 == 0 && qbits d 83 1 == 0 && decide (16 ≤ tileN d) && decide (tileN d ≤ 512)
    && tileN d % 16 == 0

/-- Check 3 of R267. -/
def tileOk (rs : List TileRange) (d : Quad) : Bool :=
  shapeOk d && qbits d 120 8 == 0 && qbits d 56 8 == 0 && qbits d 24 8 == 0
    && rs.all fun r => r.remote || r.pos == 0

/-- Check 4 of R267 on a range. -/
def TileRange.aligned (r : TileRange) : Except Stop Unit :=
  require (r.off % 16 == 0) .align (dw r.off)

/-- Check 5 of R267 on a range. -/
def State.inside (s : State) (cr : CoveRef) (c : Cove) (r : TileRange) : Except Stop Unit :=
  let ok := if r.remote then
      (match s.bayCove cr c r.pos with
        | some (_, x) => decide (r.off + r.size ≤ x.declared)
        | none => false)
    else decide (r.off + r.size ≤ c.declared)
  require ok .capBounds (dw r.off)

/-- The MMA_SHAPE trap's TVAL (R267). -/
def shapeTval (d : Quad) : DWord := dw (qbits d 64 32)

/-- The checks of R267 on the leader's word and descriptor, after the vote. Of several offsets or ranges that fail
one check, the first in the order A, B, C, side gives TVAL (log 120). -/
def State.tileCheck (s : State) (cr : CoveRef) (c : Cove) (variant w : Nat) (d : Quad) :
    Except Stop Unit :=
  let rs := tileRanges variant w d
  firstStop ([require (fmtOk variant w) .formatInvalid (dw w),
    require (tileOk rs d) .mmaShape (shapeTval d)]
    ++ rs.map TileRange.aligned ++ rs.map (s.inside cr c))

/-! Values. -/

/-- The raw elements of bytes by format: Q4 codes with the low nibble first (R152, R261). -/
def rawElems (f : Nat) (bs : List Byte) : List Nat :=
  match halfBytes f with
  | 1 => bs.flatMap fun b => [b.toNat % 16, b.toNat / 16]
  | 2 => bs.map BitVec.toNat
  | _ => (List.range (bs.length / 2)).map fun i => leNat ((bs.drop (2 * i)).take 2)

/-- A list cut into rows. -/
def rowsOf {α : Type} (n : Nat) : Nat → List α → List (List α)
  | 0, _ => []
  | k + 1, l => l.take n :: rowsOf n k (l.drop n)

/-- The float format of an operand code. -/
def codeFmt : Nat → Fmt
  | 2 => bfp16
  | 3 => fp16
  | 4 => fpE4M3
  | _ => fpE5M2

/-- An element times a scale word (R269): a NaN or infinity times zero sets NV. -/
def scaleVal (w : Nat) (x : FVal) : FVal :=
  if scaleNan w then .nan true
  else
    match x with
    | .num n m e => .num n (m * (scaleNum w).1) (e + (scaleNum w).2)
    | .inf n => if (scaleNum w).1 = 0 then .nan true else .inf n
    | .nan s => .nan s

/-- An element as an FP32 accumulator takes it (R153, R155, R269); .nan true sets NV. -/
def elemVal (f : Nat) (scale : Option Nat) (raw : Nat) : FVal :=
  match f, scale with
  | 8, some w => (q4Val w raw).getD (.nan true)
  | 8, none =>
    match codeNum 0 raw with
    | some x => .num x.1 x.2.1 x.2.2
    | none => .nan true
  | 6, _ => .num (decide ((BitVec.ofNat 8 raw).toInt < 0)) (BitVec.ofNat 8 raw).toInt.natAbs 0
  | 7, _ => .num false raw 0
  | _, some w => scaleVal w ((codeFmt f).read raw)
  | _, none => (codeFmt f).read raw

/-- An element as an INT32 accumulator takes it; none for a reserved code (R153). -/
def elemInt (f raw : Nat) : Option Int :=
  match f with
  | 6 => some (BitVec.ofNat 8 raw).toInt
  | 7 => some raw
  | _ => (codeIndex 0 raw).map fun x => if x.1 then -(x.2 : Int) else x.2

/-- One term of the window of R270, in units of 2^(L - 53). -/
def windowTerm (top : Int) (n : Bool) (m : Nat) (e : Int) : Int :=
  let k := e - (top - 52)
  let v := if 0 ≤ k then m * 2 ^ (k.toNat + 1)
    else 2 * (m / 2 ^ (-k).toNat) + (if m % 2 ^ (-k).toNat = 0 then 0 else 1)
  if n then -(v : Int) else v

/-- L of R270: the exponent of the leading bit of the largest nonzero term. -/
def leading : List FVal → Option Int
  | [] => none
  | .num _ m e :: vs =>
    if m = 0 then leading vs
    else
      match leading vs with
      | some x => some (max x (e + m.log2))
      | none => some (e + m.log2)
  | _ :: vs => leading vs

/-- The FP32 accumulation of terms (R270). -/
def accumulate (sat : Bool) (vs : List FVal) : Nat × Word :=
  let opposite := vs.contains (.inf true) && vs.contains (.inf false)
  if vs.any FVal.isNan || opposite then
    (fp32.nan, flagIf (opposite || vs.any FVal.isSignalling) flNV)
  else
    match vs.find? FVal.isInf with
    | some v => fp32.putVal .rn v
    | none =>
      match leading vs with
      | none => (fp32.signed (vs.all FVal.neg) 0, 0)
      | some top =>
        let x := vs.foldl (fun acc v =>
          match v with
          | .num n m e => acc + windowTerm top n m e
          | _ => acc) (0 : Int)
        if x = 0 then (0, 0) else fp32.roundNum .rn sat (decide (x < 0)) x.natAbs (top - 53)

/-- A product as a term, its invalidity kept as a signalling NaN. -/
def productTerm (a b : FVal) : FVal :=
  match mulVal a b with
  | (.nan _, nv) => .nan nv
  | (v, _) => v

/-- One output element under an FP32 accumulator; `zeros` are the terms of indices that name no position
(R157, R269), each +0 (log 98). -/
def outFloat (sat : Bool) (c : Nat) (ps : List (FVal × FVal)) (zeros : Nat) : Nat × Word :=
  let r := accumulate sat
    (fp32.read c :: (ps.map fun p => productTerm p.1 p.2) ++ List.replicate zeros (.num false 0 0))
  (r.1, r.2 ||| flagIf (zeros != 0) flNV)

/-- One output element under an INT32 accumulator (R271). -/
def outInt (sat : Bool) (c : Nat) (ps : List (Option Int × Option Int)) (zeros : Nat) : Nat × Word :=
  let bad := zeros != 0 || ps.any fun p => p.1.isNone || p.2.isNone
  let x := (BitVec.ofNat 32 c).toInt
    + (ps.map fun p => (p.1.getD 0) * (p.2.getD 0)).foldl (· + ·) 0
  let y := if sat then max (-(2 ^ 31)) (min (2 ^ 31 - 1) x) else x
  ((BitVec.ofInt 32 y).toNat, flagIf bad flNV)

/-- The pairs of one row of A and one column of B: with metadata, each stored element with the one its
index names; and the stored elements that name none (R269). -/
def pairRow {α : Type} (keep : Nat) (metas : Option (List Nat)) (row col : List α) :
    List (α × α) × Nat :=
  match metas with
  | none => (row.zip col, 0)
  | some ix =>
    (((List.range 64).zip (ix.zip row)).filterMap fun x =>
      if x.2.1 < 12 then (col[x.1 / keep * 12 + x.2.1]?).map fun b => (x.2.2, b) else none,
      (ix.filter fun i => decide (12 ≤ i)).length)

/-- What an operation of the mma group computes with. -/
structure Tiles3 where
  variant : Nat
  fmt : Nat
  n : Nat
  a : List Byte
  b : List Byte
  c : List Byte
  side : List Byte
  deriving DecidableEq, Repr

/-- Scale words of a sequence of blocks (R151, R262). -/
def scalesOf (bs : List Byte) (count : Nat) : List Nat :=
  (List.range count).map fun b => leNat ((bs.drop (8 * (b / 3))).take 8) / 2 ^ (20 * (b % 3)) % 2 ^ 20

/-- Elements with their block scales: 32 to a block (R262). -/
def withScales (f : Nat) (scales : Option (List Nat)) (raws : List Nat) : List FVal :=
  match scales with
  | none => raws.map (elemVal f none)
  | some ws => (ws.zip (rowsOf 32 ws.length raws)).flatMap fun x => x.2.map (elemVal f (some x.1))

/-- The metadata of the rows of A (R156). -/
def Tiles3.meta (t : Tiles3) (i : Nat) : Option (List Nat) :=
  if t.variant = 1 then some (rawElems 8 ((t.side.drop (32 * i)).take 32)) else none

/-- The scales of A and of B (R262). -/
def Tiles3.scaleA (t : Tiles3) : Option (List Nat) :=
  if t.variant = 2 ∧ fmtScaledA t.fmt then some (scalesOf t.side 128) else none

def Tiles3.scaleB (t : Tiles3) : Option (List Nat) :=
  if t.variant = 2 ∧ fmtScaledB t.fmt then
    some (scalesOf (t.side.drop (if fmtScaledA t.fmt then 352 else 0)) (2 * t.n))
  else none

/-- One row of C from a row of A and the columns of B. -/
def outRow {α : Type} (out : Nat → List (α × α) → Nat → Nat × Word) (keep : Nat)
    (metas : Option (List Nat)) (row : List α) (cols : List (List α)) (cs : List Nat) :
    List (Nat × Word) :=
  (cols.zip cs).map fun x =>
    let p := pairRow keep metas row x.1
    out x.2 p.1 p.2

/-- Words of 32 bits of bytes. -/
def words32 (bs : List Byte) : List Nat :=
  (List.range (bs.length / 4)).map fun i => leNat ((bs.drop (4 * i)).take 4)

/-- Every row of C from the rows of A and the columns of B. -/
def Tiles3.rows {α : Type} (t : Tiles3) (out : Nat → List (α × α) → Nat → Nat × Word)
    (rows cols : List (List α)) : List (Nat × Word) :=
  ((List.range 64).zip (rows.zip (rowsOf t.n 64 (words32 t.c)))).flatMap fun x =>
    outRow out (sparseKeep t.fmt) (t.meta x.1) x.2.1 cols x.2.2

/-- The elements of C after the operation, with the flags of each (R269 to R271). -/
def Tiles3.result (t : Tiles3) : List (Nat × Word) :=
  let ra := rawElems (fmtA t.fmt) t.a
  let rb := rawElems (fmtB t.fmt) t.b
  let k := denseK t.variant t.fmt
  if fmtInt t.fmt then
    t.rows (outInt (fmtSat t.fmt)) (rowsOf 64 64 (ra.map (elemInt (fmtA t.fmt))))
      (rowsOf k t.n (rb.map (elemInt (fmtB t.fmt))))
  else
    t.rows (outFloat (fmtSat t.fmt)) (rowsOf 64 64 (withScales (fmtA t.fmt) t.scaleA ra))
      (rowsOf k t.n (withScales (fmtB t.fmt) t.scaleB rb))

/-! Release. -/

/-- The arrivals of the shadows of a gang's members (R268). -/
def State.gangShadows (s : State) (c : Cove) (g : List Arr) : List Arr :=
  if c.isProtected then
    g.filterMap fun a => (s.thread? (shadowOf a.r)).bind fun t =>
      (t.latches.find? fun l => l.kind == .gang && l.clause == a.l.clause && l.slot == a.l.slot).map
        fun l => ⟨shadowOf a.r, t, l⟩
  else []

/-- Members by crew and lane (R265). -/
def gangOrder (c : Cove) (g : List Arr) : List Arr :=
  g.mergeSort fun x y =>
    let p := crewNumber c x.t.crew x.r.lane
    let q := crewNumber c y.t.crew y.r.lane
    decide (p < q) || (p == q && decide (x.t.vlane ≤ y.t.vlane))

/-- The variant, the handle and the operands of a member's instruction. -/
def gangVariant (l : Latch) : Nat :=
  match l.instr with
  | .mmaSp _ _ _ _ _ => 1
  | .mmaSc _ _ _ _ _ => 2
  | _ => 0

def gangHandle (l : Latch) : Option Nat :=
  match l.instr with
  | .mma _ d _ _ _ => handleNo d
  | .mmaSp _ d _ _ _ => handleNo d
  | .mmaSc _ d _ _ _ => handleNo d
  | _ => none

def gangDesc (l : Latch) : Quad := l.vals.getD 0 0
def gangFmt (l : Latch) : Nat := ((l.vals.getD 1 0).setWidth 32 : Word).toNat

/-- Every member of a gang trapped at its arrival, with nothing issued (R266, R267). -/
def State.gangFail (s : State) (bad all : List Arr) (cause : Cause) (tval : DWord) : State :=
  (bad.foldl (fun s a => s.postOne a.r ⟨1, cause, tval, a.l.clause, a.l.slot, 0, none⟩ true)
    s).unlatchAll all

/-- The members' handles pending, and the operation in the array queue (R274). -/
def State.gangIssue (s : State) (cr : CoveRef) (lead : Latch) (con all : List Arr) : State :=
  let members := con.filterMap fun a => (gangHandle a.l).map fun h => (a.r, h)
  let s1 := members.foldl (fun s m =>
    let s1 := s.modThread m.1 (Thread.setHandle · m.2 pendingWord)
    if s1.pairAt m.1 then s1.modThread (shadowOf m.1) (Thread.setHandle · m.2 pendingWord) else s1) s
  (s1.modCore cr.die cr.core fun k => { k with
    array := k.array ++ [⟨.mma (gangVariant lead) (BitVec.ofNat 32 (gangFmt lead)), cr,
      gangDesc lead, members, s.link.nextId⟩] }).unlatchAll all

/-- The strands of every crew that a gang lists meet: all its active members have arrived (R36, R264), whatever
the checks of the operation then find (log 90). -/
def State.meetGang (s : State) (c : Cove) (all : List Arr) : State :=
  ((all.map fun a => (a.t.cove, a.t.crew, logicalHalf c a.r.lane)).eraseDups).foldl
    (fun s k => s.meetCrew k.1 k.2.1 k.2.2) s

/-- The release of a gang (R264 to R268); none while the array queue has no room (R273). -/
def State.gangRelease (s : State) (c : Cove) (a : Arr) (g : List Arr) : Option State :=
  let cr := a.t.cove
  let shadows := s.gangShadows c g
  let all := g ++ shadows
  let con := gangOrder c (g.filter fun x => !x.l.off)
  let bad := con ++ shadows.filter fun x => !x.l.off
  match con with
  | [] => some ((s.meetGang c all).unlatchAll all)
  | lead :: _ =>
    let same := !c.isProtected || shadows.any fun x =>
      x.r == shadowOf lead.r && x.l.vals == lead.l.vals && x.l.mask == lead.l.mask
    if !same then some ((s.meetGang c all).draw.2.gangFail all all .storeMismatch s.freeTval)
    else if con.any fun x => gangFmt x.l != gangFmt lead.l then
      some ((s.meetGang c all).gangFail bad all .formatDivergence (dw (gangFmt lead.l)))
    else
      match s.tileCheck cr c (gangVariant lead.l) (gangFmt lead.l) (gangDesc lead.l) with
      | .error (.trap cause tval) => some ((s.meetGang c all).gangFail bad all cause tval)
      | .error _ => none
      | .ok _ =>
        if Config.arrayQueue ≤ (s.core cr.die cr.core).array.length then none
        else some ((s.meetGang c all).gangIssue cr lead.l con all)

/-! The array queue. -/

/-- The core and physical offset of a range (R260, R198). -/
def State.tilePlace (s : State) (cr : CoveRef) (c : Cove) (r : TileRange) : Nat × Nat :=
  match (if r.remote then s.bayCove cr c r.pos else none) with
  | some (k, x) => (k.core, x.scratchBase + r.off)
  | none => (cr.core, c.scratchBase + r.off)

/-- A range read, and whether it was poisoned. -/
def State.readTile (s : State) (cr : CoveRef) (c : Cove) (r : TileRange) : State × List Byte × Bool :=
  let p := s.tilePlace cr c r
  s.readScratch cr.die p.1 p.2 r.size

/-- The operands of an operation of the mma group read; none where a byte is poisoned (R193). -/
def State.readTiles (s : State) (op : ArrayOp) (c : Cove) (variant w : Nat) : State × Option Tiles3 :=
  let (s1, a, p) := s.readTile op.cove c (tileA w op.desc)
  let (s2, b, q) := s1.readTile op.cove c (tileB variant w op.desc)
  let (s3, x, r) := s2.readTile op.cove c (tileC op.desc)
  let (s4, d, z) := if variant = 0 then (s3, [], false)
    else s3.readTile op.cove c (tileSide variant w op.desc)
  (s4, if p || q || r || z then none else some ⟨variant, w, tileN op.desc, a, b, x, d⟩)

/-- Handles and flags of an operation's members when it leaves the queue (R272, R274). -/
def State.endArray (s : State) (d : DieId) (core : Nat) (op : ArrayOp) (fl : Word) (w : DWord) :
    State :=
  let s1 := s.modCore d core fun k => { k with array := k.array.drop 1 }
  let s2 := op.members.foldl (fun s m => (s.orFlags m.1 fl).completeHandle m.1 (some m.2) w) s1
  match s2.cove? op.cove with
  | some c => s2.count d core c.ctx fun k => { k with arrayOps := k.arrayOps + 1 }
  | none => s2

/-- An operation of the mma group performed (R269 to R274). -/
def State.runMma (s : State) (d : DieId) (core : Nat) (c : Cove) (op : ArrayOp) (variant w : Nat) :
    State :=
  match s.readTiles op c variant w with
  | (s1, none) => s1.endArray d core op 0 (faultedWord .uncorrectable 0)
  | (s1, some t) =>
    let rs := t.result
    (s1.scratchPut d core (c.scratchBase + (tileC op.desc).off)
      (rs.flatMap fun x => leBytes 4 x.1)).endArray d core op (orAll (rs.map Prod.snd))
        (handleWord 0 (tileN op.desc / 16))

/-- mzero performed (R277). -/
def State.runMzero (s : State) (d : DieId) (core : Nat) (c : Cove) (op : ArrayOp) : State :=
  (s.scratchPut d core (c.scratchBase + (tileC op.desc).off)
    (List.replicate (256 * tileN op.desc) 0)).endArray d core op 0 (handleWord 0 (tileN op.desc / 16))

/-- mma (R264). -/
def execMma (gd : Guard) (d a b c : Opnd) (s : State) : Host.Outcome State Fault Refusal :=
  gangOp s gd (.mma gd d a b c) a b c

/-- mma.sp (R264). -/
def execMmaSp (gd : Guard) (d a b c : Opnd) (s : State) : Host.Outcome State Fault Refusal :=
  gangOp s gd (.mmaSp gd d a b c) a b c

/-- mma.sc (R264). -/
def execMmaSc (gd : Guard) (d a b c : Opnd) (s : State) : Host.Outcome State Fault Refusal :=
  gangOp s gd (.mmaSc gd d a b c) a b c

/-- An operation of the array put into its queue at its slot, or the hold of a full queue (R273). -/
def State.enqueue (s : State) (c : Cur) (kind : ArrayKind) (desc : Quad) (d : Opnd) :
    Except Stop State :=
  if Config.arrayQueue ≤ (s.core c.r.die c.r.core).array.length then .error .hold
  else
    .ok ((s.markPending c d).modCore c.r.die c.r.core fun k => { k with
      array := k.array ++ [⟨kind, c.t.cove, desc,
        ((handleNo d).map fun h => (c.r, h)).toList, s.link.nextId⟩] })

/-- mzero (R277). -/
def mzeroOp (s : State) (gd : Guard) (d a : Opnd) : Host.Outcome State Fault Refusal :=
  onceReading s gd [(a, .w128)] fun s c vs =>
    let v := (nth vs 0).1
    match firstStop [require (shapeOk v) .mmaShape (shapeTval v), (tileC v).aligned,
        s.inside c.t.cove c.cv (tileC v)] with
    | .error e => .error e
    | .ok _ => s.enqueue c .mzero v d

/-- mzero (R277). -/
def execMzero (gd : Guard) (d a : Opnd) (s : State) : Host.Outcome State Fault Refusal :=
  mzeroOp s gd d a

end Sys2Proof.Machine
end

