-- ==== Sys2Proof/Machine/Chain.lean ====
section
/-! DEFINITION. Chains (R278 to R282): their records, chdef, chrun, and what the array queue does with
them. -/

namespace Sys2Proof.Machine

/-- Fields of a chain header (R278). -/
def chSat (h : DWord) : Bool := h.getLsbD 16
def chOut (h : DWord) : Nat := bitsOf h 12 4
def chIn1 (h : DWord) : Nat := bitsOf h 8 4
def chIn0 (h : DWord) : Nat := bitsOf h 4 4
def chCount (h : DWord) : Nat := bitsOf h 0 4 + 1

/-- Fields of an operation word (R278). -/
def opK (w : DWord) : Nat := bitsOf w 32 32
def opC (w : DWord) : Nat := bitsOf w 20 4
def opB (w : DWord) : Nat := bitsOf w 16 4
def opA (w : DWord) : Nat := bitsOf w 12 4
def opDst (w : DWord) : Nat := bitsOf w 8 4
def opCodeOf (w : DWord) : Nat := bitsOf w 0 4

/-- Sources that an operation uses (R279). -/
def opUses (w : DWord) : List Nat :=
  match opCodeOf w with
  | 3 => [opA w, opB w, opC w]
  | 6 => [opA w, opB w, opC w]
  | 0 => [opA w, opB w]
  | 1 => [opA w, opB w]
  | 2 => [opA w, opB w]
  | 4 => [opA w, opB w]
  | 5 => [opA w, opB w]
  | _ => [opA w]

/-- An operation word is valid (R278, R279). -/
def opOk (w : DWord) : Bool :=
  bitsOf w 24 8 == 0 && bitsOf w 4 4 == 0 && decide (opDst w ≤ 8) && decide (opCodeOf w ≤ 11)
    && (opUses w).all fun x => decide (x ≤ 11)

/-- The operations of a record, its header first. -/
def chOps (ws : List DWord) : List DWord := ws.drop 1

/-- Whether an operation reads in1. -/
def readsIn1 (ws : List DWord) : Bool := (chOps ws).any fun w => (opUses w).contains 9

/-- A record is valid (R278). The format of in0 is checked though no operation reads in0 (log 120). -/
def chainOk (ws : List DWord) : Bool :=
  let h := ws.headD 0
  h.toNat / 2 ^ 17 == 0 && [0, 2, 3, 4, 5].contains (chOut h) && decide (chIn0 h ≤ 5)
    && (!readsIn1 ws || decide (chIn1 h ≤ 5)) && (chOps ws).all opOk
    && (chOps ws).any fun w => opDst w == 8

/-- The part of a record that chdef reads, with the checks of a load of it (R280). -/
def State.readChain (s : State) (c : Cur) (v : Quad × Bool) (off : Word) (n : Nat) :
    Except Stop (State × List DWord) :=
  match checkCap v.1 v.2 permRead off n with
  | .error e => .error e
  | .ok a =>
    if capSpace v.1 ≠ 2 ∧ capSpace v.1 ≠ 4 then .error (.trap .loadFault (dw a))
    else
      match s.readSpace c (capSpace v.1) a n (capSystem v.1) with
      | .error e => .error e
      | .ok (s1, x) =>
        match x.bad with
        | some (y, _) => .error (.trap .uncorrectable y)
        | none => .ok (s1, wordsOf (n / 8) x.bytes)

/-- chdef (R280); the TVAL of its FORMAT_INVALID is a free value (log 2). -/
def chdefOp (s : State) (gd : Guard) (ch : Nat) (a b : Opnd) : Host.Outcome State Fault Refusal :=
  onceComparing s gd [(a, .w128), (b, .w32)] id fun s c vs =>
    match s.readChain c (nth vs 0) (lo32 (nth vs 1)) 8 with
    | .error e => .error (s, e)
    | .ok (s1, h) =>
      match s1.readChain c (nth vs 0) (lo32 (nth vs 1)) (8 * (chCount (h.headD 0) + 1)) with
      | .error e => .error (s1, e)
      | .ok (s2, ws) =>
        if !chainOk ws then .error (s2.draw.2, .trap .formatInvalid s2.freeTval)
        else
          match s2.enqueue c (.chdef ch ws) 0 .none with
          | .error e => .error (s2, e)
          | .ok s3 => .ok s3

/-- chdef (R280). -/
def execChdef (gd : Guard) (ch : Fin 8) (a b : Opnd) (s : State) : Host.Outcome State Fault Refusal :=
  chdefOp s gd ch.val a b

/-- The chain that a chrun issued now will use: that of the last chdef of the slot in the queue, else
what the slot holds for the context (R281). -/
def Core.chainAhead (k : Core) (ctx slot : Nat) : Option (List DWord) :=
  let queued := k.array.filterMap fun (x : ArrayOp) =>
    match x.kind with
    | .chdef n ws => if n = slot then some ws else none
    | _ => none
  match queued.getLast? with
  | some ws => some ws
  | none => (aget k.chains slot).bind fun x => if x.1 = ctx then some x.2 else none

/-- Fields of the run descriptor (R281). -/
def runGroups (d : Quad) : Nat := qbits d 96 16
def runOut (d : Quad) : Nat := qbits d 64 19
def runIn1 (d : Quad) : Nat := qbits d 32 19
def runIn0 (d : Quad) : Nat := qbits d 0 19

/-- Its reserved bits are zero. -/
def runOk (d : Quad) : Bool :=
  qbits d 112 16 == 0 && qbits d 83 13 == 0 && qbits d 51 13 == 0 && qbits d 19 13 == 0

/-- Bytes of an element by chain format (R278). -/
def chBytes : Nat → Nat
  | 0 => 4
  | 1 => 4
  | 2 => 2
  | 3 => 2
  | _ => 1

/-- The ranges of a run: offset and bytes for each element; in0's always (log 120). -/
def runRanges (ws : List DWord) (d : Quad) : List (Nat × Nat) :=
  let h := ws.headD 0
  [(runIn0 d, chBytes (chIn0 h))] ++ (if readsIn1 ws then [(runIn1 d, chBytes (chIn1 h))] else [])
    ++ [(runOut d, chBytes (chOut h))]

/-- The slot checks of chrun after its chain is known (R281): MMA_SHAPE, ALIGN, CAP_BOUNDS, each over in0, in1 and
out in that order (log 120). -/
def runCheck (cv : Cove) (ws : List DWord) (d : Quad) : Except Stop Unit :=
  firstStop ([require (runOk d) .mmaShape (shapeTval d)]
    ++ (runRanges ws d).map (fun r => require (r.1 % 4 == 0) .align (dw r.1))
    ++ (runRanges ws d).map fun r =>
      require (decide (r.1 + 12 * runGroups d * r.2 ≤ cv.declared)) .capBounds (dw r.1))

/-- chrun (R281); the TVAL of its FORMAT_INVALID is a free value (log 2), and an empty slot comes before
every other check (log 120). -/
def chrunOp (s : State) (gd : Guard) (ch : Nat) (d a : Opnd) : Host.Outcome State Fault Refusal :=
  onceComparing s gd [(a, .w128)] id fun s c vs =>
    let v := (nth vs 0).1
    match (s.core c.r.die c.r.core).chainAhead c.ctx ch with
    | none => .error (s.draw.2, .trap .formatInvalid s.freeTval)
    | some ws =>
      match runCheck c.cv ws v with
      | .error e => .error (s, e)
      | .ok _ =>
        if runGroups v = 0 then .ok (s.markDone c d (handleWord 0 0))
        else
          match s.enqueue c (.chrun ch) v d with
          | .error e => .error (s, e)
          | .ok s1 => .ok s1

/-- chrun (R281). -/
def execChrun (gd : Guard) (ch : Fin 8) (d a : Opnd) (s : State) : Host.Outcome State Fault Refusal :=
  chrunOp s gd ch.val d a

/-- The value of an input element in FP32 (R282): exact, but an INT32 rounds; a signalling NaN sets NV
(R132, R145). -/
def chainIn (f raw : Nat) : Nat × Word :=
  match f with
  | 0 => (raw, 0)
  | 1 => intToFloat fp32 .rn false (BitVec.ofNat 32 raw).toInt
  | _ => convertFloat fp32 (codeFmt f) .rn false raw

/-- The chain unit's registers while it runs an element. -/
structure ChainRegs where
  temps : List Nat
  in0 : Nat
  in1 : Nat
  out : Nat
  flags : Word
  deriving DecidableEq, Repr

/-- A source of an operation (R278). -/
def ChainRegs.source (r : ChainRegs) (k n : Nat) : Nat :=
  if n < 8 then r.temps.getD n 0
  else if n = 8 then r.in0
  else if n = 9 then r.in1
  else if n = 10 then k
  else 0

/-- An operation of a chain on FP32 values (R279). -/
def chainOp (op a b c : Nat) : Nat × Word :=
  match op with
  | 0 => fp32.add .rn a b
  | 1 => fp32.sub .rn a b
  | 2 => fp32.mul .rn a b
  | 3 => fp32.fma .rn a b c
  | 4 => fp32.pick false true a b
  | 5 => fp32.pick true true a b
  | 6 => (if f32lt 0 a then b else c, 0)
  | 7 => rcpOp fp32 .rn a
  | 8 => rsqOp fp32 a
  | 9 => ex2Op fp32 a
  | 10 => lg2Op fp32 a
  | _ => (a, 0)

/-- One operation word performed (R282). -/
def ChainRegs.step (r : ChainRegs) (w : DWord) : ChainRegs :=
  let x := chainOp (opCodeOf w) (r.source (opK w) (opA w)) (r.source (opK w) (opB w))
    (r.source (opK w) (opC w))
  let r1 := { r with flags := r.flags ||| x.2 }
  if opDst w = 8 then { r1 with out := x.1 } else { r1 with temps := r1.temps.set (opDst w) x.1 }

/-- The output format of a chain. -/
def chFmt : Nat → Fmt
  | 0 => fp32
  | f => codeFmt f

/-- One element of a chain (R282): its output bits and flags. -/
def chainElem (ws : List DWord) (x0 x1 : Nat) : Nat × Word :=
  let h := ws.headD 0
  let p := chainIn (chIn0 h) x0
  let q := if readsIn1 ws then chainIn (chIn1 h) x1 else (0, 0)
  let r := (chOps ws).foldl ChainRegs.step ⟨List.replicate 8 0, p.1, q.1, 0, p.2 ||| q.2⟩
  let o := convertFloat (chFmt (chOut h)) fp32 .rn (chSat h) r.out
  (o.1, r.flags ||| o.2)

/-- The twelve elements of a group of an input; none where a byte is poisoned. -/
def State.groupIn (s : State) (cr : CoveRef) (c : Cove) (off bytes g : Nat) :
    State × Option (List Nat) :=
  let (s1, bs, bad) := s.readScratch cr.die cr.core (c.scratchBase + off + 12 * bytes * g) (12 * bytes)
  (s1, if bad then none
    else some ((List.range 12).map fun i => leNat ((bs.drop (bytes * i)).take bytes)))

/-- One group of a run (R282): no flags and no output where an input is poisoned. -/
def State.runGroup (s : State) (op : ArrayOp) (c : Cove) (ws : List DWord) (g : Nat) :
    State × Option Word :=
  let h := ws.headD 0
  match s.groupIn op.cove c (runIn0 op.desc) (chBytes (chIn0 h)) g with
  | (s1, none) => (s1, none)
  | (s1, some xs) =>
    let second : State × Option (List Nat) :=
      if readsIn1 ws then s1.groupIn op.cove c (runIn1 op.desc) (chBytes (chIn1 h)) g
      else (s1, some (List.replicate 12 0))
    match second with
    | (s2, none) => (s2, none)
    | (s2, some ys) =>
      let rs := (xs.zip ys).map fun p => chainElem ws p.1 p.2
      let n := chBytes (chOut h)
      (s2.scratchPut op.cove.die op.cove.core (c.scratchBase + runOut op.desc + 12 * n * g)
        (rs.flatMap fun x => leBytes n x.1), some (orAll (rs.map Prod.snd)))

/-- The groups of a run in ascending order: the state, the flags, and the groups done. -/
def State.runGroups (op : ArrayOp) (c : Cove) (ws : List DWord) :
    Nat → State → Nat → Word → State × Word × Nat
  | 0, s, g, fl => (s, fl, g)
  | n + 1, s, g, fl =>
    match s.runGroup op c ws g with
    | (s1, none) => (s1, fl, g)
    | (s1, some x) => State.runGroups op c ws n s1 (g + 1) (fl ||| x)

/-- A chrun performed (R282). -/
def State.runChain (s : State) (d : DieId) (core : Nat) (c : Cove) (op : ArrayOp) (slot : Nat) :
    State :=
  let ws := ((aget (s.core d core).chains slot).map Prod.snd).getD []
  let n := Machine.runGroups op.desc
  let (s1, fl, g) := State.runGroups op c ws n s 0 0
  s1.endArray d core op fl (if g = n then handleWord 0 n else faultedWord .uncorrectable g)

/-- The operation at the head of a core's array queue, when what its fork follows is done (R223, R273). -/
def State.arrayHead (s : State) (d : DieId) (core : Nat) : Option (ArrayOp × Cove) :=
  match (s.core d core).array.head? with
  | none => none
  | some op =>
    match s.cove? op.cove with
    | none => none
    | some c => if s.forked op.cove c op.after then some (op, c) else none

end Sys2Proof.Machine
end

