-- ==== Sys2Proof/Machine/Section.lean ====
section
/-! DEFINITION. The fields of a context image's bytes, of its thread records (R368) and of its cove
sections (R366), and what a section says of its cove's completion (R378). -/

namespace Sys2Proof.Machine

/-- The first multiple of 64 from a number up. -/
def align64 (n : Nat) : Nat := (n + 63) / 64 * 64

/-! Fields of image bytes. -/

/-- The value of n bytes at an offset. -/
def imgNat (bs : List Byte) (off n : Nat) : Nat := leNat ((bs.drop off).take n)

/-- Bits of the 8-byte word at an offset. -/
def imgBits (bs : List Byte) (off lo len : Nat) : Nat := imgNat bs off 8 / 2 ^ lo % 2 ^ len

/-- The 8-byte word at an offset. -/
def imgWord (bs : List Byte) (off : Nat) : DWord := dw (imgNat bs off 8)

/-- The reserved fields of a list, each an offset, a bit and a length, are zero. -/
def zeroFields (bs : List Byte) (fs : List (Nat × Nat × Nat)) : Bool :=
  fs.all fun f => imgBits bs f.1 f.2.1 f.2.2 == 0

/-- Bits of bytes by number, bit 0 of the first byte first. -/
def imgBit (bs : List Byte) (off i : Nat) : Bool := (bs.getD (off + i / 8) 0).getLsbD (i % 8)

/-- Where the parts of a thread record after its latches stand: registers, tags, poison and the end. -/
def recordLatches (bs : List Byte) : Nat := imgBits bs 0 8 8
def recordRegs (bs : List Byte) : Nat := 208 + 64 * recordLatches bs
def recordTags (bs : List Byte) (n : Nat) : Nat := recordRegs bs + 4 * n
def recordPoison (bs : List Byte) (n : Nat) : Nat := recordTags bs n + (n / 32 + 7) / 8 * 8
def recordEnd (bs : List Byte) (n : Nat) : Nat := recordPoison bs n + (n / 8 + 7) / 8 * 8

/-- Fields of a cove header (R366). -/
def secUnits (b : List Byte) : Nat := imgBits b 0 32 32
def secIndex (b : List Byte) : Nat := imgBits b 0 0 32
def secLaunch (b : List Byte) : Word := BitVec.ofNat 32 (imgBits b 8 32 32)
def secBayPos (b : List Byte) : Nat := imgBits b 8 28 4
def secCrews (b : List Byte) : Nat := imgBits b 8 16 8 + 1
def secWindows (b : List Byte) : Nat := imgBits b 8 8 8
def secScratch (b : List Byte) : Nat := imgBits b 16 32 32
def secBarriers (b : List Byte) : Nat := imgBits b 16 14 9
def secKernel (b : List Byte) : Nat := imgBits b 24 0 55

/-- Where the parts of a section begin. -/
def secMaps (_ : List Byte) : Nat := 64
def secBars (b : List Byte) : Nat := 64 + 16 * secWindows b
def secPad (b : List Byte) : Nat := secBars b + 16 * secBarriers b
def secTags (b : List Byte) : Nat := secPad b + secScratch b + Config.spillBytes
def secCrewAt (b : List Byte) : Nat := secTags b + align64 ((secScratch b + Config.spillBytes) / 128)
def secThreadAt (b : List Byte) : Nat := secCrewAt b + 1152 * secCrews b

/-- The thread records of a section, one after another; none where they pass its end. -/
def splitRecords (n : Nat) : Nat → List Byte → Option (List (List Byte))
  | 0, bs => if bs.length < 64 then some [] else none
  | k + 1, bs =>
    if bs.length < recordEnd bs n then none
    else (splitRecords n k (bs.drop (recordEnd bs n))).map fun rs => bs.take (recordEnd bs n) :: rs

/-- The thread records of a section, lane by lane, under a kernel of n registers. -/
def Recorded.threads (r : Recorded) (n : Nat) : Option (List (List Byte)) :=
  splitRecords n (32 * secCrews r.bytes) (r.bytes.drop (secThreadAt r.bytes))

/-- A section in which every thread has exited and no copy runs: its cove is complete, and only its
scratchpad stands until its bay completes (R378). -/
def Recorded.isDone (r : Recorded) (n : Nat) : Bool :=
  r.copies.isEmpty && r.loose.isEmpty &&
    match r.threads n with
    | some rs => rs.all fun t => imgBits t 0 0 3 == 0
    | none => false

/-- The pending count of a recorded cove that waits to be placed (R378): its visible threads that have not
exited, and its copies. Only the even lanes of a protected pair are visible. -/
def Recorded.pending (r : Recorded) (n : Nat) (isProtected : Bool) : Nat :=
  let rs := (r.threads n).getD []
  ((List.range rs.length).filter fun i =>
    !(isProtected && i % 2 == 1) && imgBits (rs.getD i []) 0 0 3 != 0).length + r.copies.length
      + r.loose.length

end Sys2Proof.Machine
end

