-- ==== Sys2Proof/Machine/Raster.lean ====
section
/-! DEFINITION. Rasterisation (R184 to R189): the walk over a triangle's bounding box, coverage in exact
arithmetic, the sample quad, and the release of a rendezvous group. -/

namespace Sys2Proof.Machine

/-- A point in 16.8 coordinates. -/
structure Point where
  x : Int
  y : Int
  deriving DecidableEq, Repr

/-- A coordinate of a key register: its low 24 bits, signed (R184). -/
def coord (v : Quad) : Int := ((v.setWidth 24 : BitVec 24)).toInt

/-- The edge function of R187. -/
def edge (a b p : Point) : Int := (b.x - a.x) * (p.y - a.y) - (b.y - a.y) * (p.x - a.x)

/-- A top-left edge (R187). -/
def topLeft (a b : Point) : Bool :=
  decide (b.y - a.y < 0) || (decide (b.y - a.y = 0) && decide (0 < b.x - a.x))

/-- The inside of one edge of the walking order. -/
def inside (a b p : Point) : Bool := decide (0 < edge a b p) || (edge a b p == 0 && topLeft a b)

/-- A triangle as given. -/
structure Tri where
  v0 : Point
  v1 : Point
  v2 : Point
  deriving DecidableEq, Repr

/-- Twice its signed area, A of R187. -/
def Tri.area (t : Tri) : Int := edge t.v0 t.v1 t.v2

/-- A sample point is covered (R187): in the walking order that makes A positive. -/
def Tri.covers (t : Tri) (p : Point) : Bool :=
  let (v1, v2) := if t.area < 0 then (t.v2, t.v1) else (t.v1, t.v2)
  inside t.v0 v1 p && inside v1 v2 p && inside v2 t.v0 p

def min3 (a b c : Int) : Int := min a (min b c)
def max3 (a b c : Int) : Int := max a (max b c)

/-- The bounding box in tiles: first column, columns, first row, rows (R186). -/
structure Tiles where
  x0 : Int
  nx : Nat
  y0 : Int
  ny : Nat
  deriving DecidableEq, Repr

def Tri.tiles (t : Tri) : Tiles :=
  let lo (a b c : Int) := min3 a b c / 256 / 8
  let hi (a b c : Int) := max3 a b c / 256 / 8
  let x0 := lo t.v0.x t.v1.x t.v2.x
  let y0 := lo t.v0.y t.v1.y t.v2.y
  ⟨x0, (hi t.v0.x t.v1.x t.v2.x - x0 + 1).toNat, y0, (hi t.v0.y t.v1.y t.v2.y - y0 + 1).toNat⟩

/-- Whether a pixel lies in the bounding box (R186). -/
def Tri.boxed (t : Tri) (x y : Int) : Bool :=
  decide (min3 t.v0.x t.v1.x t.v2.x / 256 ≤ x) && decide (x ≤ max3 t.v0.x t.v1.x t.v2.x / 256)
    && decide (min3 t.v0.y t.v1.y t.v2.y / 256 ≤ y) && decide (y ≤ max3 t.v0.y t.v1.y t.v2.y / 256)

/-- Bit k of a number as a number. -/
def bitAt (n k : Nat) : Nat := n / 2 ^ k % 2

/-- The pixel at a place of the walk: tile number times 64 plus Morton position (R186). -/
def Tiles.pixel (b : Tiles) (w : Nat) : Int × Int :=
  let tile := w / 64
  let p := w % 64
  (8 * (b.x0 + (tile % b.nx : Nat)) + (4 * bitAt p 4 + 2 * bitAt p 2 + bitAt p 0 : Nat),
   8 * (b.y0 + (tile / b.nx : Nat)) + (4 * bitAt p 5 + 2 * bitAt p 3 + bitAt p 1 : Nat))

/-- The sample of a pixel (R186). -/
def sampleOf (x : Int × Int) : Point := ⟨256 * x.1 + 128, 256 * x.2 + 128⟩

/-- A place of the walk gives a covered sample. -/
def Tri.hit (t : Tri) (w : Nat) : Bool :=
  let x := t.tiles.pixel w
  t.boxed x.1 x.2 && t.covers (sampleOf x)

/-- The walk from a place: the covered places given, as many as are wanted, and the place after the
last, or none where the walk ends (R186, R188). -/
def walkFrom (hit : Nat → Bool) : Nat → Nat → Nat → List Nat × Option Nat
  | 0, _, _ => ([], none)
  | fuel + 1, w, want =>
    if want = 0 then ([], some w)
    else if hit w then
      let (ws, next) := walkFrom hit fuel (w + 1) (want - 1)
      (w :: ws, next)
    else walkFrom hit fuel (w + 1) want

/-- A triangle's walk. -/
def Tri.walk (t : Tri) (start want : Nat) : List Nat × Option Nat :=
  walkFrom t.hit (64 * t.tiles.nx * t.tiles.ny - start) start want

/-- z of a sample (R189). -/
def Tri.depth (t : Tri) (z0 z1 z2 : Nat) (p : Point) : Nat :=
  match multipleF32 z0, multipleF32 z1, multipleF32 z2 with
  | some a, some b, some c =>
    let e1 := edge t.v2 t.v0 p
    let e2 := edge t.v0 t.v1 p
    ratioF32 ((t.area - e1 - e2) * a + e1 * b + e2 * c) (t.area * 2 ^ (-fp32.qmin).toNat)
      (fp32.neg z0 && fp32.neg z1 && fp32.neg z2)
  | _, _, _ => fp32.nan

/-- The sample quad of a pixel (R188, R189). -/
def Tri.quad (t : Tri) (z0 z1 z2 : Nat) (x : Int × Int) : Quad :=
  let p := sampleOf x
  (BitVec.ofNat 32 (t.depth z0 z1 z2 p)) ++ (BitVec.ofNat 32 (ratioF32 (edge t.v0 t.v1 p) t.area false))
    ++ (BitVec.ofNat 32 (ratioF32 (edge t.v2 t.v0 p) t.area false))
    ++ (BitVec.ofInt 16 x.2) ++ (BitVec.ofInt 16 x.1)

/-- The triangle of nine latched keys. -/
def triOf (v : List Quad) : Tri :=
  let c (i : Nat) := coord (v.getD i 0)
  ⟨⟨c 0, c 1⟩, ⟨c 3, c 4⟩, ⟨c 6, c 7⟩⟩

/-- The samples that a release gives, in order, and the new token; none where the tile number passes
its field, whose value no rule states (log 2). -/
def rastGive (v : List Quad) (want : Nat) : List (Int × Int) × Option Nat :=
  let t := triOf v
  let token := ((v.getD 9 0).setWidth 32 : Word).toNat
  if token / 2 ^ 31 = 1 ∨ t.area = 0 then ([], some (2 ^ 31))
  else
    match t.walk (token % 2 ^ 30) want with
    | (ws, none) => (ws.map t.tiles.pixel, some (2 ^ 31))
    | (ws, some w) => (ws.map t.tiles.pixel, if w < 2 ^ 30 then some w else none)

/-- A sample or its absence at one member (R188). -/
def Thread.sampled (t : Thread) (d : Opnd) (v : List Quad) (x : Option (Int × Int)) : Thread :=
  let t1 := { t with preds := bitPut t.preds 6 x.isSome }
  match x with
  | some p =>
    let z (i : Nat) : Nat := ((v.getD i 0).setWidth 32 : Word).toNat
    t1.writeOpnd d .w128 ((triOf v).quad (z 2) (z 5) (z 8) p) false
  | none => t1

/-- Samples given to members in order. -/
def State.giveSamples (s : State) (d : Opnd) (v : List Quad) :
    List Arr → List (Int × Int) → State
  | [], _ => s
  | a :: g, xs =>
    let s1 := if xs.isEmpty then s else s.touch a.r (d.names .w128)
    (s1.modThread a.r fun t => t.sampled d v xs.head?).giveSamples d v g (xs.drop 1)

/-- The members whose keys the release of a group writes: in protected launch mode the visible lanes'
group writes for its shadows too. -/
def State.tokenLanes (s : State) (c : Cove) (g : List Arr) : List Nat :=
  (sortArr g).flatMap fun a =>
    if c.isProtected then
      (if ((s.thread? (shadowOf a.r)).map Thread.active).getD false then [a.r.lane, a.r.lane + 1]
       else [a.r.lane])
    else [a.r.lane]

/-- The release of a rast group (R188): the leader's triangle and token; nothing where no member
contributes. -/
def State.rastRelease (s : State) (c : Cove) (d b : Opnd) (g : List Arr) : State :=
  match contributing g with
  | [] => s
  | a :: rest =>
    let give := rastGive a.l.vals (rest.length + 1)
    let s1 := s.giveSamples d a.l.vals (a :: rest) give.1
    let (token, s2) : Word × State := match give.2 with
      | some v => (BitVec.ofNat 32 v, s1)
      | none => (s1.draw.1.setWidth 32, s1.draw.2)
    match b with
    | .k n =>
      if isShadow c a.r then s2
      else s2.keyWrite a.t.cove a.t.crew (s.tokenLanes c g) (a.l.clause, a.l.slot)
        fun _ k => k.write n.val token
    | _ => s2

/-- The release of a complete cross-lane or rast group (R175): its writes, the merge of strands where
its mask covers the crew, and its members. -/
def State.crossRelease (s : State) (c : Cove) (a : Arr) (g : List Arr) : State :=
  let s1 := match a.l.instr with
    | .rast _ d _ b _ => s.rastRelease c d b g
    | i => s.crossWrite c i g
  let s2 := if s1.fullCrew c a then s1.meetCrew a.t.cove a.t.crew (logicalHalf c a.r.lane) else s1
  s2.unlatchAll g

/-- Nine key registers from one up, and the token (R184). -/
def rastSources (a b : Opnd) : List (Opnd × Width) :=
  match a with
  | .k n => ((List.range 9).map fun i => (Opnd.k (Fin.ofNat 64 (n.val + i)), .w32)) ++ [(b, .w32)]
  | _ => [(b, .w32)]

/-- rast (R184). -/
def execRast (gd : Guard) (d a b c : Opnd) (s : State) : Host.Outcome State Fault Refusal :=
  crossOp s gd (.rast gd d a b c) (rastSources a b) c

end Sys2Proof.Machine
end

