-- ==== Sys2Proof/Machine/Sweep.lean ====
section
/-! DEFINITION. The groups of a cove examined when its members have ended a clause, exited or been
cancelled: differing masks, releases, and groups that can never release (R175, R176, R265, R266); and
the array queue's own events, after which a gang that waited for room is released. -/

namespace Sys2Proof.Machine

/-- A group none of whose arrived members is still in its clause. -/
def settled (g : List Arr) : Bool := g.all fun a => a.t.atLatch

/-- The members that a group still waits for. -/
def State.missing (s : State) (c : Cove) (a : Arr) (g : List Arr) : List (TRef × Thread) :=
  (s.needed c a).filter fun e => !g.any fun x => x.r == e.1

/-- Whether the group of an arrival may release (R175, R264). -/
def State.isComplete (s : State) (c : Cove) (all : List Arr) (a : Arr) : Bool :=
  let g := groupOf c all a
  settled g && (s.missing c a g).isEmpty

/-- A group whose arrived members hold different masks (R175). -/
def masksDiffer (c : Cove) (all : List Arr) (a : Arr) : Bool :=
  a.l.kind == .cross && (groupOf c all a).any fun x => x.l.mask != a.l.mask

/-- A gang of shadows, which releases with the gang of its visible lanes (R268). -/
def shadowGang (c : Cove) (a : Arr) : Bool := a.l.kind == .gang && c.parity a.r.lane == 1

/-- A complete group released; none where the array queue has no room for its operation. -/
def State.releaseGroup (s : State) (c : Cove) (all : List Arr) (a : Arr) : Option State :=
  let g := groupOf c all a
  match a.l.kind with
  | .cross => some (s.crossRelease c a g)
  | .merge => some (s.mergeRelease c a g)
  | .gang => s.gangRelease c a g

/-- Groups of a set that hold a thread. -/
def heldIn (c : Cove) (all : List Arr) (set : List Arr) (r : TRef) : Bool :=
  all.any fun x => x.r == r && set.any fun a => sameGroup c a x

/-- The largest part of a set of groups, each given by an arrival, in which every missing member is
held at a latch of the part, and by nothing else (R176). -/
def State.stuckSet (s : State) (c : Cove) (all : List Arr) : Nat → List Arr → List Arr
  | 0, set => set
  | n + 1, set =>
    State.stuckSet s c all n (set.filter fun a =>
      (s.missing c a (groupOf c all a)).all fun e => e.2.heldThere && heldIn c all set e.1)

/-- A thread has arrived in a complete group, which waits only for room in the array queue (R273). -/
def State.waitsForRoom (s : State) (c : Cove) (all : List Arr) (r : TRef) : Bool :=
  all.any fun x => x.r == r && s.isComplete c all x

/-- Row 3 of R266 for a gang; a member whose own gang only waits for room in the array queue is not
stuck: the queue changes no more than duration (R273). -/
def State.gangStuck (s : State) (c : Cove) (all : List Arr) (a : Arr) : Bool :=
  let missing := s.missing c a (groupOf c all a)
  a.l.kind == .gang && (s.needed c a).all (fun e => e.2.heldThere)
    && !missing.isEmpty && !missing.any fun e => s.waitsForRoom c all e.1

/-- Every member of the crews of a gang that is held at an mma latch. -/
def gangHeld (c : Cove) (all : List Arr) (a : Arr) : List Arr :=
  all.filter fun x => x.l.kind == .gang && a.l.mask.testBit (crewNumber c x.t.crew x.r.lane)

/-- GANG_MISMATCH in members: the lowest slot of a clause first (R176). -/
def State.mismatchAll (s : State) (g : List Arr) : State :=
  (g.mergeSort fun x y => decide (x.l.slot ≤ y.l.slot)).foldl (fun s a => s.mismatch a) s

/-- One action on the groups of a cove, if one is due. -/
def State.sweepOne (s : State) (cr : CoveRef) (c : Cove) : Option State :=
  let all := s.arrivals cr
  match all.find? (masksDiffer c all) with
  | some a => some (s.mismatchAll (groupOf c all a))
  | none =>
    match (all.filter fun a => !shadowGang c a && s.isComplete c all a).findSome?
        (s.releaseGroup c all) with
    | some s1 => some s1
    | none =>
      let held := all.filter fun a => settled (groupOf c all a) && !s.isComplete c all a
      match s.stuckSet c all held.length held with
      | a :: rest => some (s.mismatchAll (all.filter fun x => (a :: rest).any fun y => sameGroup c y x))
      | [] =>
        match all.find? (s.gangStuck c all) with
        | some a => some (s.mismatchAll (gangHeld c all a))
        | none => none

/-- The groups of a cove examined until nothing more is due. -/
def State.sweepFuel : Nat → State → CoveRef → State
  | 0, s, _ => s
  | n + 1, s, cr =>
    match s.cove? cr with
    | none => s
    | some c =>
      match s.sweepOne cr c with
      | none => s
      | some s1 => State.sweepFuel n s1 cr

def State.sweep (s : State) (cr : CoveRef) : State := State.sweepFuel ((s.arrivals cr).length + 1) s cr

/-- The coves of a core. -/
def State.coresCoves (s : State) (d : DieId) (core : Nat) : List CoveRef :=
  (s.coves.filter fun e => e.1.die == d && e.1.core == core).map Prod.fst

/-- The groups of every cove of a core examined, after its array queue has moved. -/
def State.sweepCore (s : State) (d : DieId) (core : Nat) : State :=
  (s.coresCoves d core).foldl State.sweep s

/-- An operation of the mma group, or mzero, leaves the array (R272, R274). -/
def arrayOpCompleteOp (die : DieId) (core : Nat) (s : State) : Host.Outcome State Fault Refusal :=
  match s.arrayHead die core with
  | none => .next s
  | some (op, c) =>
    match op.kind with
    | .mma v w => .next ((s.runMma die core c op v w.toNat).sweepCore die core)
    | .mzero => .next ((s.runMzero die core c op).sweepCore die core)
    | _ => .next s

/-- The array queue reaches a chdef (R273, R280). -/
def chdefApplyOp (die : DieId) (core : Nat) (s : State) : Host.Outcome State Fault Refusal :=
  match s.arrayHead die core with
  | none => .next s
  | some (op, c) =>
    match op.kind with
    | .chdef n ws =>
      .next (((s.modCore die core fun k => { k with
        chains := aput k.chains n (c.ctx, ws) }).endArray die core op 0 0).sweepCore die core)
    | _ => .next s

/-- The chain unit finishes a run (R282). -/
def chrunCompleteOp (die : DieId) (core : Nat) (s : State) : Host.Outcome State Fault Refusal :=
  match s.arrayHead die core with
  | none => .next s
  | some (op, c) =>
    match op.kind with
    | .chrun n => .next ((s.runChain die core c op n).sweepCore die core)
    | _ => .next s

end Sys2Proof.Machine
end

