-- ==== Sys2Proof/Machine/Walk.lean ====
section
/-! DEFINITION. The leaves of a context's page tables, taken from the table granules' own contents
(R325 to R327), for the operations that go through all of them: checkpoint marking, scrub, links. -/

namespace Sys2Proof.Machine

/-- The index of each entry of a table granule that is not zero, in rising order. -/
def entryIndexes (m : Mem) (table : Nat) : List Nat :=
  ((m.filter fun c => decide (table ≤ c.1) && decide (c.1 < table + granuleSize)).map
    fun c => (c.1 - table) / 8).eraseDups

/-- The entries of a table granule that are not zero. -/
def tableEntries (m : Mem) (table : Nat) : List (Nat × DWord) :=
  (entryIndexes m table).map fun i => (i, BitVec.ofNat 64 (leNat (memBytes m (table + 8 * i) 8)))

/-- The leaves of a third-level table: spans stand for their group (R327). -/
def thirdLeaves (d : DieId) (m : Mem) (table va : Nat) : List Xlat :=
  let es := tableEntries m table
  es.filterMap fun e =>
    let lead := es.find? fun x => x.1 == e.1 / 32 * 32
    let spanned := match lead with
      | some x => pteType x.2 == 2 && pteSpan x.2
      | none => false
    if spanned then
      if e.1 % 32 = 0 ∧ pteLeafOk d e.2 ∧ pteGranule e.2 % 32 = 0 then
        some ⟨pteGranule e.2 * granuleSize, e.2, table + 8 * e.1, va + e.1 * granuleSize, 2 ^ 21⟩
      else none
    else if pteLeafOk d e.2 && !pteSpan e.2 then
      some ⟨pteGranule e.2 * granuleSize, e.2, table + 8 * e.1, va + e.1 * granuleSize, granuleSize⟩
    else none

/-- The leaves of a second-level table. -/
def secondLeaves (d : DieId) (m : Mem) (table va : Nat) : List Xlat :=
  (tableEntries m table).flatMap fun e =>
    if pteLeafOk d e.2 && pteGranule e.2 % 2 ^ 13 == 0 then
      [⟨pteGranule e.2 * granuleSize, e.2, table + 8 * e.1, va + e.1 * 2 ^ 29, 2 ^ 29⟩]
    else if pteTableOk e.2 then thirdLeaves d m (pteGranule e.2 * granuleSize) (va + e.1 * 2 ^ 29)
    else []

/-- Every leaf of a context on a die, in rising order of virtual address. -/
def State.leaves (s : State) (d : DieId) (ctx : Nat) : List Xlat :=
  match (s.ctx? ctx).bind (Context.root · d) with
  | none => []
  | some root =>
    (tableEntries (s.die d).dram root).flatMap fun e =>
      if pteTableOk e.2 then
        secondLeaves d (s.die d).dram (pteGranule e.2 * granuleSize) (e.1 * 2 ^ 42)
      else []

/-- The granules of the tables below a context's root, from the third level upward, the root last. -/
def State.tableGranules (s : State) (d : DieId) (ctx : Nat) : List Nat :=
  match (s.ctx? ctx).bind (Context.root · d) with
  | none => []
  | some root =>
    let m := (s.die d).dram
    let seconds := (tableEntries m root).filterMap fun e =>
      if pteTableOk e.2 then some (pteGranule e.2) else none
    let thirds := seconds.flatMap fun g => (tableEntries m (g * granuleSize)).filterMap fun e =>
      if pteTableOk e.2 then some (pteGranule e.2) else none
    (thirds ++ seconds ++ [granuleOf root]).eraseDups

/-- The granules a context maps on a die: virtual and physical address, with the leaf. -/
def State.mapped (s : State) (d : DieId) (ctx : Nat) : List (Nat × Nat × Xlat) :=
  (s.leaves d ctx).flatMap fun x => x.granules.map fun g => (g.1, g.2, x)

/-- TLB entries of a context dropped from a list where they map any byte of a range. -/
def tlbDrop (ctx a n : Nat) (l : List TlbEntry) : List TlbEntry :=
  l.filter fun e => !(e.ctx == ctx
    && (n == 0 || (decide (e.base < a + n) && decide (a < e.base + e.size))))

/-- TLB entries of a context dropped from a core and from its cluster (R343). -/
def State.dropTlb (s : State) (d : DieId) (core ctx a n : Nat) : State :=
  (s.modCore d core fun k => { k with tlb := tlbDrop ctx a n k.tlb }).modDie d fun x =>
    { x with tlb2 := amod x.tlb2 (clusterOf core) (tlbDrop ctx a n) }

/-- Every TLB entry of a context on a die dropped that meets a condition. -/
def State.dropTlbs (s : State) (d : DieId) (p : TlbEntry → Bool) : State :=
  s.modDie d fun x => { x with
    cores := x.cores.map fun c => (c.1, { c.2 with tlb := c.2.tlb.filter fun e => !p e })
    tlb2 := x.tlb2.map fun c => (c.1, c.2.filter fun e => !p e) }

end Sys2Proof.Machine
end

