-- ==== Sys2Proof/Machine/Tables.lean ====
section
/-! DEFINITION. The table instructions (R340 to R346). -/

namespace Sys2Proof.Machine

/-- Fields of the control word of bind and unbind (R340). -/
def bindIndex (v : Word) : Nat := v.toNat % 256
def bindKind (v : Word) : Bool := v.getLsbD 8
def bindReserved (v : Word) : Bool := v.toNat / 512 != 0

/-- The index limits of R341, order 4. -/
def bindIndexOk (cv : Cove) (v : Word) : Bool :=
  !bindReserved v && (!bindKind v || decide (bindIndex v < cv.stashMax))

/-- A new window overlaps another valid window of the cove in either range (R333, R341). -/
def Cove.windowClash (cv : Cove) (i : Nat) (base : Int) (n offset : Nat) : Bool :=
  cv.windows.any fun e => e.1 != i
    && ((decide (0 < n) && decide (base < 48 * (e.2.firstSector + e.2.sectors))
        && decide ((48 * e.2.firstSector : Int) < base + n))
      || overlap offset n e.2.offset (48 * e.2.sectors))

/-- The checks of bind, in the order of R341; its bounds are exact (R201). -/
def bindCheck (cv : Cove) (a : Quad × Bool) (ctl : Word) (x : DWord) : Option Stop :=
  let base := capBase a.1
  let n := capLength a.1
  let kind := bindKind ctl
  let bad (c : Cause) : Option Stop := some (.trap c (tvalOf base))
  let unit : Nat := if kind then 48 else 192
  if !effTag a.1 a.2 then bad .capTag
  else if !capHas a.1 (if kind then permRead + permWrite else permRead) then bad .capPerm
  else if capSpace a.1 ≠ 0 then bad .loadFault
  else if !bindIndexOk cv ctl || (kind && (decide (2 ^ 19 ≤ x.toNat)
      || cv.windowClash (bindIndex ctl) base n x.toNat)) then
    some (.trap .formatInvalid (ctl.setWidth 64))
  else if base % unit ≠ 0 ∨ (base + n) % unit ≠ 0
      ∨ x.toNat % (if kind then 16 else 8) ≠ 0 then bad .align
  else if n = 0 ∨ (if kind then cv.declared < x.toNat + n else 192 * 65536 < n) then bad .capBounds
  else none

/-- The entry of the region binding table that bind writes (R332). -/
def bindingEntry (base : Int) (n : Nat) (object : DWord) : Quad :=
  BitVec.ofNat 128 ((base / 192 % 2 ^ 48).toNat * 2 ^ 80 + (n / 192 - 1) % 2 ^ 16 * 2 ^ 64
    + object.toNat / 8 % 2 ^ 52 * 8 + 1)

/-- An entry of the region binding table written, in the context and in its save area (R323, R324); it
waits while the save area's granule is in transfer. A copy that the tables do not let the core write is an
imprecise fault of the thread (log 104). -/
def State.putBinding (s : State) (c : Cur) (i : Nat) (v : Quad) : Except (State × Stop) State :=
  let s1 := s.modCtx c.ctx fun x => { x with
    bindings := if v = 0 then adel x.bindings i else aput x.bindings i v }
  match s1.ctx? c.ctx with
  | none => .ok s1
  | some x =>
    match s1.agentWrite (frontAgent x.die c.ctx) (x.saveBase + 16 * i) (leBytes 16 v.toNat) [false] with
    | .ok s2 => .ok s2
    | .error (.trap cause a) => .ok (s1.lateAt c false cause a none)
    | .error e => .error (s, e)

/-- The window at an index treated as stash.inv treats it (R341, R342). -/
def State.retireWindow (s : State) (c : Cur) (i : Nat) : State × Option PartStop :=
  match (s.cove? c.t.cove).bind fun k => aget k.windows i with
  | some w => s.cleanRange (some c) c.cv.system c.t.cove (48 * w.firstSector) (48 * w.sectors) true
  | none => (s, none)

/-- A stash window written or removed. -/
def State.putWindow (s : State) (cr : CoveRef) (i : Nat) (w : Option Window) : State :=
  s.modCove cr fun c => { c with
    windows := match w with
      | some x => aput c.windows i x
      | none => adel c.windows i }

/-- bind (R341). -/
def bindOp (s : State) (gd : Guard) (a b x : Opnd) : Host.Outcome State Fault Refusal :=
  onceComparing s gd [(a, .w128), (b, .w32), (x, .w64)] id fun s c vs =>
    s.afterOwn c true (fun s _ _ => s) fun s =>
      let ctl := lo32 (nth vs 1)
      let obj := lo64 (nth vs 2)
      let base := capBase (nth vs 0).1
      let n := capLength (nth vs 0).1
      match bindCheck c.cv (nth vs 0) ctl obj with
      | some e => .error (s, e)
      | none =>
        if bindKind ctl then
          afterParts c true (fun s1 => .ok (s1.putWindow c.t.cove (bindIndex ctl)
              (some ⟨(base / 48 % 2 ^ 50).toNat, n / 48, obj.toNat, []⟩)))
            (s.retireWindow c (bindIndex ctl))
        else s.putBinding c (bindIndex ctl) (bindingEntry base n obj)

/-- unbind (R342): an invalid entry stays as it is. -/
def unbindOp (s : State) (gd : Guard) (a : Opnd) : Host.Outcome State Fault Refusal :=
  onceComparing s gd [(a, .w32)] id fun s c vs =>
    s.afterOwn c true (fun s _ _ => s) fun s =>
      let ctl := lo32 (nth vs 0)
      if !bindIndexOk c.cv ctl then .error (s, .trap .formatInvalid (ctl.setWidth 64))
      else if bindKind ctl then
        afterParts c true (fun s1 => .ok (s1.putWindow c.t.cove (bindIndex ctl) none))
          (s.retireWindow c (bindIndex ctl))
      else if (((s.ctx? c.ctx).bind fun x => aget x.bindings (bindIndex ctl)).isNone) then .ok s
      else s.putBinding c (bindIndex ctl) 0

/-- The scope of a code in a register; none for the reserved codes (R343). -/
def scopeOf (v : Word) : Option Scope := Scope.ofCode v.toNat

/-- tlbinv (R343). -/
def tlbinvOp (s : State) (gd : Guard) (a b x : Opnd) : Host.Outcome State Fault Refusal :=
  onceComparing s gd [(a, .w64), (b, .w32), (x, .w32)] id fun s c vs =>
    match scopeOf (lo32 (nth vs 2)) with
    | none => .error (s, .trap .illegalOp ((lo32 (nth vs 2)).setWidth 64))
    | some scope =>
      .ok ((s.scopeCores c scope).foldl (fun s k =>
        s.dropTlb k.1 k.2 c.ctx (lo64 (nth vs 0)).toNat (65536 * (lo32 (nth vs 1)).toNat)) s)

/-- The start of a teardown (R345): both keys zero, so that what stands under them reads under zero keys;
the slot scrubbing, SCRUBPOS and SCRUBDONE zero. -/
def State.startScrub (s : State) (d : DieId) (slot : Nat) : State :=
  let ctx := ((s.die d).keySlot slot).owner.getD 0
  s.modDie d fun x => { x with
    slots := aput x.slots slot ⟨0, 0, some ctx, .scrubbing⟩
    scrub := some ⟨slot, ctx, 0, [], [], 0⟩
    scrubPos := 0
    scrubDone := 0 }

/-- keyz (R345) on a slot of the issuing interface. -/
def keyzOp (s : State) (gd : Guard) (a : Opnd) : Host.Outcome State Fault Refusal :=
  onceComparing s gd [(a, .w32)] id fun s c vs =>
    let n := (lo32 (nth vs 0)).toNat
    let d := c.r.die
    if !c.cv.system then .error (s, .trap .illegalOp 0)
    else if Config.keySlots d ≤ n ∨ (s.slotOf d c.cv.vi n).isNone then
      .error (s, .trap .formatInvalid (dw n))
    else if (s.die d).scrub.isSome then
      .error (s.modDie d fun x => { x with
        scrubWait := if x.scrubWait.contains c.r then x.scrubWait else x.scrubWait ++ [c.r] }, .hold)
    else .ok (s.startScrub d n)

/-- bind (R341). -/
def execBind (gd : Guard) (a b c : Opnd) (s : State) : Host.Outcome State Fault Refusal :=
  bindOp s gd a b c

/-- unbind (R342). -/
def execUnbind (gd : Guard) (a : Opnd) (s : State) : Host.Outcome State Fault Refusal :=
  unbindOp s gd a

/-- tlbinv (R343). -/
def execTlbinv (gd : Guard) (a b c : Opnd) (s : State) : Host.Outcome State Fault Refusal :=
  tlbinvOp s gd a b c

/-- keyz (R345). -/
def execKeyz (gd : Guard) (a : Opnd) (s : State) : Host.Outcome State Fault Refusal := keyzOp s gd a

/-- ptsync (R344): the walker caches hold nothing that a walk can see. -/
def execPtsync (gd : Guard) (s : State) : Host.Outcome State Fault Refusal :=
  onceComparing s gd [] id fun s c _ =>
    if !c.cv.system then .error (s, .trap .illegalOp 0) else s.fenceAt c .sys

end Sys2Proof.Machine
end

