-- ==== Sys2Proof/Machine/Launch.lean ====
section
/-! DEFINITION. Launches in the command front end: task control blocks (R383), the checks of a launch
record (R288, R290, R65), exit of threads, completion of coves and retirement of entries (R46, R169,
R378, R384), the firings of coalescing nodes (R385), and the instances that a selector names (R380). -/

namespace Sys2Proof.Machine

/-! Task control blocks. -/

/-- Fields of a task control block, by its words (R383). -/
def tcbPreds (b : List DWord) : Nat := bitsOf (recWord b 0) 32 32
def tcbGraph (b : List DWord) : Nat := bitsOf (recWord b 0) 16 16
def tcbCount (b : List DWord) : Nat := bitsOf (recWord b 0) 8 8
def tcbCoalesces (b : List DWord) : Bool := bitsOf (recWord b 0) 1 1 == 1
def tcbBuffer (b : List DWord) : Nat := bitsOf (recWord b 9) 0 55
def tcbThreshold (b : List DWord) : Nat := bitsOf (recWord b 10) 48 16
def tcbCapacity (b : List DWord) : Nat := bitsOf (recWord b 10) 32 16
def tcbSize (b : List DWord) : Nat := bitsOf (recWord b 10) 16 16
def tcbTail (b : List DWord) : Nat := bitsOf (recWord b 11) 32 32
def tcbHead (b : List DWord) : Nat := bitsOf (recWord b 11) 0 32
def tcbReleased (b : List DWord) : Nat := bitsOf (recWord b 12) 32 32
def tcbFirings (b : List DWord) : Nat := bitsOf (recWord b 12) 16 16

/-- The successors' block addresses, words 1 to count. -/
def tcbSuccessors (b : List DWord) : List Nat :=
  (List.range (min 8 (tcbCount b))).map fun i => bitsOf (recWord b (i + 1)) 0 55

/-- Records put and not yet fired. -/
def tcbWaiting (b : List DWord) : Nat := (tcbTail b + 2 ^ 32 - tcbHead b) % 2 ^ 32

/-- Records put whose firing has not retired. -/
def tcbUnreleased (b : List DWord) : Nat := (tcbTail b + 2 ^ 32 - tcbReleased b) % 2 ^ 32

/-- The value of the first field of a list that fails. -/
def badField : List (Bool × Nat) → Option Nat
  | [] => none
  | (true, v) :: _ => some v
  | (false, _) :: rest => badField rest

/-- A reserved field by its word and place. -/
def reservedAt (r : List DWord) (i lo len : Nat) : Bool × Nat :=
  (bitsOf (recWord r i) lo len != 0, bitsOf (recWord r i) lo len)

/-- The reserved fields of a block (R383). -/
def tcbReserved (b : List DWord) : List (Bool × Nat) :=
  [reservedAt b 0 2 6, reservedAt b 0 0 1]
    ++ ((List.range 8).map fun i => reservedAt b (i + 1) 55 9)
    ++ (if tcbCoalesces b then [reservedAt b 10 0 16, reservedAt b 12 0 16] else [])
    ++ [reservedAt b 13 0 64, reservedAt b 14 0 64, reservedAt b 15 0 64]

/-- The limits of a block's fields (R383). -/
def tcbLimits (b : List DWord) : List (Bool × Nat) :=
  [(decide (8 < tcbCount b), tcbCount b)]
    ++ (if tcbCoalesces b then
      [(tcbBuffer b % 16 != 0, tcbBuffer b), (tcbThreshold b == 0, tcbThreshold b),
        (tcbCapacity b == 0, tcbCapacity b),
        (tcbSize b % 16 != 0 || decide (tcbSize b < 16) || decide (4096 < tcbSize b), tcbSize b)]
      else [])

/-- The words of a block as an agent reads them. -/
def State.readBlock (s : State) (g : Agent) (a : Nat) : Except Stop (State × List DWord) :=
  match s.agentRead g .read a 128 with
  | .error e => .error e
  | .ok (s1, bs, _, none) => .ok (s1, wordsOf 16 bs)
  | .ok (_, _, _, some x) => .error (.trap .uncorrectable (dw x))

/-- A word of a block written by hardware at its home (R383). -/
def State.writeBlock (s : State) (g : Agent) (a i v : Nat) : Except Stop State :=
  s.agentWrite g (a + 8 * i) (leBytes 8 v) []

/-- The words of a block with one of them changed. -/
def setWord (b : List DWord) (i v : Nat) : List DWord := b.set i (dw v)

/-! The checks of a launch record. -/

/-- Fields of a launch record (R288). -/
def recBlock (r : List DWord) : Nat := bitsOf (recWord r 6) 0 55
def recConstLen (r : List DWord) : Nat := bitsOf (recWord r 5) 32 32
def recConstBase (r : List DWord) : Nat := bitsOf (recWord r 4) 0 55
def recKeyBase (r : List DWord) : Nat := bitsOf (recWord r 3) 0 55
def recJob (r : List DWord) : Nat := bitsOf (recWord r 2) 48 16
def recPhase (r : List DWord) : Nat := bitsOf (recWord r 2) 32 16
def recKeys (r : List DWord) : Nat := bitsOf (recWord r 2) 16 7
def recNoReplay (r : List DWord) : Bool := bitsOf (recWord r 2) 1 1 == 1
def recSystem (r : List DWord) : Bool := bitsOf (recWord r 2) 0 1 == 1
def recCoves (r : List DWord) : Nat := bitsOf (recWord r 1) 32 32
def recWindows (r : List DWord) : Nat := bitsOf (recWord r 1) 16 6
def recBay (r : List DWord) : Nat := bitsOf (recWord r 1) 8 5
def recCrews (r : List DWord) : Nat := bitsOf (recWord r 1) 0 6
def recKernel (r : List DWord) : Nat := bitsOf (recWord r 0) 0 55

/-- The reserved fields of a record (R288), in the order in which a nonzero one is reported (log 121). -/
def recordReserved (r : List DWord) : List (Bool × Nat) :=
  [reservedAt r 6 55 9, reservedAt r 5 0 32, reservedAt r 4 55 9, reservedAt r 3 55 9,
    reservedAt r 2 23 9, reservedAt r 2 2 14, reservedAt r 1 22 10, reservedAt r 1 13 3,
    reservedAt r 1 6 2, reservedAt r 0 55 9]

/-- The limits of a record's fields (R288). -/
def recordLimits (r : List DWord) : List (Bool × Nat) :=
  [(recBlock r % 64 != 0, recBlock r), (recConstBase r % 16 != 0, recConstBase r),
    (recKeyBase r % 16 != 0, recKeyBase r), (decide (64 < recKeys r), recKeys r),
    (recCoves r == 0, recCoves r), (decide (32 < recWindows r), recWindows r),
    (decide (16 < recBay r), recBay r), (recCrews r == 0 || decide (32 < recCrews r), recCrews r),
    (recKernel r % 8 != 0, recKernel r)]

/-- Whether a header's own fields and mode bits are accepted (R44, R65). -/
def headerOk (w : DWord) : Bool :=
  ((kernelIsa w == 1 && kernelC16 w && kernelRevision w == 1) || (kernelIsa w == 2 && !kernelC16 w))
    && (kernelRevision w == 1 || kernelRevision w == 2)
    && decide (bitsOf w 11 5 ≤ 23) && decide (kernelScratchUnits w ≤ 94)

/-- The handler clause reached by stepping over clauses from an address (R64, R65): its address and its
header. -/
def State.stepHandler (g : Agent) : Nat → State → Nat → Except Stop (State × Nat × DWord)
  | 0, s, a =>
    match s.fetchBytes g a 8 with
    | .error e => .error e
    | .ok (s1, bs) => .ok (s1, a, BitVec.ofNat 64 (leNat bs))
  | n + 1, s, a =>
    match s.fetchBytes g a 8 with
    | .error e => .error e
    | .ok (s1, bs) => State.stepHandler g n s1 (a + clauseBytes (BitVec.ofNat 64 (leNat bs)))

/-- A range that can be read: its locations' leaves noted and no poison in it. -/
def State.probeLocs (s : State) (g : Agent) : List Loc → Except Stop State
  | [] => .ok s
  | l :: ls =>
    match (s.noteLoc g false l).sense l.home l.pa l.n with
    | (s1, none) => s1.probeLocs g ls
    | (_, some x) => .error (.trap .uncorrectable (dw (l.va + (x - l.pa))))

def State.probe (s : State) (g : Agent) (a n : Nat) : Except Stop State :=
  match s.locateAll g .read (granuleParts a n) with
  | .error e => .error e
  | .ok ls => s.probeLocs g ls

/-- The agent of a launch's own reads in the front end (R65, R288): the record's system bit judges the
pages. -/
def launchAgent (d : DieId) (ctx : Nat) (r : List DWord) : Agent :=
  ⟨d, none, ctx, none, recSystem r, false⟩

/-- What the checks of a launch give: its header, its handler and its block. -/
structure Checked where
  header : DWord
  handler : DWord
  block : List DWord
  deriving DecidableEq, Repr

/-- The header with its handler (R65, R290). -/
def State.checkHeader (s : State) (g : Agent) (a : Nat) : Except Stop (State × DWord × DWord) :=
  match s.fetchBytes g a 8 with
  | .error e => .error e
  | .ok (s1, bs) =>
    let w : DWord := BitVec.ofNat 64 (leNat bs)
    if !headerOk w then .error (.trap .formatInvalid w)
    else if kernelHandlerSteps w = 0 then .ok (s1, w, 0)
    else
      match State.stepHandler g (kernelHandlerSteps w) s1 (a + 8) with
      | .error e => .error e
      | .ok (s2, h, hw) => if clauseLands hw then .ok (s2, w, dw h) else .error (.trap .landing (dw h))

/-- The checks of R290 in their order: a trap is a refusal with its cause and word 4. A block that
cannot be read fails last. -/
def State.checkLaunch (s : State) (d : DieId) (ctx vi : Nat) (r : List DWord) :
    Except Stop (State × Checked) :=
  let g := launchAgent d ctx r
  let refuse (v : Nat) : Except Stop (State × Checked) := .error (.trap .formatInvalid (dw v))
  let readable := recBlock r != 0 && (badField (recordReserved r)).isNone && recBlock r % 64 == 0
  let block : Except Stop (State × List DWord) := if readable then s.readBlock g (recBlock r) else .ok (s, [])
  let bs := match block with | .ok x => x.2 | .error _ => []
  match badField (recordReserved r ++ tcbReserved bs) with
  | some v => refuse v
  | none =>
    match badField (recordLimits r ++ tcbLimits bs) with
    | some v => refuse v
    | none =>
      if recBay r ≠ 0 ∧ recCoves r % recBay r ≠ 0 then refuse (recCoves r)
      else if recSystem r && !(s.vi d vi).system then .error (.trap .formatInvalid (recWord r 2))
      else
        match s.checkHeader g (recKernel r) with
        | .error e => .error e
        | .ok (s1, w, h) =>
          match s1.probe g (recKeyBase r) (4 * min (recKeys r) (kernelKeys w)) with
          | .error e => .error e
          | .ok s2 =>
            match s2.probe g (recConstBase r) (recConstLen r) with
            | .error e => .error e
            | .ok s3 =>
              if recBlock r = 0 then .ok (s3, ⟨w, h, []⟩)
              else
                match s3.readBlock g (recBlock r) with
                | .error e => .error e
                | .ok (s4, b) => .ok (s4, ⟨w, h, b⟩)

/-! Entries. -/

/-- The first free front-end entry of a die (R283). -/
def State.freeEntry (s : State) (d : DieId) : Option Nat :=
  (List.range (Config.frontEndEntries d)).find? fun e => (s.entry? d e).isNone

/-- The virtual entry number after a number (R380). -/
def nextNumber (n : Word) : Word := if n + 1 = 0xFFFFFFFF then 0 else n + 1

/-- A virtual entry number taken from an interface's sequence. -/
def State.takeNumber (s : State) (d : DieId) (vi : Nat) : Word × State :=
  ((s.vi d vi).nextEntry, s.modVi d vi fun i => { i with nextEntry := nextNumber i.nextEntry })

/-- An entry for a launch record, before its checks. -/
def newEntry (vi ctx : Nat) (number : Word) (r : List DWord) (q prio : Nat) (replay : Bool) : Entry where
  vi := vi
  ctx := ctx
  number := number
  record := r
  queue := q
  priority := prio
  state := .ready
  replayable := replay && !recNoReplay r
  header := 0
  handler := 0
  graph := 0
  hold := 0
  unplaced := []
  placed := 0
  error := false
  cancelled := false
  failures := []
  failed := none
  written := []
  firingOf := none
  band := none
  cut := []
  errors := []
  flush := false

/-- An entry of a die put or removed. -/
def State.putEntry (s : State) (d : DieId) (e : Nat) (x : Option Entry) : State :=
  s.modDie d fun k => { k with
    entries := match x with
      | some y => aput k.entries e y
      | none => adel k.entries e }

/-- A launch taken into a free entry: refused with a record of kind 0 (R290), parked (R45, R384, R385),
or ready with all its coves unplaced. A granule in transfer makes it wait. -/
def State.takeIn (s : State) (d : DieId) (e : Nat) (x : Entry) : Except Stop State :=
  match s.checkLaunch d x.ctx x.vi x.record with
  | .error (.trap cause tval) =>
    .ok ((s.putEntry d e (some { x with state := .retiring, error := true })).writeRecord d x.vi x.record
      ⟨0, cause.code, tval, 0, 0, 0, 0, 0⟩)
  | .error stop => .error stop
  | .ok (s1, k) =>
    .ok (s1.putEntry d e (some { x with
      state := if recBlock x.record != 0 && (tcbCoalesces k.block || tcbPreds k.block != 0) then .parked
               else .ready
      header := k.header
      handler := k.handler
      graph := tcbGraph k.block
      unplaced := List.range (recCoves x.record) }))

/-- A running launch with nothing placed, nothing to place and no hold is retiring (R292, R378). -/
def State.settleEntry (s : State) (d : DieId) (e : Nat) : State :=
  s.modEntry d e fun x =>
    if x.state = .running ∧ x.unplaced = [] ∧ x.placed = 0 ∧ x.hold = 0 then { x with state := .retiring }
    else x

/-! Exit, and completion of coves. -/

/-- The late faults of a thread that ends, as the records that stand for them (R348); a fault pending
behind its handler is dropped (R351). -/
def State.lateFaults (s : State) (r : TRef) (t : Thread) : State :=
  match s.cove? t.cove with
  | none => s
  | some cv =>
    if isShadow cv r then s
    else
      (t.due.filter fun f => f.kind == 2).foldl (fun s f =>
        s.lateFault r.die cv.launch (f.loc.getD (.core r.die r.core)) f.cause
          (s.identity r t f.clause f.slot f.tval)) s

/-- What a thread holds after it has ended. -/
def Thread.end (t : Thread) : Thread :=
  { t with
    status := .exited
    hold := none
    resume := 0
    landFrom := none
    jump := none
    prods := []
    before := none
    defer := []
    latches := []
    entry := none
    pending := none
    due := []
    stopper := none
    exiting := false
    passed := 0
    yielded := false
    stepDue := false }

/-- The bit of a thread in a block bitmap (R28). -/
def mapBit (r : TRef) : Nat := r.slot * 32 + r.lane

/-- A thread taken out of the tide rotation, the serial queue and the stream of its core (R28, R30). -/
def Core.leaveTide (k : Core) (r : TRef) : Core :=
  let maps := (k.bitmap.map fun e => (e.1, { e.2 with map := bitPut e.2.map (mapBit r) false })).filter
    fun e => e.2.map != 0
  let queue := k.serialQ.erase r
  { k with
    bitmap := maps
    serialQ := queue
    rotation := k.rotation.filter fun x => match x with
      | some i => (aget maps i).isSome
      | none => !queue.isEmpty
    stream := k.stream.map fun x => ⟨x.serial, x.threads.filter fun y => y.1 != r⟩ }

/-- A thread ends (R169): its late faults are recorded, its arrivals withdrawn, the stops it caused end,
and its strand loses it (R35). -/
def State.exitThread (s : State) (r : TRef) : State :=
  match s.thread? r with
  | none => s
  | some t =>
    if !t.active then s
    else
      let s1 := ((s.lateFaults r t).modThread r Thread.end).endStop r
      let s2 := s1.updateCrew t.cove t.crew fun cr => cr.free (s1.lanesOf t.cove t.crew)
      let s3 := s2.modCore r.die r.core fun k => k.leaveTide r
      s3.modDie r.die fun x => { x with scrubWait := x.scrubWait.erase r }

/-- Operations of a cove in flight (R378). -/
def State.coveOps (s : State) (cr : CoveRef) : Nat :=
  let k := s.core cr.die cr.core
  (k.copies.filter fun x => x.cove == cr).length + (k.array.filter fun x => x.cove == cr).length
    + ((k.rays.filter fun x => x.cove == cr).map fun x => x.rounds.length).sum
    + (k.searches.filter fun x => x.cove == cr).length
    + (k.samples.filter fun x => x.cove == cr).length + (k.images.filter fun x => x.cove == cr).length

/-- A cove's pending count: its visible threads that have not exited, and its operations in flight
(R378). -/
def State.covePending (s : State) (cr : CoveRef) (c : Cove) : Nat :=
  ((s.coveThreads cr).filter fun e => e.2.active && !isShadow c e.1).length + s.coveOps cr

/-- Accesses of a cove that are still on their way (R215): a cove completes after them. -/
def State.coveOpen (s : State) (cr : CoveRef) (c : Cove) : Bool :=
  s.link.reqs.any fun q => q.open && q.die == cr.die && q.launch == c.launch && q.cove == c.index

/-- A stash part given up in every window of a cove. -/
def Cove.dropPart (c : Cove) (start : Nat) : Cove :=
  { c with windows := c.windows.map fun e => (e.1, { e.2 with parts := adel e.2.parts start }) }

/-- A part whose write-back faulted is lost, with a record of kind 2 for its cove (R240, R293), in which word 3
names no instruction and is zero (log 122). -/
def State.losePart (s : State) (cr : CoveRef) (c : Cove) (cause : Cause) (a : Nat) : State :=
  (s.modCove cr (Cove.dropPart · a)).launchRecord cr.die c.launch ⟨2, cause.code, dw a, 0, 0, c.index, 0, 0⟩

/-- Every dirty part of a cove written back (R215, R222), with a record of kind 2 for each that faults
(R293); not finished while a granule is in transfer. -/
def State.flushStash : Nat → State → CoveRef → Cove → State × Bool
  | 0, s, _, _ => (s, true)
  | n + 1, s, cr, c =>
    match s.cleanAll none true cr true with
    | (s1, none) => (s1, true)
    | (s1, some (.stop (.trap cause a))) =>
      State.flushStash n (s1.losePart cr c cause a.toNat) cr c
    | (s1, some (.poison a _)) => State.flushStash n (s1.losePart cr c .uncorrectable a) cr c
    | (s1, some _) => (s1, false)

/-- Parts that a cove's windows hold. -/
def Cove.partCount (c : Cove) : Nat := (c.windows.map fun e => e.2.parts.length).sum

/-- No granule of a context's save area is in transfer: a write of the hardware to it need not wait (R208,
R324). -/
def State.saveReady (s : State) (ctx : Nat) : Bool :=
  match s.ctx? ctx with
  | none => true
  | some x => !s.link.transfers.any fun t =>
      t.ctx == ctx && overlap t.va granuleSize x.saveBase x.saveSize

/-- One bit of the spill block map of a context's save area written (R324). -/
def State.spillBit (s : State) (ctx : Nat) (x : Context) (b : Nat) (v : Bool) : Except Stop State :=
  let a := x.saveBase + 0x1040 + b / 8
  match s.agentRead (frontAgent x.die ctx) .read a 1 with
  | .error e => .error e
  | .ok (s1, bs, _, _) => s1.agentWrite (frontAgent x.die ctx) a [bitPut (bs.getD 0 0) (b % 8) v] []

/-- The bits of the spill block map written for a cove of a launch (R324). One that the tables do not let the
hardware write is a late fault of the launch (R348, log 104). -/
def State.spillBits (s : State) (ctx : Nat) (d : DieId) (e index : Nat) (blocks : List Nat) (v : Bool) : State :=
  match s.ctx? ctx with
  | none => s
  | some x =>
    blocks.foldl (fun s b =>
      match s.spillBit ctx x b v with
      | .ok s1 => s1
      | .error (.trap cause a) =>
        s.lateFault d e (.core d 0) cause ⟨1, 0, a, 0, 0, index, 0, 0⟩
      | .error _ => s) s

/-- The slot-table entries of a cove made invalid (R335). -/
def bindOf (v : Quad) : Nat × Nat := (qbits v 80 16, qbits v 96 32)

/-- A context is being torn down on a die (R430): its coves keep what they held (R432). -/
def State.scrubbing (s : State) (d : DieId) (ctx : Nat) : Bool :=
  match (s.die d).scrub with
  | some j => j.ctx == ctx
  | none => false

/-- The threads, crews, ray slots and slot-table entry of a cove released; a teardown keeps the entry. -/
def State.clearCove (s : State) (cr : CoveRef) (c : Cove) : State :=
  let s1 := { s with
    threads := s.threads.filter fun e => e.2.cove != cr
    crews := s.crews.filter fun e => e.1.1 != cr }
  let s2 := s1.modCore cr.die cr.core fun k => { k with
    slots := if s.scrubbing cr.die c.ctx then k.slots
             else k.slots.filter fun e => bindOf e.2 != (c.launch, c.index)
    rays := k.rays.filter fun x => x.cove != cr }
  s2.spillBits c.ctx cr.die c.launch c.index c.spillBlocks false

/-- The coves of a cove's bay that are resident; the cove alone without bays. -/
def State.bayOf (s : State) (cr : CoveRef) (c : Cove) : List (CoveRef × Cove) :=
  if c.bayCount = 0 then [(cr, c)]
  else s.coves.filter fun e => e.1.die == cr.die && e.2.launch == c.launch
    && e.2.index / c.bayCount == c.index / c.bayCount

/-- A complete cove's scratchpad released, with those of its bay once all are complete (R378), unless a
teardown holds them. -/
def State.releaseBay (s : State) (cr : CoveRef) : State :=
  match s.cove? cr with
  | none => s
  | some c =>
    let bay := s.bayOf cr c
    if bay.all (fun e => e.2.complete) && !s.scrubbing cr.die c.ctx then
      { s with coves := s.coves.filter fun e => !bay.any fun b => b.1 == e.1 }
    else s

/-- What a selector names (R380): a cove of a launch, the entries of an instance, a launch whose record
still waits in its queue, or nothing that is known (R379). -/
inductive Named where
  | cove (e idx : Nat)
  | entries (es : List Nat)
  | waiting (w : Waiting)
  | unknown
  deriving DecidableEq, Repr

/-- A launch's record names a block. -/
def Entry.isNode (x : Entry) : Bool := recBlock x.record != 0

/-- Two entries of one instance at a level (R378): a plain launch is a graph by itself. -/
def sameInstance (lv : Level) (k : Nat) (x : Entry) (j : Nat) (y : Entry) : Bool :=
  match lv with
  | .cove | .launch => k == j
  | .graph => k == j || (x.isNode && y.isNode && x.vi == y.vi && recJob x.record == recJob y.record
      && recPhase x.record == recPhase y.record && x.graph == y.graph)
  | .phase => x.vi == y.vi && recJob x.record == recJob y.record && recPhase x.record == recPhase y.record
  | .job => x.vi == y.vi && recJob x.record == recJob y.record

/-- The entry with a virtual entry number of an interface. -/
def State.entryNamed (s : State) (d : DieId) (vi : Nat) (number : Word) : Option Nat :=
  ((s.die d).entries.find? fun e => e.2.vi == vi && e.2.number == number).map Prod.fst

/-- The entries of an instance at a level above the cove, of which entry `e` with the fields `x` is one. -/
def State.instanceOf (s : State) (d : DieId) (lv : Level) (e : Nat) (x : Entry) : Named :=
  .entries (((s.die d).entries.filter fun y => sameInstance lv e x y.1 y.2).map Prod.fst)

/-- The launch with a number of an interface whose record waits in a queue, with its context. -/
def State.waitingNamed (s : State) (d : DieId) (vi : Nat) (number : Word) : Option (Nat × Waiting) :=
  ((s.vi d vi).queues.flatMap fun q => q.waiting.map fun w => (q.ctx, w)).find? fun p =>
    p.2.number == number

/-- The graph identifier in the block of a record (R383); 0 where the block cannot be read. -/
def State.graphOf (s : State) (d : DieId) (ctx : Nat) (r : List DWord) : Nat :=
  match s.agentRead (frontAgent d ctx) .read (recBlock r) 8 with
  | .ok (_, bs, _, _) => tcbGraph (wordsOf 1 bs)
  | .error _ => 0

/-- What a selector names for a thread of a cove (R380). A launch whose record waits in its queue is
known; its graph, phase and job count only the entries that the front end has read (R378). -/
def State.named (s : State) (d : DieId) (c : Cove) (lv : Level) (sel : Word) : Named :=
  match lv with
  | .cove => .cove c.launch (if sel = 0xFFFFFFFF then c.index else sel.toNat)
  | _ =>
    match (if sel = 0xFFFFFFFF then some c.launch else s.entryNamed d c.vi sel) with
    | some e =>
      match s.entry? d e with
      | none => .unknown
      | some x => s.instanceOf d lv e x
    | none =>
      match s.waitingNamed d c.vi sel, lv with
      | none, _ => .unknown
      | some (_, w), .launch => .waiting w
      | some (ctx, w), _ =>
        s.instanceOf d lv (Config.frontEndEntries d)
          { newEntry c.vi ctx sel w.record 0 0 false with graph := s.graphOf d ctx w.record }

/-- A counter word (R379). -/
def counterWord (complete error cancelled : Bool) (hold pending : Nat) : DWord :=
  BitVec.ofNat 64 (complete.toNat * 2 ^ 63 + error.toNat * 2 ^ 62 + cancelled.toNat * 2 ^ 61
    + hold % 2 ^ 16 * 2 ^ 32 + min pending (2 ^ 32 - 1))

/-- Whether a request of a launch has still to be performed (R215). -/
def State.launchOpen (s : State) (d : DieId) (e : Nat) : Bool :=
  s.link.reqs.any fun q => q.open && q.die == d && q.launch == e

/-- A firing of a coalescing node has not retired (R385). -/
def State.hasFirings (s : State) (d : DieId) (e : Nat) : Bool :=
  (s.die d).entries.any fun y => (y.2.firingOf.map Prod.fst) == some e

/-- A launch is complete but for its retirement (R378); a cancelled node's firings retire before it. -/
def State.launchDone (s : State) (d : DieId) (e : Nat) (x : Entry) : Bool :=
  x.state == .retiring && x.placed == 0 && x.unplaced.isEmpty && !s.launchOpen d e && !s.hasFirings d e

/-- The coves of a launch that are resident. -/
def State.launchCoves (s : State) (d : DieId) (e : Nat) : List (CoveRef × Cove) :=
  s.coves.filter fun x => x.1.die == d && x.2.launch == e

/-- The recorded coves of a launch that no placement has restored yet (R370), without those that had
completed. -/
def State.waitingCoves (s : State) (x : Entry) : List Recorded :=
  match s.ctx? x.ctx with
  | none => []
  | some c => c.waiting.filter fun r => secLaunch r.bytes == x.number && !r.isDone (kernelRegs x.header)

/-- The counter word of a cove of a launch: an unplaced one counts what no rule gives, a free value
(log 2). -/
def State.coveWord (s : State) (d : DieId) (e idx : Nat) (x : Entry) : DWord :=
  let err := x.errors.contains idx
  let cut := x.cut.contains idx
  if recCoves x.record ≤ idx then counterWord true false false 0 0
  else
    match (s.launchCoves d e).find? fun k => k.2.index == idx with
    | some (cr, c) =>
      if c.complete then counterWord true err cut 0 0
      else counterWord false err cut 0 (s.covePending cr c)
    | none =>
      match (s.waitingCoves x).find? fun r => secIndex r.bytes == idx with
      | some r => counterWord false err cut 0 (r.pending (kernelRegs x.header) (kernelProtected x.header))
      | none =>
        if x.unplaced.contains idx then counterWord false err cut 0 (s.draw.1.toNat % 2 ^ 32)
        else counterWord true err cut 0 0

/-- The counter word of an instance (R379). -/
def State.counterOf (s : State) (d : DieId) (lv : Level) (n : Named) : DWord :=
  match n with
  | .unknown => counterWord true false false 0 0
  | .waiting w => counterWord false false false w.hold (recCoves w.record)
  | .cove e idx =>
    match s.entry? d e with
    | some x => s.coveWord d e idx x
    | none => counterWord true false false 0 0
  | .entries es =>
    let xs := es.filterMap fun e => (s.entry? d e).map fun x => (e, x)
    match lv, xs with
    | .launch, [(e, x)] =>
      counterWord (s.launchDone d e x) x.error x.cancelled x.hold (x.unplaced.length + x.placed)
    | _, _ =>
      counterWord xs.isEmpty (xs.any fun y => y.2.error) (xs.any fun y => y.2.cancelled) 0 xs.length

/-- Whether an instance reads complete. -/
def State.instanceDone (s : State) (d : DieId) (lv : Level) (n : Named) : Bool :=
  (s.counterOf d lv n).getLsbD 63

/-- A wait at cnt.wt ends as a join at .sys: the thread's core drops its L1 copies (R212, R382). -/
def State.join (s : State) (r : TRef) : State :=
  match (s.thread? r).bind fun t => s.cove? t.cove with
  | some c => (s.clearL1 r.die r.core c.ctx).makeReady r
  | none => s

/-- The threads of a die that wait at cnt.wt on an instance that has completed go on (R382). -/
def State.wakeCounters (s : State) (d : DieId) : State :=
  ((s.threads.filter fun e =>
    match e.2.status with
    | .cntWait _ _ lv sel =>
      e.1.die == d && (match s.cove? e.2.cove with
        | some c => s.instanceDone d lv (s.named d c lv sel)
        | none => false)
    | _ => false).map Prod.fst).foldl State.join s

/-- A context has a cove that is not complete on a core that meets a condition. -/
def State.runsOn (s : State) (d : DieId) (ctx : Nat) (p : Nat → Bool) : Bool :=
  s.coves.any fun e => e.1.die == d && e.2.ctx == ctx && !e.2.complete && p e.1.core

/-- A context leaves a core with its last cove there: its L1 copies go (R191, R217); with its last cove in
a cluster its router maps there go too (R323). -/
def State.switchOut (s : State) (cr : CoveRef) (ctx : Nat) : State :=
  let s1 := if s.runsOn cr.die ctx (· == cr.core) then s else s.clearL1 cr.die cr.core ctx
  let cl := clusterOf cr.core
  if s.runsOn cr.die ctx (clusterOf · == cl) then s1
  else s1.modDie cr.die fun x => { x with remaps := x.remaps.filter fun m => !(m.ctx == ctx && m.cluster == cl) }

/-- A cove whose pending count has reached zero completes (R378): its stash is written back, its slots
and barriers are released, and its launch counts it. -/
def State.finishCove (s : State) (cr : CoveRef) : State :=
  match s.cove? cr with
  | none => s
  | some c =>
    if c.complete || c.recorded.isSome || s.covePending cr c != 0 || s.coveOpen cr c || !s.saveReady c.ctx then s
    else
      match State.flushStash (c.partCount + 1) s cr c with
      | (s1, false) => s1
      | (s1, true) =>
        let s2 := (s1.clearCove cr c).modCove cr fun c => { c with complete := true, windows := [] }
        let s3 := ((s2.switchOut cr c.ctx).releaseBay cr).modEntry cr.die c.launch fun x => { x with placed := x.placed - 1 }
        (s3.settleEntry cr.die c.launch).wakeCounters cr.die

/-- Every cove of a die that can complete does. -/
def State.finishCoves (s : State) (d : DieId) : State :=
  ((s.coves.filter fun e => e.1.die == d).map Prod.fst).foldl State.finishCove s

/-! Cancel (R390). -/

/-- A thread of a cancelled cove stops at its next clause boundary as at exit: at once where it stands
at one. -/
def State.stopThread (s : State) (r : TRef) : State :=
  match s.thread? r with
  | none => s
  | some t =>
    if s.inIssue r || t.held then s.modThread r fun t => { t with exiting := true }
    else s.exitThread r

/-- The engine operations of a cove stopped as hcancel stops them (R307); those of the array queue
and samples complete by themselves. -/
def State.stopOps (s : State) (cr : CoveRef) : State :=
  let k := s.core cr.die cr.core
  let s1 := (k.copies.filter fun x => x.cove == cr).foldl
    (fun s op => s.endCopy cr.die cr.core op (handleWord 1 op.progress)) s
  let word := handleWord 1 0
  let s2 := (k.rays.filter fun x => x.cove == cr).foldl
    (fun s x => x.rounds.foldl (fun s h => s.completeHandle x.owner (some h) word) s) s1
  let s3 := (k.searches.filter fun x => x.cove == cr).foldl
    (fun s x => s.completeHandle x.owner x.handle word) s2
  let s4 := (k.images.filter fun x => x.cove == cr).foldl
    (fun s x => s.completeHandle x.owner x.handle word) s3
  s4.modCore cr.die cr.core fun k => { k with
    rays := k.rays.filter fun x => x.cove != cr
    searches := k.searches.filter fun x => x.cove != cr
    images := k.images.filter fun x => x.cove != cr }

/-- A thread whose cove is cancelled abandons a wait for a teardown (R345, R390): its clause ends there. -/
def State.leaveScrub (s : State) (r : TRef) : State :=
  if (s.die r.die).scrubWait.contains (s.visible r) then
    (s.touchDefer r).modThread r fun t => { t.applyDefer with prods := [], before := none, hold := none }
  else s

/-- A resident cove cancelled. -/
def State.cancelCove (s : State) (cr : CoveRef) : State :=
  let s1 := s.modCove cr fun c => { c with stopping := true, recorded := none }
  let s2 := ((s1.coveThreads cr).map Prod.fst).foldl State.leaveScrub (s1.stopOps cr)
  let s3 := ((s2.coveThreads cr).map Prod.fst).foldl State.stopThread s2
  (s3.sweep cr).finishCove cr

/-- Recorded coves of a launch given up: their sections are not placed or recorded again, and their spill
blocks are free (R324, R391). -/
def State.dropWaiting (s : State) (d : DieId) (e : Nat) (x : Entry) (p : Nat → Bool) : State :=
  let mine (number : Word) (idx : Nat) : Bool := number == x.number && p idx
  match s.ctx? x.ctx with
  | none => s
  | some c =>
    let n := ((s.waitingCoves x).filter fun r => p (secIndex r.bytes)).length
    let free (b : Word × Nat × List Nat) : Bool :=
      mine b.1 b.2.1 && c.waiting.any fun r => secLaunch r.bytes == b.1 && secIndex r.bytes == b.2.1
    let s1 := (c.blocks.filter free).foldl (fun s b => s.spillBits x.ctx d e b.2.1 b.2.2 false) s
    (s1.modCtx x.ctx fun c => { c with
      waiting := c.waiting.filter fun r => !mine (secLaunch r.bytes) (secIndex r.bytes)
      blocks := c.blocks.filter fun b => !free b }).modEntry d e fun y => { y with placed := y.placed - n }

/-- The coves of a launch that have not completed: unplaced, resident or recorded. -/
def State.openCoves (s : State) (d : DieId) (e : Nat) (x : Entry) : List Nat :=
  x.unplaced ++ (((s.launchCoves d e).filter fun k => !k.2.complete).map fun k => k.2.index)
    ++ (s.waitingCoves x).map fun r => secIndex r.bytes

/-- An entry cancelled with all its coves that have not completed: it retires whatever its hold, and its
replay is abandoned (R391). One that has completed takes no notice. -/
def State.cancelEntry (s : State) (d : DieId) (e : Nat) : State :=
  match s.entry? d e with
  | none => s
  | some x =>
    if s.launchDone d e x then s
    else
      let s1 := s.modEntry d e fun y => { y with
        state := .retiring
        cancelled := true
        cut := y.cut ++ s.openCoves d e x
        unplaced := []
        hold := 0
        failures := []
        failed := none }
      let s2 := ((s1.launchCoves d e).map Prod.fst).foldl State.cancelCove (s1.dropWaiting d e x fun _ => true)
      s2.wakeCounters d

/-- A replay that waits for its launch to stand idle is abandoned for the cancel of one cove (R391): the launch
runs on with its other coves, and an error that one of those met stands as in a launch that is not replayable
(R349, log 114). -/
def State.abandonReplay (s : State) (d : DieId) (e idx : Nat) (x : Entry) : State :=
  if x.state = .replaying then
    let s1 := s.modEntry d e fun y => { y with state := .running, failed := none }
    match x.failed with
    | some f => if f.cove = idx then s1
                else s1.launchRecord d e { f with kind := 4, cause := Cause.uncorrectable.code }
    | none => s1
  else s

/-- One cove of a launch cancelled, if it has not completed. -/
def State.cancelOne (s : State) (d : DieId) (e idx : Nat) : State :=
  match s.entry? d e with
  | none => s
  | some x =>
    if !(s.openCoves d e x).contains idx then s
    else
      let s1 := ((s.abandonReplay d e idx x).modEntry d e fun y => { y with
        cancelled := true
        cut := idx :: y.cut
        unplaced := y.unplaced.erase idx }).dropWaiting d e x (· == idx)
      let s2 := match (s.launchCoves d e).find? fun k => k.2.index == idx && !k.2.complete with
        | some k => s1.cancelCove k.1
        | none => s1
      (s2.settleEntry d e).wakeCounters d

/-- cancel on the instance that a selector names; a launch whose record waits in its queue has no entry
and no cove yet. -/
def State.cancelNamed (s : State) (d : DieId) (n : Named) : State :=
  match n with
  | .unknown | .waiting _ => s
  | .cove e idx => s.cancelOne d e idx
  | .entries es => es.foldl (fun s e => s.cancelEntry d e) s

/-! Nodes and retirement. -/

/-- A parked node of a context whose block has an address. -/
def State.nodeAt (s : State) (d : DieId) (ctx a : Nat) : Option Nat :=
  ((s.die d).entries.find? fun e => e.2.ctx == ctx && e.2.state == .parked && recBlock e.2.record == a).map
    Prod.fst

/-- A successor's predecessor count decremented by an atomic at its home; a parked node that is not
coalescing is enqueued when it reaches zero (R46, R384). -/
def State.decrement (s : State) (d : DieId) (ctx a : Nat) : Except Stop State :=
  match s.agentRead (frontAgent d ctx) .read a 8 with
  | .error e => .error e
  | .ok (_, _, _, some x) => .error (.trap .uncorrectable (dw x))
  | .ok (s1, bs, _, none) =>
    let w := leNat bs
    if w / 2 ^ 32 = 0 then .ok s1
    else
      match s1.writeBlock (frontAgent d ctx) a 0 (w - 2 ^ 32) with
      | .error e => .error e
      | .ok s2 =>
        if w / 2 ^ 32 = 1 ∧ w / 2 % 2 = 0 then
          match s2.nodeAt d ctx a with
          | some e => .ok (s2.modEntry d e fun x => { x with state := .ready })
          | none => .ok s2
        else .ok s2

/-- Every successor's count decremented; one that cannot be reached keeps its count. -/
def State.decrementAll (s : State) (d : DieId) (ctx : Nat) : List Nat → Except Stop State
  | [] => .ok s
  | a :: rest =>
    match s.decrement d ctx a with
    | .ok s1 => s1.decrementAll d ctx rest
    | .error (.trap _ _) => s.decrementAll d ctx rest
    | .error e => .error e

/-- The successors of an entry; none where its block cannot be read. -/
def State.successors (s : State) (d : DieId) (x : Entry) : List Nat :=
  if x.isNode then
    match s.readBlock (frontAgent d x.ctx) (recBlock x.record) with
    | .ok (_, b) => tcbSuccessors b
    | .error _ => []
  else []

/-- The block of a parked coalescing node. -/
def State.nodeBlock (s : State) (d : DieId) (e : Nat) : Option (Entry × List DWord) :=
  match s.entry? d e with
  | none => none
  | some x =>
    if x.state = .parked then
      match s.readBlock (frontAgent d x.ctx) (recBlock x.record) with
      | .ok (_, b) => if tcbCoalesces b then some (x, b) else none
      | .error _ => none
    else none

/-- A drained coalescing node retires (R385). -/
def State.retireNode (s : State) (d : DieId) (e : Nat) : State :=
  match s.nodeBlock d e with
  | some (_, b) =>
    if tcbPreds b = 0 ∧ tcbWaiting b = 0 ∧ tcbFirings b = 0 then
      s.modEntry d e fun x => { x with state := .retiring }
    else s
  | none => s

/-- Every drained coalescing node of a die retires. -/
def State.retireNodes (s : State) (d : DieId) : State :=
  ((s.die d).entries.map Prod.fst).foldl (fun s e => s.retireNode d e) s

/-- The launch record of a firing of n records (R385). -/
def firingRecord (r b : List DWord) (n : Nat) : List DWord :=
  setWord (setWord (setWord r 6 0) 5 (n * tcbSize b * 2 ^ 32)) 4
    (tcbBuffer b + tcbSize b * (tcbHead b % tcbCapacity b))

/-- A coalescing node fires once, if it has a record and an entry is free (R385). -/
def State.fire (s : State) (d : DieId) (e : Nat) : Except Stop State :=
  match s.nodeBlock d e, s.freeEntry d with
  | some (x, b), some k =>
    let n := min (tcbWaiting b) (tcbCapacity b - tcbHead b % tcbCapacity b)
    if n = 0 then .ok s
    else
      let g := frontAgent d x.ctx
      let a := recBlock x.record
      match s.writeBlock g a 11 (tcbTail b * 2 ^ 32 + (tcbHead b + n) % 2 ^ 32) with
      | .error stop => .error stop
      | .ok s1 =>
        match s1.writeBlock g a 12 (tcbReleased b * 2 ^ 32 + (tcbFirings b + 1) % 2 ^ 16 * 2 ^ 16) with
        | .error stop => .error stop
        | .ok s2 =>
          let (number, s3) := (s2.modEntry d e fun y => { y with flush := false }).takeNumber d x.vi
          s3.takeIn d k { newEntry x.vi x.ctx number (firingRecord x.record b n) x.queue x.priority
            ((s.vi d x.vi).queues.getD x.queue Queue.reset).replayable with firingOf := some (e, n) }
  | _, _ => .ok s

/-- Whether a node fires at once: its threshold is reached, or node.fl waits for a free entry. -/
def State.fireDue (s : State) (d : DieId) (e : Nat) : Bool :=
  match s.nodeBlock d e with
  | some (x, b) => decide (0 < tcbWaiting b) && (x.flush || decide (tcbThreshold b ≤ tcbWaiting b))
  | none => false

/-- Firings for as long as the threshold is reached and an entry is free (R385). -/
def State.fireAll : Nat → State → DieId → Nat → Except Stop State
  | 0, s, _, _ => .ok s
  | n + 1, s, d, e =>
    if s.fireDue d e && (s.freeEntry d).isSome then
      match s.fire d e with
      | .error stop => .error stop
      | .ok s1 => State.fireAll n s1 d e
    else .ok s

/-- Firings of one node, with fuel for as many as there are entries. -/
def State.fireNode (s : State) (d : DieId) (e : Nat) : Except Stop State :=
  State.fireAll (Config.frontEndEntries d) s d e

/-- A retired firing noted in its node's block (R385). -/
def State.noteFiring (s : State) (d : DieId) (x : Entry) : Except Stop State :=
  match x.firingOf with
  | none => .ok s
  | some (e, n) =>
    match s.entry? d e with
    | none => .ok s
    | some y =>
      let g := frontAgent d y.ctx
      match s.readBlock g (recBlock y.record) with
      | .error (.trap _ _) => .ok s
      | .error stop => .error stop
      | .ok (s1, b) =>
        s1.writeBlock g (recBlock y.record) 12
          ((tcbReleased b + n) % 2 ^ 32 * 2 ^ 32 + (tcbFirings b + 2 ^ 16 - 1) % 2 ^ 16 * 2 ^ 16)

/-- A band launch's end noted in its head (R416, R419). -/
def State.noteBand (s : State) (d : DieId) (x : Entry) : State :=
  match x.band with
  | none => s
  | some b => s.modHead d b.head fun h => { h with
      results := h.results ++ [(b, !x.error && !x.cancelled)]
      bands := h.bands.filter fun y => y.1 != b }

/-- Whether an entry can retire (R292, R378): nothing of it is resident, every store is performed, and
no report of it is on its way. -/
def State.canRetire (s : State) (d : DieId) (e : Nat) (x : Entry) : Bool :=
  s.launchDone d e x && (s.launchCoves d e).isEmpty
    && !s.reports.any fun y => y.die == d && y.launch == e

/-- A launch retires (R46, R292, R384): its successors' counts go down, its firing is noted, its
pre-images are dropped, its entry is empty, fence strengthening ends with the last revision-1 launch of
the context (R232), and XRETRY counts the failures that its replays overcame (R102, R402). -/
def State.retire (s : State) (d : DieId) (e : Nat) (x : Entry) : Except Stop State :=
  match s.decrementAll d x.ctx (s.successors d x) with
  | .error stop => .error stop
  | .ok s1 =>
    match s1.noteFiring d x with
    | .error stop => .error stop
    | .ok s2 =>
      let drop (k : Die) : Die := { k with pool := k.pool.filter fun p =>
        !(p.ctx == x.ctx && p.launch == some e) }
      let s3 := (((s2.noteBand d x).modDie .craren drop).modDie .dukor drop).putEntry d e none
      let old := (s3.die d).entries.any fun y => y.2.ctx == x.ctx && kernelRevision y.2.header == 1
      let s4 := if old then s3 else s3.modCtx x.ctx fun c => { c with strong := false }
      let s5 := if x.failures.isEmpty then s4 else s4.modVi d x.vi fun i => { i with
        xretry := BitVec.ofNat 32 (min (i.xretry.toNat + x.failures.length) (2 ^ 32 - 1)) }
      .ok ((s5.retireNodes d).wakeCounters d)

end Sys2Proof.Machine
end

