-- ==== Sys2Proof/Machine/Sync.lean ====
section
/-! DEFINITION. The event counters (R392), the counter instructions (R381, R382), launch, node.put,
node.fl and cancel (R386 to R390), and the completions of engine operations, after which a cove may
complete (R378). -/

namespace Sys2Proof.Machine

/-- A counter of perf.rd; none where reading is refused (R392). -/
def State.perfReg (s : State) (c : Cur) (n : Nat) : Option DWord :=
  let k := s.core c.r.die c.r.core
  let x := k.counters? c.ctx
  match n with
  | 0x000 => some x.clauses
  | 0x001 => some x.shoals
  | 0x002 => some x.issued
  | 0x003 => some x.serialIssues
  | 0x004 => some x.serialEntries
  | 0x005 => some x.l1Misses
  | 0x006 => some x.arrayOps
  | 0x007 => some x.rayRounds
  | 0x008 => some x.slips
  | 0x009 => some ((s.vi c.r.die c.cv.vi).xretry.setWidth 64)
  | 0x010 => some (dw k.regErrors)
  | 0x011 => if c.cv.system then some (dw (s.die c.r.die).memErrors) else none
  | 0x012 => if c.cv.system then some (dw (s.die c.r.die).poisonCount) else none
  | _ => none

/-- A value written at the slot to the destination of both threads of a pair, or of the one thread. -/
def State.writeBoth (s : State) (c : Cur) (d : Opnd) (w : Width) (v : Quad) : State :=
  (s.touch c.r (d.names w)).both c fun t => t.writeOpnd d w v false

/-- A launch that runs one of these instructions is no longer replayable (R382). -/
def State.endReplay (s : State) (c : Cur) : State := s.noReplay c.r.die c.cv.launch

/-- perf.rd (R392). -/
def perfRdOp (s : State) (gd : Guard) (d b : Opnd) : Host.Outcome State Fault Refusal :=
  readingIf s gd [(b, .w32)] fun s c vs =>
    match s.perfReg c (lo32 (nth vs 0)).toNat with
    | none => .error (.trap .illegalOp ((lo32 (nth vs 0)).setWidth 64))
    | some v => .ok ((s.touch c.r (d.names .w64)).modThread c.r fun t =>
        t.writeOpnd d .w64 (v.setWidth 128) false)

/-- A hold after a signed change (R382). -/
def holdAfter (hold : Nat) (delta : Int) : Nat := (min (max ((hold : Int) + delta) 0) 65535).toNat

/-- A launch with its hold changed, where it is the one with a number. -/
def Waiting.addHold (number : Word) (delta : Int) (w : Waiting) : Waiting :=
  if w.number = number then { w with hold := holdAfter w.hold delta } else w

/-- cnt.add on a launch (R382); one whose record waits in its queue keeps its hold from then on. -/
def State.addHold (s : State) (d : DieId) (vi : Nat) (n : Named) (delta : Int) : State :=
  match n with
  | .waiting w => s.modVi d vi fun i => { i with
      queues := i.queues.map fun q => { q with waiting := q.waiting.map (Waiting.addHold w.number delta) } }
  | .entries [e] =>
    (s.modEntry d e fun x =>
      if x.state = .retiring then x else { x with hold := holdAfter x.hold delta }).settleEntry d e
  | _ => s

/-- cnt.add (R381, R382). -/
def cntAddOp (s : State) (gd : Guard) (a b : Opnd) : Host.Outcome State Fault Refusal :=
  onceReading s gd [(a, .w32), (b, .w32)] fun s c vs =>
    .ok ((s.endReplay c).addHold c.r.die c.cv.vi (s.named c.r.die c.cv .launch (lo32 (nth vs 0)))
      (lo32 (nth vs 1)).toInt)

/-- cnt.rd (R382). -/
def cntRdOp (s : State) (gd : Guard) (lv : Level) (d a : Opnd) : Host.Outcome State Fault Refusal :=
  onceReading s gd [(a, .w32)] fun s c vs =>
    let v := s.counterOf c.r.die lv (s.named c.r.die c.cv lv (lo32 (nth vs 0)))
    .ok (({ s with fresh := s.fresh + 1 }).writeBoth c d .w64 (v.setWidth 128))

/-- An instance contains a thread of a cove (R382). -/
def Named.contains (n : Named) (c : Cove) : Bool :=
  match n with
  | .cove e idx => e == c.launch && idx == c.index
  | .entries es => es.contains c.launch
  | .unknown | .waiting _ => false

/-- cnt.wt (R382). -/
def cntWtOp (s : State) (gd : Guard) (lv : Level) (a : Opnd) : Host.Outcome State Fault Refusal :=
  onceReading s gd [(a, .w32)] fun s c vs =>
    let sel := lo32 (nth vs 0)
    let n := s.named c.r.die c.cv lv sel
    if n.contains c.cv then .error (.trap .formatInvalid (sel.setWidth 64))
    else if s.instanceDone c.r.die lv n then .ok (s.clearL1 c.r.die c.r.core c.ctx)
    else .ok (s.both c fun t => { t with
      status := .cntWait c.iss.addr c.iss.slot lv sel
      passed := 0 })

/-- The checks that launch, node.put and node.fl make of capability A (R387): its address. -/
def blockCheck (v : Quad × Bool) (n : Nat) : Except Stop Nat :=
  match checkCap v.1 v.2 (permRead + permLanding) 0 n with
  | .error e => .error e
  | .ok a =>
    if a % 64 ≠ 0 then .error (.trap .align (dw a))
    else if capSpace v.1 ≠ 0 then .error (.trap .loadFault (dw a))
    else .ok a

/-- Bytes of space 0 that an instruction has read at their home; a poisoned byte traps. -/
def State.readHome (s : State) (c : Cur) (sys : Bool) (a n : Nat) : Except Stop (State × List Byte) :=
  match s.agentRead (c.agent sys) .read a n with
  | .error e => .error e
  | .ok (s1, bs, _, none) => .ok (s1, bs)
  | .ok (_, _, _, some x) => .error (.trap .uncorrectable (dw x))

/-- Whether accesses of the thread that come before have still to come to their end (R215). -/
def State.outstanding (s : State) (r : TRef) : Bool := s.link.reqs.any fun q => q.thread == r && q.open

/-- A record appended to a device-fed queue (R286, R388): the state and the value of D. -/
def State.append (s : State) (d : DieId) (vi q : Nat) (bs : List Byte) : Except Stop (State × Word) :=
  let x := (s.vi d vi).queues.getD q Queue.reset
  if 2 ^ x.size ≤ x.held then .ok (s, 0xFFFFFFFF)
  else
    match s.agentWrite (frontAgent d x.ctx) (x.slotAt x.write) bs [] with
    | .error e => .error e
    | .ok s1 =>
      let (number, s2) := s1.takeNumber d vi
      .ok (s2.modVi d vi fun i => { i with
        queues := i.queues.set q { x with write := x.write + 1, waiting := x.waiting ++ [⟨number, wordsOf 8 bs, 0⟩] } },
        number)

/-- launch (R386 to R388). -/
def launchOp (s : State) (gd : Guard) (d a b : Opnd) : Host.Outcome State Fault Refusal :=
  onceReading s gd [(a, .w128), (b, .w32)] fun s c vs =>
    let q := (lo32 (nth vs 1)).toNat
    let x := (s.vi c.r.die c.cv.vi).queues.getD q Queue.reset
    match blockCheck (nth vs 0) 64 with
    | .error e => .error e
    | .ok addr =>
      if 8 ≤ q ∨ x.enable = false ∨ x.deviceFed = false then .error (.trap .formatInvalid (dw q))
      else if s.outstanding c.r then .error .hold
      else
        match s.readHome c (capSystem (nth vs 0).1) addr 64 with
        | .error e => .error e
        | .ok (s1, bs) =>
          match s1.append c.r.die c.cv.vi q bs with
          | .error e => .error e
          | .ok (s2, v) => .ok ((s2.endReplay c).writeBoth c d .w32 (v.setWidth 128))

/-- The block of a node instruction with the checks of R387; a block that is not coalescing traps with a
free TVAL (log 2). -/
def State.nodeCheck (s : State) (c : Cur) (v : Quad × Bool) :
    Except (State × Stop) (State × Nat × List DWord) :=
  match blockCheck v 128 with
  | .error e => .error (s, e)
  | .ok a =>
    match s.readHome c (capSystem v.1) a 128 with
    | .error e => .error (s, e)
    | .ok (s1, bs) =>
      let b := wordsOf 16 bs
      if tcbCoalesces b then .ok (s1, a, b)
      else .error (s1.draw.2, .trap .formatInvalid s1.freeTval)

/-- The address of node.put's source record, with its checks (R387). -/
def putCheck (v : Quad × Bool) (n : Nat) : Except Stop Nat :=
  match checkCap v.1 v.2 permRead 0 n with
  | .error e => .error e
  | .ok a =>
    if capSpace v.1 = 0 ∨ capSpace v.1 = 2 ∨ capSpace v.1 = 4 then .ok a
    else .error (.trap .loadFault (dw a))

/-- A record put into a node's buffer, tail advanced, and the firing that this brings (R385, R389). -/
def State.putRecord (s : State) (c : Cur) (e a : Nat) (b : List DWord) (bs : List Byte) :
    Except Stop State :=
  let g := frontAgent c.r.die c.ctx
  match s.agentWrite g (tcbBuffer b + tcbSize b * (tcbTail b % tcbCapacity b)) bs [] with
  | .error x => .error x
  | .ok s1 =>
    match s1.writeBlock g a 11 ((tcbTail b + 1) % 2 ^ 32 * 2 ^ 32 + tcbHead b) with
    | .error x => .error x
    | .ok s2 =>
      match s2.fireNode c.r.die e with
      | .ok s3 => .ok s3
      | .error _ => .ok s2

/-- node.put (R386, R387, R389). -/
def nodePutOp (s : State) (gd : Guard) (d a b : Opnd) : Host.Outcome State Fault Refusal :=
  onceComparing s gd [(a, .w128), (b, .w128)] id fun s c vs =>
    match s.nodeCheck c (nth vs 0) with
    | .error x => .error x
    | .ok (s1, addr, blk) =>
      match putCheck (nth vs 1) (tcbSize blk) with
      | .error x => .error (s1, x)
      | .ok src =>
        let answer (s : State) (v : Nat) : State := (s.endReplay c).writeBoth c d .w32 (ofNatQ v)
        if s1.outstanding c.r then .error (s1, .hold)
        else
          match s1.nodeAt c.r.die c.ctx addr with
          | none => .ok (answer s1 2)
          | some e =>
            if tcbCapacity blk ≤ tcbUnreleased blk then .ok (answer s1 1)
            else
              match s1.readSpace c (capSpace (nth vs 1).1) src (tcbSize blk) (capSystem (nth vs 1).1) with
              | .error x => .error (s1, x)
              | .ok (s2, got) =>
                match got.bad with
                | some (x, _) => .error (s2, .trap .uncorrectable x)
                | none =>
                  match s2.putRecord c e addr blk got.bytes with
                  | .error x => .error (s2, x)
                  | .ok s3 => .ok (answer s3 0)

/-- node.fl (R386, R387, R389). -/
def nodeFlOp (s : State) (gd : Guard) (a : Opnd) : Host.Outcome State Fault Refusal :=
  onceComparing s gd [(a, .w128)] id fun s c vs =>
    match s.nodeCheck c (nth vs 0) with
    | .error x => .error x
    | .ok (s1, addr, blk) =>
      let s2 := s1.endReplay c
      match s2.nodeAt c.r.die c.ctx addr with
      | none => .ok s2
      | some e =>
        if tcbWaiting blk = 0 then .ok s2
        else if (s2.freeEntry c.r.die).isNone then
          .ok (s2.modEntry c.r.die e fun x => { x with flush := true })
        else
          match s2.fire c.r.die e with
          | .error x => .error (s2, x)
          | .ok s3 =>
            match s3.fireNode c.r.die e with
            | .ok s4 => .ok s4
            | .error _ => .ok s3

/-- cancel (R390). The recorded coves it gives up free their blocks in the save area, which waits for a
granule in transfer (R208). -/
def cancelOp (s : State) (gd : Guard) (lv : Level) (a : Opnd) : Host.Outcome State Fault Refusal :=
  onceReading s gd [(a, .w32)] fun s c vs =>
    if s.contexts.any fun x => !x.2.waiting.isEmpty && !s.saveReady x.1 then .error .hold
    else .ok ((s.endReplay c).cancelNamed c.r.die (s.named c.r.die c.cv lv (lo32 (nth vs 0))))

/-- What follows a completion on a die: coves whose pending count it took to zero complete (R378). -/
def thenFinish (d : DieId) (r : Host.Outcome State Fault Refusal) : Host.Outcome State Fault Refusal :=
  match r with
  | .next s => .next (s.finishCoves d)
  | x => x

/-- perf.rd (R392). -/
def execPerfRd (gd : Guard) (d b : Opnd) (s : State) : Host.Outcome State Fault Refusal :=
  perfRdOp s gd d b

/-- cnt.add (R382). -/
def execCntAdd (gd : Guard) (a b : Opnd) (s : State) : Host.Outcome State Fault Refusal :=
  cntAddOp s gd a b

/-- cnt.rd (R382). -/
def execCntRd (gd : Guard) (lv : Level) (d a : Opnd) (s : State) : Host.Outcome State Fault Refusal :=
  cntRdOp s gd lv d a

/-- cnt.wt (R382). -/
def execCntWt (gd : Guard) (lv : Level) (a : Opnd) (s : State) : Host.Outcome State Fault Refusal :=
  cntWtOp s gd lv a

/-- launch (R388). -/
def execLaunch (gd : Guard) (d a b : Opnd) (s : State) : Host.Outcome State Fault Refusal :=
  launchOp s gd d a b

/-- node.put (R389). -/
def execNodePut (gd : Guard) (d a b : Opnd) (s : State) : Host.Outcome State Fault Refusal :=
  nodePutOp s gd d a b

/-- node.fl (R389). -/
def execNodeFl (gd : Guard) (a : Opnd) (s : State) : Host.Outcome State Fault Refusal := nodeFlOp s gd a

/-- cancel (R390). -/
def execCancel (gd : Guard) (lv : Level) (a : Opnd) (s : State) : Host.Outcome State Fault Refusal :=
  cancelOp s gd lv a

/-- A copy completes (R304). -/
def execCopyComplete (die : DieId) (core idx : Nat) (s : State) : Host.Outcome State Fault Refusal :=
  thenFinish die (copyCompleteOp die core idx s)

/-- A traversal round completes (R313). -/
def execRayRoundComplete (die : DieId) (core idx : Nat) (s : State) :
    Host.Outcome State Fault Refusal :=
  thenFinish die (rayRoundCompleteOp die core idx s)

/-- A motion search completes (R317). -/
def execMeSrchComplete (die : DieId) (core idx : Nat) (s : State) : Host.Outcome State Fault Refusal :=
  thenFinish die (meSrchCompleteOp die core idx s)

/-- A sample completes (R319). -/
def execSmpComplete (die : DieId) (core idx : Nat) (s : State) : Host.Outcome State Fault Refusal :=
  thenFinish die (smpCompleteOp die core idx s)

/-- An image store completes (R321). -/
def execImgStComplete (die : DieId) (core idx : Nat) (s : State) : Host.Outcome State Fault Refusal :=
  thenFinish die (imgStCompleteOp die core idx s)

/-- An operation of the mma group, or mzero, leaves the array (R272, R274). -/
def execArrayOpComplete (die : DieId) (core : Nat) (s : State) : Host.Outcome State Fault Refusal :=
  thenFinish die (arrayOpCompleteOp die core s)

/-- The array queue reaches a chdef (R273, R280). -/
def execChdefApply (die : DieId) (core : Nat) (s : State) : Host.Outcome State Fault Refusal :=
  thenFinish die (chdefApplyOp die core s)

/-- The chain unit finishes a run (R282). -/
def execChrunComplete (die : DieId) (core : Nat) (s : State) : Host.Outcome State Fault Refusal :=
  thenFinish die (chrunCompleteOp die core s)

end Sys2Proof.Machine
end

