-- ==== Sys2Proof/Machine/FrontEnd.lean ====
section
/-! DEFINITION. The command front end and the dispatch hardware: write indices (R286), reading records
(R287), placement by bind records (R45, R334, R335), retirement and firings as events, and what
firmware writes for an interface (R291, R337). -/

namespace Sys2Proof.Machine

/-- An event's effect; one that cannot happen yet changes nothing. -/
def attempt (s : State) (r : Except Stop State) : Host.Outcome State Fault Refusal :=
  match r with
  | .ok s1 => .next s1
  | .error (.halt f) => .fault f
  | .error _ => .next s

/-- A launch queue of an interface. -/
def State.queue (s : State) (d : DieId) (vi q : Nat) : Queue := (s.vi d vi).queues.getD q Queue.reset

def State.setQueue (s : State) (d : DieId) (vi q : Nat) (x : Queue) : State :=
  s.modVi d vi fun i => { i with queues := i.queues.set q x }

/-- Overrun of a launch queue (R286): enable clears, and a record of kind 6 holds the queue number;
what stands for a launch or a thread in it is zero (log 122). -/
def State.overrun (s : State) (d : DieId) (vi q : Nat) : State :=
  (s.setQueue d vi q { s.queue d vi q with enable := false }).writeRecord d vi []
    ⟨6, 0, dw q, 0, 0, 0, 0, 0⟩

/-- The count of a queue against its size (R286). -/
def State.checkCount (s : State) (d : DieId) (vi q : Nat) : State :=
  let x := s.queue d vi q
  if x.enable ∧ 2 ^ x.size < x.held then s.overrun d vi q else s

/-- A host write of a launch queue's write index (R286); one to a device-fed queue is ignored, and so is one before
the device description is published, until which no interface accepts a record (R434, R459). -/
def execLaunchQueueWriteIndex (die : DieId) (vi q : Nat) (index : BitVec 16) (s : State) :
    Host.Outcome State Fault Refusal :=
  if 8 ≤ q ∨ (s.queue die vi q).deviceFed ∨ (s.die die).description.isNone then .next s
  else .next ((s.setQueue die vi q { s.queue die vi q with write := index }).checkCount die vi q)

/-- Whether a context runs on a die. -/
def State.liveOn (s : State) (d : DieId) (ctx : Nat) : Bool :=
  match s.ctx? ctx with
  | some c => c.die == d && c.status == .live
  | none => false

/-- A queue of higher priority of the interface has a record (R287). -/
def State.outranked (s : State) (d : DieId) (vi : Nat) (x : Queue) : Bool :=
  (s.vi d vi).queues.any fun y => y.enable && decide (0 < y.held) && decide (x.priority < y.priority)

/-- The front end reads the next record of a queue into a free entry (R287), once the device description is
published (R459). -/
def State.takeRecord (s : State) (d : DieId) (vi q : Nat) : Except Stop State :=
  let x := s.queue d vi q
  match s.freeEntry d with
  | none => .ok s
  | some e =>
    if 8 ≤ q || (s.die d).description.isNone || !x.enable || x.held == 0 || !s.liveOn d x.ctx || s.outranked d vi x then .ok s
    else
      match s.agentRead (frontAgent d x.ctx) .read (x.slotAt x.read) 64 with
      | .error stop => .error stop
      | .ok (_, _, _, some a) => .error (.trap .uncorrectable (dw a))
      | .ok (s1, bs, _, none) =>
        let s2 (s : State) := s.setQueue d vi q { x with read := x.read + 1, waiting := x.waiting.drop 1 }
        let entry (number : Word) := newEntry vi x.ctx number (wordsOf 8 bs) q x.priority x.replayable
        match if x.deviceFed then x.waiting.head? else none with
        | some w => (s2 s1).takeIn d e { entry w.number with hold := w.hold }
        | none => (s2 (s1.takeNumber d vi).2).takeIn d e (entry (s1.takeNumber d vi).1)

/-- FRONT_END_RECORD_READ (R287). -/
def execFrontEndRecordRead (die : DieId) (vi q : Nat) (s : State) : Host.Outcome State Fault Refusal :=
  attempt s (s.takeRecord die vi q)

/-! Dispatch. -/

/-- Fields of a bind record (R334). -/
def bindCtx (v : Quad) : Nat := qbits v 68 12
def bindVcore (v : Quad) : Nat := qbits v 60 8
def bindPos (v : Quad) : Nat := qbits v 56 4
def bindFirst (v : Quad) : Nat := qbits v 51 5
def bindSlots (v : Quad) : Nat := qbits v 46 5 + 1
def bindValid (v : Quad) : Bool := qbits v 45 1 == 1
def bindReservedBits (v : Quad) : Nat := qbits v 16 29
def bindBase (v : Quad) : Nat := 4096 * qbits v 9 7
def bindBarrier (v : Quad) : Nat := qbits v 0 9

/-- Coves of a core whose slots are held: those not complete, and those that a teardown keeps (R432). -/
def State.held (s : State) (d : DieId) (core : Nat) : List Cove :=
  ((s.coves.filter fun e => e.1.die == d && e.1.core == core).map Prod.snd).filter fun c =>
    !c.complete || s.scrubbing d c.ctx

/-- Whether dispatch obeys a record's resources on a core (R19, R335). -/
def State.roomFor (s : State) (d : DieId) (core : Nat) (w : DWord) (v : Quad) : Bool :=
  let on := s.held d core
  let all := (s.coves.filter fun e => e.1.die == d && e.1.core == core).map Prod.snd
  let size := kernelScratchUnits w * 4096 + Config.spillBytes
  decide (bindReservedBits v = 0) && decide (bindFirst v + bindSlots v ≤ 32)
    && !on.any (fun c => overlap (bindFirst v) (bindSlots v) c.firstSlot c.crews)
    && decide (((on.map fun c => c.crews * c.regCount).sum) + bindSlots v * kernelRegs w ≤ 4096)
    && decide (bindBase v + size ≤ Config.scratchBytes)
    && !all.any (fun c => overlap (bindBase v) size c.scratchBase c.scratchSize)
    && decide (bindBarrier v + kernelBarriers w ≤ Config.barriers)
    && !on.any fun c => overlap (bindBarrier v) (kernelBarriers w) c.barBase c.barCount

/-- A teardown blocks a launch's context and its interface (R432). -/
def State.blockedBy (s : State) (d : DieId) (x : Entry) : Bool :=
  match (s.die d).scrub with
  | some j => j.ctx == x.ctx || (match s.ctx? j.ctx with
    | some c => c.die == d && c.vi == x.vi
    | none => false)
  | none => false

/-- The front ends place nothing more on the Dukor of a pair that undocks (R295, step 1), but for what has no peer
state (R433) and for band launches (R411). -/
def State.undocking (s : State) (d : DieId) : Bool :=
  d == .dukor && s.link.draining && s.link.mode == .paired

/-- The entries of a context on its die, without its band launches, which no image holds (R411). -/
def State.entriesOf (s : State) (d : DieId) (ctx : Nat) : List (Nat × Entry) :=
  (s.die d).entries.filter fun e => e.2.ctx == ctx && e.2.band.isNone

/-- The length of the section of a cove of a launch whose threads hold no latch (R366 to R368). -/
def sectionLeast (header : DWord) (windows crews : Nat) : Nat :=
  let n := kernelRegs header
  let size := kernelScratchUnits header * 4096 + Config.spillBytes
  64 + 16 * windows + 16 * kernelBarriers header + size + align64 (size / 128) + 1152 * crews
    + 32 * crews * (208 + 4 * n + (n / 32 + 7) / 8 * 8 + (n / 8 + 7) / 8 * 8)

/-- Firmware gave the context a save area that holds the image it would have with one more cove of a launch
(R324): the fixed parts, its launch entries, and the sections of its coves. -/
def State.imageHolds (s : State) (d : DieId) (ctx : Nat) (x : Entry) : Bool :=
  match s.ctx? ctx with
  | none => false
  | some c =>
    let own := (s.coves.filter fun e => e.2.ctx == ctx && e.2.band.isNone).map fun e =>
      sectionLeast e.2.header e.2.stashMax e.2.crews
    decide (0x1040 + 4352 + 128 * (s.entriesOf d ctx).length + own.sum
      + (c.waiting.map fun r => r.bytes.length).sum
      + sectionLeast x.header (recWindows x.record) (recCrews x.record) ≤ c.saveSize)

/-- Whether a record names a cove of a launch that can be placed. -/
def State.bindFits (s : State) (d : DieId) (core : Nat) (v : Quad) : Bool :=
  match s.entry? d (bindOf v).1 with
  | none => false
  | some x =>
    !s.blockedBy d x && !(s.undocking d && x.band.isNone && !s.isProtected x.ctx) && (x.state == .ready || x.state == .running) && x.unplaced.contains (bindOf v).2
      && bindCtx v == x.ctx && (s.liveOn d x.ctx || x.band.isSome) && s.saveReady x.ctx
      && (x.band.isSome || s.imageHolds d x.ctx x) && decide (core = Config.displayCore d) == x.band.isSome && bindSlots v == recCrews x.record
      && (if recBay x.record = 0 then bindPos v == 0 else decide (bindPos v < recBay x.record))
      && decide (core ≤ Config.cores d) && !(s.core d core).degraded && s.roomFor d core x.header v

/-- The capability of a 32-byte record of a band window, or of a band buffer. -/
def windowCap (perms a n : Nat) : Quad :=
  let e := leastExp n
  capMake 0 perms ((a + n) / 2 ^ e) (a / 2 ^ e) e a

/-- The keys that a head supplies to a band launch in place of key words 0 to 7 (R416). -/
def bandKeys (h : Head) (b : BandRef) (k : Strand) : Strand :=
  let cap := windowCap (permRead + permLoadCap) (h.window.1 + 32 * (b.seq % 2)) 32
  let own : List Word := [BitVec.ofNat 32 b.band, BitVec.ofNat 32 b.seq, BitVec.ofNat 32 b.frame,
    BitVec.ofNat 32 b.head] ++ (List.range 4).map fun i => BitVec.extractLsb' (32 * i) 32 cap
  { k with
    keys := own ++ k.keys.drop 8
    tags := bitPut (bitPut k.tags 0 false) 1 true }

/-- The key values that a launch gives its crews (R289): the words of its key block, and a tag for each
quad of which the block gives all four; a band launch has its head's in the first eight. -/
def State.launchKeys (s : State) (d : DieId) (x : Entry) : Except Stop (State × Strand) :=
  let n := min (recKeys x.record) (kernelKeys x.header)
  match s.agentRead (launchAgent d x.ctx x.record) .read (recKeyBase x.record) (4 * n) with
  | .error e => .error e
  | .ok (_, _, _, some a) => .error (.trap .uncorrectable (dw a))
  | .ok (s1, bs, tags, none) =>
    let k : Strand := { Strand.zero with
      keys := (List.range 64).map fun i =>
        if i < n then BitVec.ofNat 32 (leNat ((bs.drop (4 * i)).take 4)) else 0
      tags := (List.range (n / 4)).foldl (fun t q => bitPut t q (tags.getD q false)) 0 }
    .ok (s1, match x.band with
      | some b => bandKeys (s.head d b.head) b k
      | none => k)

/-- A thread as dispatch starts it (R85, R289). -/
def newThread (cr : CoveRef) (c : Cove) (crew lane : Nat) (handler : DWord) : Thread where
  cove := cr
  crew := crew
  vlane := if c.isProtected then lane / 2 else if c.isC16 then lane % 16 else lane
  status := .ready
  pc := dw (c.kernel + 8)
  resume := 0
  hold := none
  landFrom := none
  jump := none
  cont := 0
  contSlot := 0
  regs := List.replicate c.regCount 0
  tags := 0
  poison := 0
  preds := 0
  handles := List.replicate 16 0
  fstat := 0
  tcause := 0
  tstat := 0
  tpc := 0
  tval := 0
  thandler := handler
  prods := []
  before := none
  defer := []
  latches := []
  entry := none
  pending := none
  due := []
  stopper := none
  exiting := false
  passed := 0
  yielded := false
  stepDue := false
  firstReq := 0

/-- A crew as dispatch starts it (R34, R43): one strand for each logical crew. -/
def newCrew (c : Cove) (k : Strand) : Crew where
  strands := if c.isC16 && !c.isProtected then [some k, some k, none, none] else [some k, none, none, none]
  ptr := (List.range 32).map fun lane => logicalHalf c lane
  serial := [false, false]
  spilled := []
  block := none

/-- Visible threads of a cove. -/
def Cove.visible (c : Cove) : Nat := c.crews * (if c.isProtected then 16 else 32)

/-- A cove of a context comes to a core: it starts with no L1 copy (R215). The first one switches the
context in (R47, R191, R371): its counters start at zero, and its decoded clauses and the chains of other
contexts go; its own chains stay, at a restore too (log 117). -/
def State.switchIn (s : State) (d : DieId) (core ctx : Nat) : State :=
  if s.coves.any fun e => e.1.die == d && e.1.core == core && e.2.ctx == ctx && !e.2.complete then
    s.clearL1 d core ctx
  else
    ((s.clearL1 d core ctx).dropDop d core ctx).modCore d core fun k => { k with
      counters := aput k.counters ctx CtxCounters.zero
      chains := k.chains.filter fun e => e.2.1 == ctx }

/-- The router maps of one cluster for a context, from the coves it has (R338): every virtual core, and the
bays in the cluster. -/
def remapOf (ctx cluster : Nat) (cs : List (CoveRef × Cove)) : Remap where
  ctx := ctx
  cluster := cluster
  cores := cs.foldl (fun m e => aput m e.2.vcore e.1.core) []
  bays := (cs.filter fun e => clusterOf e.1.core == cluster && e.2.bayCount != 0).foldl
    (fun m e => aput m (e.2.launch, e.2.index / e.2.bayCount, e.2.bayPos) e.1.core) []

/-- Firmware rewrites the router maps of a context, in every cluster that it has a cove in (R338). -/
def State.mapRouters (s : State) (d : DieId) (ctx : Nat) : State :=
  let cs := s.coves.filter fun e => e.1.die == d && e.2.ctx == ctx
  let clusters := (cs.map fun e => clusterOf e.1.core).eraseDups
  s.modDie d fun x => { x with
    remaps := (clusters.map fun cl => remapOf ctx cl cs) ++ x.remaps.filter fun m => m.ctx != ctx }

/-- A tide-issue thread put where its next clause waits (R28 to R30): the entry that holds its address,
a free one, or the serial queue. -/
def Core.joinTide (k : Core) (ctx : Nat) (key : DecodeKey) (a : DWord) (r : TRef) : Core :=
  match k.bitmap.find? fun e => e.2.addr == a && e.2.ctx == ctx && e.2.key == key with
  | some (i, e) => { k with bitmap := aput k.bitmap i { e with map := bitPut e.map (mapBit r) true } }
  | none =>
    match (List.range Config.bitmapEntries).find? fun i => (aget k.bitmap i).isNone with
    | some i => { k with
        bitmap := aput k.bitmap i ⟨a, ctx, key, bitPut 0 (mapBit r) true⟩
        rotation := k.rotation ++ [some i] }
    | none => { k with
        serialQ := k.serialQ ++ [r]
        rotation := if k.serialQ.isEmpty then k.rotation ++ [none] else k.rotation }

/-- The threads of a cove of a tide-issue launch put into the rotation. -/
def State.startTide (s : State) (cr : CoveRef) (c : Cove) : State :=
  if kernelTide c.header then
    (s.coveThreads cr).foldl (fun s e =>
      if e.2.active then s.modCore cr.die cr.core fun k => k.joinTide c.ctx c.key e.2.pc e.1 else s) s
  else s

/-- Spill blocks that placement reserves for a cove (R324); none where the pool has too few, or where the
block map cannot be written. -/
def State.freeBlocks (s : State) (ctx n : Nat) : Option (List Nat) :=
  match s.ctx? ctx with
  | none => none
  | some x =>
    if n = 0 then some []
    else
      match s.agentRead (frontAgent x.die ctx) .read (x.saveBase + 0x1000) 4 with
      | .error _ => none
      | .ok (s1, bs, _, _) =>
        let count := leNat bs
        match s1.agentRead (frontAgent x.die ctx) .read (x.saveBase + 0x1040) ((count + 7) / 8) with
        | .error _ => none
        | .ok (s2, map, _, _) =>
          let free := (List.range count).filter fun i => !(map.getD (i / 8) 0).getLsbD (i % 8)
          if n ≤ free.length && (free.take n).all fun b => (s2.spillBit ctx x b true).isOk then some (free.take n)
          else none

/-- The binding table of a context written to the copy in its save area, whole (R324); a copy that the tables do
not map stays as it is (log 104). -/
def State.copyBindings (s : State) (ctx : Nat) : State :=
  match s.ctx? ctx with
  | none => s
  | some x =>
    match s.agentWrite (frontAgent x.die ctx) x.saveBase (bindingBytes x.bindings) [] with
    | .ok s1 => s1
    | .error _ => s

/-- The binding table of a context all invalid before its first launch runs (R323). -/
def State.startContext (s : State) (ctx : Nat) : State :=
  match s.ctx? ctx with
  | none => s
  | some x =>
    if x.started then s
    else (s.modCtx ctx fun c => { c with started := true, bindings := [] }).copyBindings ctx

/-- The cove that a bind record makes of a launch (R334). -/
def coveOf (x : Entry) (v : Quad) (blocks : List Nat) : Cove where
  index := (bindOf v).2
  ctx := x.ctx
  vi := x.vi
  launch := (bindOf v).1
  vcore := bindVcore v
  bayPos := bindPos v
  bayCount := recBay x.record
  firstSlot := bindFirst v
  crews := recCrews x.record
  scratchBase := bindBase v
  scratchSize := kernelScratchUnits x.header * 4096 + Config.spillBytes
  barBase := bindBarrier v
  barCount := kernelBarriers x.header
  stashMax := recWindows x.record
  windows := []
  kernel := recKernel x.record
  header := x.header
  system := recSystem x.record
  constBase := recConstBase x.record
  constLen := recConstLen x.record
  spillUser := none
  spillBlocks := blocks
  complete := false
  stopping := false
  recorded := none
  band := x.band

/-- A cove dispatched (R45, step 5): its scratchpad, barriers, crews and threads initialised, its router
maps written, and its launch running. -/
def State.dispatch (s : State) (cr : CoveRef) (x : Entry) (v : Quad) (blocks : List Nat) (k : Strand) :
    State :=
  let c := coveOf x v blocks
  let s1 := ((s.startContext c.ctx).switchIn cr.die cr.core c.ctx).spillBits c.ctx cr.die c.launch c.index blocks true
  let s2 := (s1.zeroScratch cr.die cr.core c.scratchBase c.scratchSize).modCore cr.die cr.core fun y => { y with
    barriers := (List.range c.barCount).foldl
      (fun b i => aput b (c.barBase + i) ⟨c.visible, 0, 0⟩) y.barriers }
  let ts := (List.range c.crews).flatMap fun i => (List.range 32).map fun lane =>
    ((⟨cr.die, cr.core, c.firstSlot + i, lane⟩ : TRef), newThread cr c i lane x.handler)
  let s3 := { s2 with
    coves := aput s2.coves cr c
    crews := s2.crews ++ (List.range c.crews).map fun i => ((cr, i), newCrew c k)
    threads := s2.threads ++ ts }
  let s4 := ((s3.freshWords cr c).mapRouters cr.die c.ctx).modEntry cr.die c.launch fun y => { y with
    state := .running
    unplaced := y.unplaced.erase c.index
    placed := y.placed + 1 }
  let s5 := if kernelRevision c.header = 1 then s4.modCtx c.ctx fun z => { z with strong := true } else s4
  s5.startTide cr c

/-- The bind records that stand for a bay of a launch (R40), or for one cove without bays. -/
def State.bindsFor (s : State) (d : DieId) (core idx : Nat) (v : Quad) : List (CoveRef × Quad) :=
  match s.entry? d (bindOf v).1 with
  | none => []
  | some x =>
    if recBay x.record = 0 then [(⟨d, core, idx⟩, v)]
    else (s.die d).cores.flatMap fun k => (k.2.slots.filter fun e =>
      (bindOf e.2).1 == (bindOf v).1 && (bindOf e.2).2 / recBay x.record == (bindOf v).2 / recBay x.record).map
        fun e => (⟨d, k.1, e.1⟩, e.2)

/-- The records of a bay are all there, each on its own core of one cluster (R40). -/
def bayWhole (n : Nat) (bs : List (CoveRef × Quad)) : Bool :=
  bs.length == n && (bs.map fun b => b.1.core).eraseDups.length == n
    && (bs.map fun b => (bindOf b.2).2).eraseDups.length == n
    && (bs.map fun b => bindPos b.2).eraseDups.length == n
    && (bs.map fun b => clusterOf b.1.core).eraseDups.length == 1

/-- Dispatch obeys records one after another; a key block that cannot be read, or too few spill
blocks, leaves the coves unplaced. -/
def State.dispatchAll (s : State) : List (CoveRef × Quad) → Except Stop State
  | [] => .ok s
  | (cr, v) :: rest =>
    match s.entry? cr.die (bindOf v).1 with
    | none => .ok s
    | some x =>
      match s.freeBlocks x.ctx (recCrews x.record - 1) with
      | none => .error .hold
      | some blocks =>
        match s.launchKeys cr.die x with
        | .error e => .error e
        | .ok (s1, k) => (s1.dispatch cr x v blocks k).dispatchAll rest

/-- A bind record written into a slot table, and dispatch (R45, R335): a cove of a bay waits for the
records of its whole bay; refused records stand in their tables and leave their coves unplaced (R323).
Firmware writes none over that of a resident cove. -/
def State.place (s : State) (d : DieId) (core idx : Nat) (v : Quad) : Except Stop State :=
  if (s.cove? ⟨d, core, idx⟩).isSome then .ok s
  else if !bindValid v then .ok (s.modCore d core fun k => { k with slots := adel k.slots idx })
  else
    let s1 := s.modCore d core fun k => { k with slots := aput k.slots idx v }
    let bs := s1.bindsFor d core idx v
    let n := match s1.entry? d (bindOf v).1 with | some x => max 1 (recBay x.record) | none => 1
    if bs.length < n ∧ bs ≠ [] then .ok s1
    else if (n == 1 || bayWhole n bs) && bs != [] && bs.all fun b => s1.bindFits b.1.die b.1.core b.2 then
      match s1.dispatchAll bs with
      | .ok s2 => .ok s2
      | .error (.halt f) => .error (.halt f)
      | .error _ => .ok s1
    else .ok s1

/-- One firmware pass over a node: a firing that is due, or that the last predecessor's retirement
brings (R385). -/
def State.passNode (s : State) (d : DieId) (e : Nat) : State :=
  match s.fireNode d e with
  | .error _ => s
  | .ok s1 =>
    match s1.nodeBlock d e with
    | some (_, b) =>
      if tcbPreds b = 0 ∧ 0 < tcbWaiting b then
        match s1.fire d e with
        | .ok s2 => s2
        | .error _ => s1
      else s1
    | none => s1

/-- PLACEMENT_PASS (R45): firmware writes a bind record and lets due nodes fire. -/
def execPlacementPass (die : DieId) (core idx : Nat) (record : Quad) (s : State) :
    Host.Outcome State Fault Refusal :=
  match (if idx < 32 then s.place die core idx record else .ok s) with
  | .ok s1 =>
    .next ((((s1.die die).entries.map Prod.fst).foldl (fun s e => s.passNode die e) s1).retireNodes die)
  | .error (.halt f) => .fault f
  | .error _ => .next s

/-- LAUNCH_RETIRE (R292, R378). -/
def execLaunchRetire (die : DieId) (entry : Nat) (s : State) : Host.Outcome State Fault Refusal :=
  let s1 := s.finishCoves die
  match s1.entry? die entry with
  | none => .next s1
  | some x => if s1.canRetire die entry x then attempt s1 (s1.retire die entry x) else .next s1

/-- COALESCE_FIRE (R385). -/
def execCoalesceFire (die : DieId) (entry : Nat) (s : State) : Host.Outcome State Fault Refusal :=
  .next ((s.passNode die entry).retireNodes die)

/-- GRANULARITY_TABLE_WRITE (R337): a value with a reserved bit set leaves the reserved bits zero. -/
def execGranularityTableWrite (die : DieId) (vi : Nat) (p : Fin 4) (v : BitVec 16) (s : State) :
    Host.Outcome State Fault Refusal :=
  .next (s.modVi die vi fun i => { i with granularity := i.granularity.set p.val (v &&& 0xF) })

/-! The device description. -/

/-- What the description of an interface reports (R12, R286, R291, R324, R355). -/
def State.interfaceReport (s : State) (d : DieId) (vi : Nat) : InterfaceReport where
  number := vi
  system := (s.vi d vi).system
  queues := (List.range 8).map Config.queueOffset
  faults := Config.queueOffset 8
  debug := Config.debugOffset
  areas := (s.contexts.filter fun e => e.2.die == d && e.2.vi == vi && e.2.status != .lost).map
    fun e => (e.1, e.2.saveBase, e.2.saveSize)

/-- The description of a die as it stands (R12). -/
def State.describe (s : State) (d : DieId) : Description where
  die := d
  cores := Config.cores d
  clusters := Config.clusters d
  interfaces := Config.interfaces d
  keySlots := Config.keySlots d
  l2Slices := Config.l2Slices d
  l2Bytes := Config.l2Slices d * Config.l2SliceBytes
  dram := Config.dramBytes d
  channels := Config.dramChannels d
  busBits := Config.dramBits d
  scanEngines := Config.scanEngines
  heads := (List.range (Config.heads d)).map fun i => Config.headOffset (i + 1)
  linkPorts := Config.linkPorts
  tagBytes := Config.tagBytes d
  directoryBytes := Config.directoryBytes d
  snapshotBytes := (s.die d).poolGranules * granuleSize
  mirrorBytes := match d with
    | .craren => (s.contexts.filterMap fun e => e.2.mirror.map (·.size)).sum
    | .dukor => 0
  reports := ((List.range (Config.interfaces d)).filter fun i => (s.vi d i).created).map (s.interfaceReport d)
  lost := (s.contexts.filter fun e => e.2.status == .lost).map Prod.fst

/-- A description that has been published follows what it reports. -/
def State.republish (s : State) (d : DieId) : State :=
  s.modDie d fun x => { x with description := x.description.map fun _ => s.describe d }

/-- VIRTUAL_INTERFACE_CREATE (R291): firmware, once in control (R438), creates an interface with its system
right. -/
def execVirtualInterfaceCreate (die : DieId) (vi : Nat) (system : Bool) (s : State) :
    Host.Outcome State Fault Refusal :=
  if vi < Config.interfaces die ∧ (s.die die).power = .d0 then
    .next ((s.modVi die vi fun i => if i.created then i else { i with created := true, system := system }).republish die)
  else .next s

end Sys2Proof.Machine
end

