-- ==== Sys2Proof/Machine/Latches.lean ====
section
/-! DEFINITION. The latch records of a thread record (R368): the operands they hold, the instructions they
name, and those taken up only some time after their restore (R177). -/

namespace Sys2Proof.Machine

/-- Operand C of an instruction that latches (R173, R264). -/
def latchC : Instr → Opnd
  | .xpull _ _ _ _ _ c => c
  | .xpush _ _ _ _ _ _ c => c
  | .xvote _ _ _ _ c => c
  | .xfirst _ _ _ _ c => c
  | .xred _ _ _ _ _ c => c
  | .xscan _ _ _ _ _ _ c => c
  | .xmatch _ _ _ _ c => c
  | .rdv _ c => c
  | .mma _ _ _ _ c => c
  | .mmaSp _ _ _ _ c => c
  | .mmaSc _ _ _ _ c => c
  | _ => .none

/-- The widths of operands A and B of an instruction that latches, and of what rast latches (R368). -/
def latchWidths : Instr → List Width
  | .xpull _ t _ _ _ _ => [t.width, .w32]
  | .xpullImm _ t _ _ _ => [t.width, .w32]
  | .xpush _ t _ _ _ _ _ => [t.width, .w32]
  | .xvote _ _ _ _ _ => [.w32]
  | .xfirst _ t _ _ _ => [t.width]
  | .xred _ _ _ _ _ _ => [.w32]
  | .xscan _ _ _ _ _ _ _ => [.w32]
  | .xmatch _ t _ _ _ => [t.width]
  | .rast _ _ _ _ _ => List.replicate 10 .w32
  | .mma _ _ _ _ _ => [.w128, .w32]
  | .mmaSp _ _ _ _ _ => [.w128, .w32]
  | .mmaSc _ _ _ _ _ => [.w128, .w32]
  | _ => []

/-- Bytes of a width. -/
def widthBytes (w : Width) : Nat := 4 * w.regs

/-- Operands unpacked at their widths. -/
def unpackVals : List Width → List Byte → List Quad
  | [], _ => []
  | w :: ws, bs => ofNatQ (leNat (bs.take (widthBytes w))) :: unpackVals ws (bs.drop (widthBytes w))

/-- The instruction at a slot of a clause in memory. -/
def State.instrAt (s : State) (g : Agent) (key : DecodeKey) (clause : DWord) (slot : Nat) : Option Instr :=
  match s.fetchClause g clause.toNat with
  | .ok (_, ws) =>
    match decodeClause key ws with
    | .ok ss => (ss.find? fun k => k.index == slot).map (·.instr)
    | .error _ => none
  | .error _ => none

/-- A thread with one latch record taken up: the instruction that its clause holds says what it waits
for; a record whose instruction cannot be read now stands as it is (R177, log 101). -/
def Thread.takeLatch (s : State) (g : Agent) (key : DecodeKey) (t : Thread) (l : List Byte) : Thread :=
  let clause := dw (imgBits l 0 0 55)
  let slot := imgBits l 0 60 4
  let a : Word := BitVec.ofNat 32 (imgNat l 16 4)
  match s.instrAt g key clause slot with
  | none =>
    { t with
      latches := t.latches ++ [⟨clause, slot, imgNat l 8 4, false, .kmerge, [], l⟩]
      status := if t.status = .ready then .latched else t.status }
  | some (.barWt _ _ _) => { t with status := .barWait clause slot a (imgNat l 20 4) }
  | some (.barWtImm _ _ _) => { t with status := .barWait clause slot a (imgNat l 20 4) }
  | some (.barArw _ _ _ _) => { t with status := .barWait clause slot a (imgNat l 20 4) }
  | some (.barArwImm _ _ _ _) => { t with status := .barWait clause slot a (imgNat l 20 4) }
  | some (.cntWt _ _ _) =>
    { t with status := .cntWait clause slot ((Level.ofCode (imgNat l 20 4)).getD .launch) a }
  | some i =>
    let off := imgBits l 8 32 1 == 1
    { t with
      latches := t.latches ++ [⟨clause, slot, imgNat l 8 4, off, i,
        if off then [] else unpackVals (latchWidths i) (l.drop 16), []⟩]
      status := if t.status = .ready then .latched else t.status }

/-- A thread whose unread latch records are taken up again. -/
def Thread.reread (s : State) (g : Agent) (key : DecodeKey) (t : Thread) : Thread :=
  let raws := (t.latches.filter fun l => !l.raw.isEmpty).map (·.raw)
  raws.foldl (fun t l => t.takeLatch s g key l) { t with latches := t.latches.filter fun l => l.raw.isEmpty }

/-- A thread that waits at a barrier or an instance restored goes on where that has completed meanwhile (R376,
R382). -/
def State.wakeRestored (s : State) (r : TRef) : State :=
  match s.thread? r with
  | some t =>
    match t.status with
    | .barWait _ _ token n =>
      if ((s.cove? t.cove).map fun c => ((s.core r.die r.core).barrier (c.barBase + n)).ready token).getD false then
        s.makeReady r
      else s
    | .cntWait _ _ _ _ => s.wakeCounters r.die
    | _ => s
  | none => s

/-- The unread latch records of the threads of a core taken up (R177). -/
def State.rereadLatches (s : State) (d : DieId) (core : Nat) : State :=
  (s.threads.filter fun e => e.1.die == d && e.1.core == core && e.2.latches.any fun l => !l.raw.isEmpty).foldl
    (fun s e =>
      match s.cove? e.2.cove with
      | some c =>
        (s.modThread e.1 fun t => t.reread s ⟨d, none, c.ctx, none, true, false⟩ c.key).wakeRestored e.1
      | none => s) s

end Sys2Proof.Machine
end

