-- ==== Sys2Proof/Machine/Issue.lean ====
section
/-! DEFINITION. Issue of clauses: the fetch side (R47), readiness and the scoreboard (R24, R61), fusion
issue (R25), the tide rotation (R28 to R31), the start of a clause in its members (R62, R168, R353,
R354), and its end (R60, R174, R241, R352). -/

namespace Sys2Proof.Machine

/-- A thread of a core with its cove. -/
structure Seat where
  r : TRef
  t : Thread
  cv : Cove
  deriving DecidableEq, Repr

/-- The threads of a core with their coves. -/
def State.onCore (s : State) (d : DieId) (core : Nat) : List Seat :=
  s.threads.filterMap fun e =>
    if e.1.die = d ∧ e.1.core = core then (s.cove? e.2.cove).map fun c => ⟨e.1, e.2, c⟩ else none

/-- The launch of a thread replays: none of its threads goes on (R292). -/
def State.replaying (s : State) (x : Seat) : Bool :=
  match s.entry? x.r.die x.cv.launch with
  | some e => e.state == .replaying
  | none => false

/-- A context issues clauses while it is live; a band launch is never stopped (R361, R411). A thread that
waits for its checkpoint issues none (R360). -/
def State.mayIssue (s : State) (x : Seat) : Bool :=
  !s.replaying x &&
  match s.ctx? x.cv.ctx with
  | some c => (x.cv.band.isSome || c.status == .live) && !c.askers.any fun y => y.1 == x.r
  | none => false

/-- A thread that lives, is recorded nowhere, and waits for no teardown (R359). -/
def State.present (s : State) (x : Seat) : Bool :=
  x.t.active && x.t.entry.isNone && x.cv.recorded.isNone && !s.inIssue x.r
    && !(s.die x.r.die).scrubWait.contains x.r

/-- A thread stands ready but for its clause (R24): not exited, held, waiting, latched, trapping or
stopped. -/
def State.standing (s : State) (x : Seat) : Bool :=
  s.present x && !x.t.held && !x.t.exiting && x.t.status == .ready && x.t.latches.isEmpty
    && x.t.stopper.isNone && s.mayIssue x

/-- A thread held in its clause may go on with it: a stop waits for the clause's end (R24, R361). -/
def State.mayResume (s : State) (x : Seat) : Bool :=
  s.present x && x.t.held && !s.replaying x

/-- The thread whose accesses a thread's pending destinations are: the visible one of its pair (R42). -/
def Seat.owner (x : Seat) : TRef := if isShadow x.cv x.r then { x.r with lane := x.r.lane - 1 } else x.r

/-- The registers of a group. -/
def groupRegs (n : Nat) (w : Width) : List Nat := (List.range w.regs).map (n + ·)

/-- A thread has a request on its way whose fault would be deferred (R240). -/
def State.awaits (s : State) (x : Seat) : Bool :=
  s.link.reqs.any fun q => q.thread == x.owner && q.open && q.defers

/-- General registers of a thread that an operation has still to write (R61). -/
def State.pendingRegs (s : State) (x : Seat) : List Nat :=
  (s.link.reqs.flatMap fun q =>
    if q.thread = x.owner ∧ q.open then
      match q.dest with
      | some (n, w) => groupRegs n w
      | none => []
    else [])
  ++ (s.core x.r.die x.r.core).samples.flatMap fun o =>
    if o.owner = x.owner then groupRegs o.dest o.width else []

/-- The scoreboard and the wait mask let a thread start a clause (R61). -/
def State.boardClear (s : State) (x : Seat) (header : DWord) (ss : List Slot) : Bool :=
  let regs := s.pendingRegs x
  (ss.all fun k => (k.reads ++ k.writes).all fun n => match n with
    | .g i => !regs.contains i
    | _ => true)
  && (ss.all fun k => k.reads.all fun n => match n with
    | .h i => handleComplete (x.t.handle i)
    | _ => true)
  && (List.range 16).all fun h => !clauseWaits header h || handleComplete (x.t.handle h)

/-- The words of a thread's next clause in its core's decoded-op cache. -/
def State.wordsFor (s : State) (x : Seat) : Option (List DWord) :=
  ((s.core x.r.die x.r.core).dopAt x.cv.ctx x.cv.key x.t.pc).map (·.words)

/-- A thread is ready (R24); one whose clause fails decode is ready to trap. -/
def State.isReady (s : State) (x : Seat) : Bool :=
  s.standing x && !s.awaits x && (match s.wordsFor x with
    | none => false
    | some ws => match decodeClause x.cv.key ws with
      | .ok ss => s.boardClear x (ws.headD 0) ss
      | .error _ => true)

/-- The faults and steps due at the boundaries where threads of a core stand are taken before any of them
issues again (R176, R241, R352). -/
def State.takeDues (s : State) (d : DieId) (core : Nat) : State :=
  ((s.threads.filter fun e => e.1.die == d && e.1.core == core && (!e.2.due.isEmpty || e.2.stepDue)).map
    Prod.fst).foldl State.takeDue s

/-- Clauses that ready threads stand at and the cache misses are asked for: SLIPCNT counts each once
(R47, R101). -/
def State.askMisses (s : State) (d : DieId) (core : Nat) : State :=
  ((s.onCore d core).filter fun x => s.standing x && (s.wordsFor x).isNone).foldl (fun s x =>
    let k := (x.cv.ctx, x.cv.key, x.t.pc)
    if (s.core d core).dopMisses.contains k then s
    else
      (s.modCore d core fun y => { y with dopMisses := y.dopMisses ++ [k] }).count d core x.cv.ctx
        fun z => { z with slips := z.slips + 1 }) s

/-- A trap before any slot of a clause executes (R62, R168): kind 3. -/
def State.trapClause (s : State) (r : TRef) (a : DWord) (cause : Cause) (tval : DWord) : State :=
  s.trapThread r ⟨cause, tval, a, 0, 3, 0, none⟩

/-- The threads frozen on a miss (R47). -/
def State.frozenAt (s : State) (d : DieId) (core : Nat) (k : Nat × DecodeKey × DWord) : List Seat :=
  (s.onCore d core).filter fun x => s.standing x && x.cv.ctx == k.1 && x.cv.key == k.2.1 && x.t.pc == k.2.2

/-- The oldest miss of a core is filled: the clause is fetched as a load of the threads that wait for it,
or they trap at it (R48, R226). One that any thread with the system right awaits is fetched with it (log 89). -/
def State.fillMiss (s : State) (d : DieId) (core : Nat) : Except Stop State :=
  match (s.core d core).dopMisses with
  | [] => .ok s
  | k :: rest =>
    let s0 := s.modCore d core fun y => { y with dopMisses := rest }
    let xs := s.frozenAt d core k
    match xs with
    | [] => .ok s0
    | x :: _ =>
      let g : Agent := ⟨d, some core, k.1, some x.cv.launch, xs.any fun y => y.cv.system, false⟩
      match s0.fetchClause g k.2.2.toNat with
      | .ok (s1, ws) => .ok (s1.fillDop d core ⟨k.1, k.2.1, k.2.2, ws⟩)
      | .error (.trap cause tval) =>
        .ok (xs.foldl (fun s y => s.trapClause y.r k.2.2 cause tval) s0)
      | .error e => .error e

/-! Choice. -/

/-- Of two threads at one address in a lane, the one that a shoal takes (R25); of two with equal counts one
that has executed yield comes last (R27). -/
def Seat.ahead (x y : Seat) : Bool :=
  if x.t.passed != y.t.passed then decide (y.t.passed < x.t.passed)
  else if x.t.yielded != y.t.yielded then !x.t.yielded
  else decide (x.r.slot ≤ y.r.slot)

/-- The first of a list by a relation. -/
def bestOf {α : Type} (le : α → α → Bool) : List α → Option α
  | [] => none
  | x :: xs =>
    match bestOf le xs with
    | none => some x
    | some y => some (if le x y then x else y)

/-- A starved thread (R25). -/
def Seat.starved (x : Seat) : Bool := decide (33 ≤ x.t.passed)

/-- The order of starved threads of a core: highest passed count, lowest virtual lane, lowest slot. -/
def Seat.moreStarved (x y : Seat) : Bool :=
  if x.t.passed != y.t.passed then decide (y.t.passed < x.t.passed)
  else if x.t.vlane != y.t.vlane then decide (x.t.vlane < y.t.vlane)
  else decide (x.r.slot ≤ y.r.slot)

/-- Where a thread stands: context, decode key and clause address (R24). -/
def Seat.place (x : Seat) : Nat × DecodeKey × DWord := (x.cv.ctx, x.cv.key, x.t.pc)

/-- The place a pipe chooses among ready threads (R25): a starved thread's, else one with the most. -/
def choosePlace (xs : List Seat) : Option (Nat × DecodeKey × DWord) :=
  match bestOf Seat.moreStarved (xs.filter Seat.starved) with
  | some x => some x.place
  | none =>
    (bestOf (fun (a b : Seat) =>
      decide ((xs.filter fun y => y.place == b.place).length
        ≤ (xs.filter fun y => y.place == a.place).length)) xs).map Seat.place

/-- The crew of a thread is in serial key mode (R37). -/
def State.keySerial (s : State) (x : Seat) : Bool :=
  ((s.crew? x.t.cove x.t.crew).map fun cr => cr.serial.getD (logicalHalf x.cv x.r.lane) false).getD false

/-- What may issue together of threads at one place: a thread of a crew in serial key mode issues singly
(R37), when it is the first by the order of starved threads (log 92). -/
def State.together (s : State) (ms : List Seat) : List Seat :=
  match bestOf Seat.moreStarved ms with
  | none => []
  | some x => if s.keySerial x then [x] else ms.filter fun y => !s.keySerial y

/-- The other thread of a protected pair where it stands at the same clause (R42): the two issue as one
unit; at different clauses each issues alone (log 91). -/
def State.mate (s : State) (x : Seat) : Option TRef :=
  if x.cv.isProtected then
    let r := if isShadow x.cv x.r then { x.r with lane := x.r.lane - 1 } else shadowOf x.r
    match s.thread? r with
    | some t => if t.active && t.pc == x.t.pc && t.status != .trapWaiting then some r else none
    | none => none
  else none

/-- The lanes on which a thread issues: its own, and that of its mate. -/
def State.unitLanes (s : State) (x : Seat) : List Nat := x.r.lane :: (s.mate x).toList.map (·.lane)

/-- Two threads issue on one lane. -/
def State.sharesLane (s : State) (x y : Seat) : Bool := (s.unitLanes x).any (s.unitLanes y).contains

/-- The ready threads that may issue: of a pair at one clause both are ready, or neither counts (R42). -/
def State.whole (s : State) (ready : List Seat) : List Seat :=
  ready.filter fun x => (s.mate x).all fun m => ready.any fun y => y.r == m

/-- The units that may issue, each by one thread: of a pair at one clause the visible one, with the higher
of the two passed counts. -/
def State.units (s : State) (ready : List Seat) : List Seat :=
  (ready.filter fun x => (s.mate x).isNone || !isShadow x.cv x.r).map fun x =>
    match (s.mate x).bind s.thread? with
    | some t => { x with t := { x.t with passed := max x.t.passed t.passed } }
    | none => x

/-- The threads of units. -/
def State.withMates (s : State) (ready ms : List Seat) : List Seat :=
  ms.flatMap fun x => x :: match s.mate x with
    | some m => ready.filter fun y => y.r == m
    | none => []

/-- A unit that waits for a starved one of a lane on which it issues: a lane that holds a starved thread
issues no other until that one has issued (R25). -/
def State.barred (s : State) (xs : List Seat) (x : Seat) : Bool :=
  xs.any fun y => y.starved && y.r != x.r && s.sharesLane x y && !(x.starved && x.moreStarved y)

/-- Units in their order, each on lanes that none before it takes. -/
def State.fillLanes (s : State) : List Nat → List Seat → List Seat
  | _, [] => []
  | taken, x :: xs =>
    if (s.unitLanes x).any taken.contains then s.fillLanes taken xs
    else x :: s.fillLanes (s.unitLanes x ++ taken) xs

/-- Threads in lane order, one for each lane. -/
def byLane (xs : List Seat) : List Seat := (List.range 32).filterMap fun l => xs.find? fun x => x.r.lane == l

/-- The shoal of fusion issue: at the chosen place each lane gives the unit with the highest passed count that
no starved one bars (R25). -/
def State.shoalOf (s : State) (xs : List Seat) : List Seat :=
  match choosePlace xs with
  | none => []
  | some p =>
    s.together (byLane (s.fillLanes []
      ((xs.filter fun x => x.place == p && !s.barred xs x).mergeSort Seat.ahead)))

/-- Passed counts after an issue (R25): the members' are zero, and every other ready thread that issues on one
of their lanes gains one. -/
def State.passOver (s : State) (ready ms : List Seat) : State :=
  let lanes := ms.map fun m => m.r.lane
  { s with threads := s.threads.map fun e =>
      if ms.any fun m => m.r == e.1 then (e.1, { e.2 with passed := 0, yielded := false })
      else if ready.any fun x => x.r == e.1 && (s.unitLanes x).any lanes.contains then
        (e.1, { e.2 with passed := min 127 (e.2.passed + 1) })
      else e }

/-- A thread of a core that is not ready has a passed count of zero (R25). -/
def State.restPassed (s : State) (d : DieId) (core : Nat) (ready : List Seat) : State :=
  { s with threads := s.threads.map fun e =>
      if e.1.die == d && e.1.core == core && !ready.any (fun x => x.r == e.1) then
        (e.1, { e.2 with passed := 0 })
      else e }

/-! The tide rotation. -/

/-- The thread of a bit of a block bitmap. -/
def bitThread (d : DieId) (core n : Nat) : TRef := ⟨d, core, n / 32, n % 32⟩

/-- A thread that waits in a bitmap entry for its own next clause, in the serial queue, or in the
stream. -/
def State.seated (s : State) (x : Seat) : Bool :=
  let k := s.core x.r.die x.r.core
  k.serialQ.contains x.r
    || (k.bitmap.any fun e => e.2.addr == x.t.pc && e.2.ctx == x.cv.ctx && e.2.key == x.cv.key
      && e.2.map.getLsbD (mapBit x.r))
    || (match k.stream with
      | some st => st.threads.any fun y => y.1 == x.r
      | none => false)

/-- Every tide-issue thread of a core that a trap or a restore has moved is put where it now waits. -/
def State.reseat (s : State) (d : DieId) (core : Nat) : State :=
  ((s.onCore d core).filter fun x => kernelTide x.cv.header && x.t.active && !s.inIssue x.r
    && !x.t.held && !s.seated x).foldl (fun s x => s.modCore d core fun k =>
      (k.leaveTide x.r).joinTide x.cv.ctx x.cv.key x.t.pc x.r) s

/-- Threads of the serial queue for which an entry holds their address, or one is free, move there
(R30). -/
def State.drainSerial (s : State) (d : DieId) (core : Nat) : State :=
  (s.core d core).serialQ.foldl (fun s r =>
    match (s.thread? r).bind fun t => (s.cove? t.cove).map fun c => (t, c) with
    | some (t, c) =>
      let k := s.core d core
      if k.bitmap.any (fun e => e.2.addr == t.pc && e.2.ctx == c.ctx && e.2.key == c.key)
          || decide (k.bitmap.length < Config.bitmapEntries) then
        s.modCore d core fun k => (k.leaveTide r).joinTide c.ctx c.key t.pc r
      else s
    | none => s) s

/-- The ready threads of a turn's place: those in an entry's map, or in the serial queue. -/
def Core.inTurn (k : Core) (turn : Option Nat) (x : Seat) : Bool :=
  match turn with
  | none => k.serialQ.contains x.r
  | some i =>
    match aget k.bitmap i with
    | some e => e.map.getLsbD (mapBit x.r) && e.addr == x.t.pc
    | none => false

/-- The first turn of the rotation with a ready thread, and those threads. -/
def Core.nextTurn (k : Core) (xs : List Seat) : Option (Option Nat × List Seat) :=
  k.rotation.findSome? fun turn =>
    match xs.filter (k.inTurn turn) with
    | [] => none
    | ys => some (turn, ys)

/-- A turn begins (R29, R30): its ready threads leave the map or the queue for the stream, and what
still has threads goes to the tail of the rotation. In a turn of the serial queue each thread issues
one clause. -/
def Core.startTurn (k : Core) (turn : Option Nat) (xs : List Seat) : Core :=
  let k1 := xs.foldl (fun k x => k.leaveTide x.r) k
  let rot := k1.rotation.filter (· != turn)
  { k1 with
    rotation := if k1.rotation.contains turn then rot ++ [turn] else rot
    stream := some ⟨turn.isNone, xs.map fun x => (x.r, if turn.isNone then 15 else 0)⟩ }

/-- The clauses that a thread of the stream has issued in it. -/
def TideStream.count (st : TideStream) (r : TRef) : Nat :=
  ((st.threads.find? fun y => y.1 == r).map Prod.snd).getD 0

/-- Of two threads of a stream the one that issues first (R29): fewer clauses issued, then the lower
slot. -/
def TideStream.ahead (st : TideStream) (x y : Seat) : Bool :=
  if st.count x.r != st.count y.r then decide (st.count x.r < st.count y.r)
  else decide (x.r.slot ≤ y.r.slot)

/-- The members of the next clause of the stream among the units that may issue: those of one slot, a
thread for each lane, so that each clause runs to its end on its lane (R24, R29); by the fusion rules in a
turn of the serial queue (R30). -/
def State.streamMembers (s : State) (st : TideStream) (units : List Seat) : List Seat :=
  let xs := units.filter fun x => st.threads.any fun y => y.1 == x.r
  if st.serial then s.shoalOf xs
  else
    match bestOf st.ahead xs with
    | none => []
    | some x => s.together ((xs.filter fun y => y.r.slot == x.r.slot && y.place == x.place
        && st.count y.r == st.count x.r).mergeSort fun a b => decide (a.r.lane ≤ b.r.lane))

/-- A stream with the threads that meet a condition; none when it has no thread left. -/
def TideStream.keep (st : TideStream) (p : TRef × Nat → Bool) : Option TideStream :=
  let ts := st.threads.filter p
  if ts.isEmpty then none else some ⟨st.serial, ts⟩

/-- An entry of a core holds a thread's address (R28). -/
def Core.holds (k : Core) (x : Seat) : Bool :=
  k.bitmap.any fun e => e.2.addr == x.t.pc && e.2.ctx == x.cv.ctx && e.2.key == x.cv.key

/-- Threads of the stream leave it when they are not ready, have issued 16 clauses, or come to an address
that an entry holds; one held in its clause stays until the clause ends (R29). -/
def State.trimStream (s : State) (d : DieId) (core : Nat) (ready : List Seat) : State :=
  let k := s.core d core
  let stays (y : TRef × Nat) : Bool :=
    match ready.find? fun x => x.r == y.1 with
    | some x => decide (y.2 < 16) && (y.2 == 0 || y.2 == 15 || !k.holds x)
    | none => ((s.thread? y.1).map Thread.held).getD false
  let s1 := s.modCore d core fun k => { k with stream := k.stream.bind fun st => st.keep stays }
  if k.stream.isSome && (s1.core d core).stream.isNone then (s1.reseat d core).drainSerial d core
  else s1.reseat d core

/-- The next clause of the rotation: the core with its stream begun where none was, and the members; none
where no thread of the turn may issue on the pipe. -/
def State.tideChoice (s : State) (d : DieId) (core : Nat) (ready units : List Seat) :
    Option (State × Bool × List Seat) :=
  let k := s.core d core
  let s1 := match k.stream with
    | some _ => s
    | none =>
      match k.nextTurn (ready.filter fun x => kernelTide x.cv.header) with
      | some (turn, xs) => s.modCore d core fun k => k.startTurn turn
          (ready.filter fun y => xs.any fun x => x.r == y.r || s.mate x == some y.r)
      | none => s
  match (s1.core d core).stream with
  | none => none
  | some st =>
    match s1.streamMembers st units with
    | [] => none
    | ms => some (s1, st.serial, ms)

/-! The start of a clause. -/

/-- The producers before a slot as a resumed thread reads them, a key destination in its strand (R354). -/
def resumedProds (t : Thread) (ss : List Slot) (k : Option Strand) : List Prod :=
  let held (d : Opnd) (w : Width) : Quad × Bool :=
    match d, k with
    | .k n, some k => (k.group n.val w, w == .w128 && k.tags.getLsbD (n.val / 4))
    | _, _ => t.held? d w
  (ss.filter fun k => decide (k.index < t.resume)).foldl (fun ps k =>
    match k.prod, k.instr.fields with
    | some w, some f => ⟨w, (held f.d w).1, (held f.d w).2⟩ :: ps
    | some w, none => ⟨w, 0, false⟩ :: ps
    | none, _ => ps) []

/-- A member starts its clause. -/
def Thread.startClause (t : Thread) (ss : List Slot) (k : Option Strand) (first : Nat) : Thread :=
  { t with
    landFrom := none
    jump := none
    defer := []
    prods := resumedProds t ss k
    before := some t.file
    stepDue := tstatS t.tstat && !tstatH t.tstat
    firstReq := first }

/-- The slots of a decoded clause at or after one, with the members that have each before them: the
first that any member runs (R353, R354). -/
def State.slotFrom (s : State) (ss : List Slot) (ms : List TRef) : Option (Nat × List TRef) :=
  ss.findSome? fun k =>
    match ms.filter fun r => ((s.thread? r).map fun t => decide (t.resume ≤ k.index)).getD false with
    | [] => none
    | todo => some (k.index, todo)

/-- A thread resumed at a slot that holds no instruction (R353). -/
def badResume (ss : List Slot) (t : Thread) : Bool :=
  t.resume != 0 && !ss.any fun k => k.index == t.resume

/-- The successors of a clause that its header's prefetch distance asks for are brought into the decoded-op
cache, up to one that cannot be fetched (R47, R49). -/
def State.prefetchAhead (s : State) (d : DieId) (core : Nat) (g : Agent) (key : DecodeKey) :
    Nat → DWord → State
  | 0, _ => s
  | n + 1, a =>
    match (s.core d core).dopAt g.ctx key a with
    | some e => s.prefetchAhead d core g key n (a + dw (clauseBytes (e.words.headD 0)))
    | none =>
      match s.fetchClause g a.toNat with
      | .ok (s1, ws) =>
        (s1.fillDop d core ⟨g.ctx, key, a, ws⟩).prefetchAhead d core g key n
          (a + dw (clauseBytes (ws.headD 0)))
      | .error _ => s

/-- The key values that a thread reads as it resumes. -/
def State.strandOf (s : State) (r : TRef) : Option Strand :=
  match (s.thread? r).bind fun t => (s.cove? t.cove).map fun c => (t, c) with
  | some (t, c) => (s.crew? t.cove t.crew).bind fun cr => cr.strandOf (logicalHalf c r.lane) r.lane
  | none => none

/-- A clause issued on a pipe for members that all stand at it: each is checked (R168, R62, R353), and the
rest run it. -/
def State.startIssue (s : State) (d : DieId) (core pipe : Nat) (tide : Bool) (ms : List Seat) : State :=
  match ms with
  | [] => s
  | x :: _ =>
    let a := x.t.pc
    let ws := (s.wordsFor x).getD []
    let strays := ms.filter fun m => m.t.landFrom.isSome && !clauseLands (ws.headD 0)
    let s1 := strays.foldl (fun s m => s.trapClause m.r a .landing (m.t.landFrom.getD 0)) s
    let rest := ms.filter fun m => !strays.contains m
    match decodeClause x.cv.key ws with
    | .error (e, n) =>
      rest.foldl (fun s m => s.trapClause m.r a (causeOfDecode e) (a + dw (8 * n))) s1
    | .ok ss =>
      let lost := rest.filter fun m => badResume ss m.t
      let s2 := lost.foldl (fun s m =>
        s.trapClause m.r a .illegalClause (a + dw (8 * (m.t.resume + 1)))) s1
      let run := (rest.filter fun m => !lost.contains m).map (·.r)
      let s3 := run.foldl (fun s r => s.modThread r fun t => t.startClause ss (s.strandOf r) s.link.nextId) s2
      let s4 := s3.prefetchAhead d core ⟨d, some core, x.cv.ctx, some x.cv.launch, x.cv.system, false⟩
        x.cv.key (clausePrefetch (ws.headD 0)) (a + dw (clauseBytes (ws.headD 0)))
      match s4.slotFrom ss run with
      | none => s4
      | some (n, todo) => { s4 with issue := some ⟨d, core, pipe, tide, a, x.cv.key, ws, n, run, todo⟩ }

/-- The counters of R392 for an issue. -/
def State.countIssue (s : State) (d : DieId) (core ctx : Nat) (tide serial : Bool) (n : Nat) : State :=
  s.count d core ctx fun k => { k with
    clauses := k.clauses + (if tide && !serial then dw n else 1)
    shoals := if tide && !serial then k.shoals else k.shoals + 1
    issued := if tide && !serial then k.issued else k.issued + dw n
    serialIssues := if serial then k.serialIssues + dw n else k.serialIssues }

/-- The naps of a core gain one for each clause their lane issues, whatever becomes of it (R171). -/
def State.napTick (s : State) (d : DieId) (core : Nat) (lanes : List Nat) : State :=
  let s1 : State := { s with threads := s.threads.map fun e =>
    match e.2.status with
    | .napping p l n =>
      if e.1.die = d ∧ e.1.core = core then
        (e.1, { e.2 with status := .napping p l (n + lanes.count e.1.lane) })
      else e
    | _ => e }
  ((s1.threads.filter fun e => match e.2.status with
    | .napping _ _ n => decide (4096 ≤ n)
    | _ => false).map Prod.fst).foldl (fun s r => (s.wakeNap r).takeDue r) s1

/-- The clauses that threads of the stream have issued in it. -/
def State.noteStream (s : State) (d : DieId) (core : Nat) (ms : List Seat) : State :=
  s.modCore d core fun k => { k with stream := k.stream.map fun st => { st with
    threads := st.threads.map fun y => if ms.any fun m => m.r == y.1 then (y.1, y.2 + 1) else y } }

/-- A clause issued for units chosen on a pipe: the lanes' passed counts and naps, the counters, and the
clause's start. -/
def State.issueTo (s : State) (d : DieId) (core pipe : Nat) (tide serial : Bool) (ready ms : List Seat) :
    State :=
  match ms with
  | [] => s
  | x :: _ =>
    let all := s.withMates ready ms
    let s1 := ((s.passOver ready all).napTick d core (all.map fun m => m.r.lane)).countIssue d core x.cv.ctx
      tide serial all.length
    let s2 := s1.modCore d core fun k => { k with tideNext := !tide }
    (if tide then s2.noteStream d core all else s2).startIssue d core pipe tide all

/-- A pipe's choice of a new clause (R24, R31): among units whose lanes no held clause of the pipe keeps and
no starved fusion thread bars. The fusion choice and the rotation alternate where both have ready threads. -/
def State.newIssue (s : State) (d : DieId) (core pipe : Nat) : State :=
  let seats := s.onCore d core
  let ready := s.whole (seats.filter s.isReady)
  let s1 := (s.restPassed d core ready).trimStream d core ready
  let busy := (seats.filter fun x => (x.t.hold.map (·.pipe)) == some pipe).map fun x => x.r.lane
  let plain := (s1.units ready).filter fun x => !kernelTide x.cv.header
  let free := (s1.units ready).filter fun x => !(s1.unitLanes x).any busy.contains
  let fusion := free.filter fun x => !kernelTide x.cv.header && !s1.barred plain x
  let flow := free.filter fun x => kernelTide x.cv.header && !plain.any fun y => y.starved && s1.sharesLane x y
  match s1.tideChoice d core ready flow, fusion with
  | some (s2, serial, ms), [] => s2.issueTo d core pipe true serial ready ms
  | some (s2, serial, ms), _ :: _ =>
    if (s.core d core).tideNext then s2.issueTo d core pipe true serial ready ms
    else s1.issueTo d core pipe false false ready (s1.shoalOf fusion)
  | none, _ => s1.issueTo d core pipe false false ready (s1.shoalOf fusion)

/-- The held thread that a pipe of a core turns to: of those that may go on, the one held longest ago. -/
def State.oldestHold (s : State) (d : DieId) (core pipe : Nat) : Option (Seat × Hold) :=
  bestOf (fun x y => decide (x.2.since ≤ y.2.since)) ((s.onCore d core).filterMap fun x =>
    x.t.hold.bind fun h => if h.pipe = pipe && s.mayResume x then some (x, h) else none)

/-- A held clause goes on at its slot, for both threads of a pair that are held there (R24, R42). -/
def State.resumeHeld (s : State) (x : Seat) (h : Hold) : State :=
  let rs := x.r :: match s.mate x with
    | some m => if ((s.thread? m).map fun t => t.held && t.resume == x.t.resume).getD false then [m] else []
    | none => []
  let ms := rs.mergeSort fun a b => decide (a.lane ≤ b.lane)
  { s with issue := some ⟨x.r.die, x.r.core, h.pipe, h.tide, x.t.pc, x.cv.key, h.words, x.t.resume, ms, ms⟩ }

/-- One turn of a pipe of a core (R24): it takes up a held clause and chooses a new one in alternation. Latch
records that could not be read are taken up first, and groups whose members have ended a wait since the last
clause examined (R176, R177). -/
def State.pipeIssue (s : State) (d : DieId) (core pipe : Nat) : State :=
  if s.issue.isSome then s
  else
    let s1 := ((((s.rereadLatches d core).sweepCore d core).takeDues d core).askMisses d core).reseat d core
    let retry := (s1.core d core).retryNext.getLsbD pipe
    let s2 := s1.modCore d core fun k => { k with retryNext := bitPut k.retryNext pipe (!retry) }
    match (if retry then s2.oldestHold d core pipe else none) with
    | some (x, h) => s2.resumeHeld x h
    | none => s2.newIssue d core pipe

/-- CLAUSE_ISSUE (R24). -/
def execClauseIssue (die : DieId) (core pipe : Nat) (s : State) : Host.Outcome State Fault Refusal :=
  if pipe < 2 then .next (s.pipeIssue die core pipe) else .next s

/-- DECODED_OP_MISS_FILL (R47). -/
def execDecodedOpMissFill (die : DieId) (core : Nat) (s : State) : Host.Outcome State Fault Refusal :=
  attempt s (s.fillMiss die core)

/-- DECODED_OP_EVICTION (R226). -/
def execDecodedOpEviction (die : DieId) (core idx : Nat) (s : State) :
    Host.Outcome State Fault Refusal :=
  .next (s.modCore die core fun k => { k with dop := k.dop.eraseIdx idx })

/-- FAULT_REPORT_ARRIVAL (R240): the oldest report of a die arrives. -/
def execFaultReportArrival (die : DieId) (s : State) : Host.Outcome State Fault Refusal :=
  match s.reports.find? fun x => x.die == die with
  | none => .next s
  | some x => .next ({ s with reports := s.reports.erase x }.deliver x)

/-- NAP_COUNT_EXPIRY (R171): clocks in which the lane issued nothing brought the count to its end. -/
def execNapCountExpiry (r : TRef) (s : State) : Host.Outcome State Fault Refusal :=
  .next ((s.wakeNap r).takeDue r)

/-- NAP_EARLY_END (R171). -/
def execNapEarlyEnd (r : TRef) (s : State) : Host.Outcome State Fault Refusal :=
  .next ((s.wakeNap r).takeDue r)

/-! The end of a clause. -/

/-- The writes of a thread whose loss or fault was reported while it ran become due at its boundary
(R230, R240). -/
def State.reportWrites (s : State) (r : TRef) : State :=
  let lost := s.link.reqs.filter fun q => q.thread == r && (match q.phase with
    | .failed _ _ => true
    | _ => false)
  lost.foldl (fun s q =>
    match q.phase with
    | .failed cause tval =>
      { s with link := { s.link with reqs := s.link.reqs.erase q } }.postDue r
        ⟨q.faultKind, cause, tval, q.clause, q.slot, q.id, s.lossAt q cause tval⟩
    | _ => s) s

/-- A thread at the end of its clause: its deferred destinations are written and it moves to its next
clause (R60). -/
def Thread.endClause (t : Thread) (next' : DWord) : Thread :=
  let u := t.applyDefer
  { u with
    pc := (u.jump.getD (next', 0)).1
    resume := (u.jump.getD (next', 0)).2
    jump := none
    landFrom := if u.jump.isSome then u.landFrom else none
    hold := none
    prods := []
    before := none
    passed := if u.status == .ready && u.latches.isEmpty then u.passed else 0
    status := if u.status == .ready then u.restStatus else u.status
    tstat := if u.stopper.isSome && u.status == .ready && u.latches.isEmpty then u.tstat ||| 32
             else u.tstat }

/-- One member at the end of its clause. -/
def State.endMember (s : State) (next' : DWord) (r : TRef) : State :=
  match s.thread? r with
  | none => s
  | some t =>
    (((s.touchDefer r).modThread r fun t => t.endClause next').askDeferred r t).modThread r Thread.wakeHwait

/-- The stream after one clause (R29): a thread leaves it where the clause holds a control-flow
instruction, where another entry holds its next address, or after 16 clauses. -/
def State.streamOn (s : State) (i : Issue) (ctl : Bool) : State :=
  let stays (y : TRef × Nat) : Bool :=
    match (s.thread? y.1).bind fun t => (s.cove? t.cove).map fun c => (t, c) with
    | some (t, c) =>
      !ctl && decide (y.2 < 16) && t.active && t.status == .ready && !(s.core i.die i.core).holds ⟨y.1, t, c⟩
    | none => false
  let s1 := s.modCore i.die i.core fun k => { k with
    stream := k.stream.bind fun st => st.keep fun y => !i.members.contains y.1 || stays y }
  let s2 := s1.reseat i.die i.core
  if (s2.core i.die i.core).stream.isNone then s2.drainSerial i.die i.core else s2

/-- The threads of a core that end at the boundary where they stand: by exit, or with their cancelled
cove (R169, R390). -/
def State.leavers (s : State) (d : DieId) (core : Nat) : List TRef :=
  (s.threads.filter fun e => e.1.die == d && e.1.core == core && e.2.active && e.2.exiting && !e.2.held).map
    Prod.fst

/-- The threads of a core, none of them held, that have requests whose failure waits for them. -/
def State.failedAt (s : State) (d : DieId) (core : Nat) : List TRef :=
  ((s.link.reqs.filter fun q => match q.phase with
    | .failed _ _ => q.thread.die == d && q.thread.core == core
        && !((s.thread? q.thread).map Thread.held).getD false
    | _ => false).map (·.thread)).eraseDups

/-- The end of the clause in issue for all its members: their destinations, moves and arrivals; then
the groups of the core's coves, exits, the faults due and the stream (R60, R169, R174, R241). An arrival in
a clause that ends in exit counts for its group before the exit withdraws it (log 87). -/
def State.endIssue (s : State) (i : Issue) : State :=
  let s0 := { s with issue := none }
  let s1 := i.members.foldl (fun s r => s.endMember i.successor r) s0
  let coves := s1.coresCoves i.die i.core
  let s1 := (coves.filter fun cr => ((s1.cove? cr).map (·.stopping)).getD false).foldl State.stopOps s1
  let s2 := coves.foldl State.sweep (((s1.landEnded i.die i.core).endEmptyCopies i.die i.core).stopLate i.die i.core)
  let gone := s2.leavers i.die i.core
  let s3 := if gone.isEmpty then s2 else coves.foldl State.sweep (gone.foldl State.exitThread s2)
  let s4 := i.members.foldl State.takeDue ((s3.failedAt i.die i.core).foldl State.reportWrites s3)
  let ctl := match decodeClause i.key i.words with
    | .ok ss => ss.any fun k => k.ctl
    | .error _ => false
  let s5 := if i.tide then s4.streamOn i ctl else s4
  if gone.isEmpty then s5 else (coves.foldl State.finishCove s5).wakeCounters i.die

/-- The instruction that the current slot of the clause in issue holds. -/
def Issue.current (i : Issue) : Option Instr :=
  match decodeClause i.key i.words with
  | .ok ss => (ss.find? fun k => k.index == i.slot).map (·.instr)
  | .error _ => none

/-- The slots of the clause in issue after the current one. -/
def Issue.after (i : Issue) : List Slot :=
  match decodeClause i.key i.words with
  | .ok ss => ss.filter fun k => decide (i.slot < k.index)
  | .error _ => []

/-- After a thread's turn at the current slot: the next thread's turn, the next slot, or the end of the
clause. A thread that goes on is no longer held. -/
def State.advance (s : State) (r : TRef) : State :=
  match s.issue with
  | none => s
  | some i =>
    let s1 := if i.members.contains r then s.modThread r fun t => { t with hold := none } else s
    let todo := i.todo.erase r
    if todo ≠ [] then { s1 with issue := some { i with todo := todo } }
    else
      match s1.slotFrom i.after i.members with
      | some (n, next') => { s1 with issue := some { i with slot := n, todo := next' } }
      | none => s1.endIssue i

end Sys2Proof.Machine
end

