-- ==== Sys2Proof/Machine/Image.lean ====
section
/-! DEFINITION. The portable context image (R363 to R368): the records of threads, crews, barriers,
stash windows, copies, launch entries and queues, each written to bytes. -/

namespace Sys2Proof.Machine

/-! Bytes. -/

/-- Bytes filled with zero to a multiple of n. -/
def padTo (n : Nat) (bs : List Byte) : List Byte := bs ++ List.replicate ((n - bs.length % n) % n) 0

/-- Bits as bytes, bit 0 first. -/
def bitBytes : Nat → (Nat → Bool) → Nat → List Byte
  | 0, _, _ => []
  | n + 1, f, i =>
    BitVec.ofNat 8 (((List.range 8).map fun k => if f (i + k) then 2 ^ k else 0).sum) :: bitBytes n f (i + 8)

/-- A clause address with a slot above it, as TPC holds them (R350). -/
def placeWord (clause : DWord) (slot : Nat) : Nat := (tpcWord clause slot).toNat

/-! Threads. -/

/-- Latched operands packed at their widths. -/
def packVals : List Width → List Quad → List Byte
  | w :: ws, v :: vs => leBytes (widthBytes w) v.toNat ++ packVals ws vs
  | _, _ => []

/-- The latched operands of an arrival (R368): A and B, then C, a mask or a gang, where there is one. -/
def latchOperands (l : Latch) : List Byte :=
  packVals (latchWidths l.instr) l.vals ++ if latchC l.instr = .none then [] else leBytes 4 l.mask

/-- A latch record's bytes (R368). -/
def latchBytes (clause : DWord) (slot mask : Nat) (off : Bool) (vals : List Byte) : List Byte :=
  leBytes 8 (placeWord clause slot) ++ leBytes 4 mask ++ leBytes 4 off.toNat
    ++ ((vals ++ List.replicate 48 0).take 48)

/-- The latch records of a thread: its arrivals, or the wait at a barrier or an instance that R377 and
R382 record as one. -/
def Thread.latchRecords (t : Thread) : List (List Byte) :=
  let own := t.latches.map fun l =>
    if l.raw.isEmpty then latchBytes l.clause l.slot l.mask l.off (if l.off then [] else latchOperands l) else l.raw
  match t.status with
  | .barWait clause slot token n => own ++ [latchBytes clause slot 0 false (leBytes 4 token.toNat ++ leBytes 4 n)]
  | .cntWait clause slot lv sel =>
    own ++ [latchBytes clause slot 0 false (leBytes 4 sel.toNat ++ leBytes 4 lv.code)]
  | _ => own

/-- The state code and the hwait mask of a thread (R368). -/
def Thread.stateCode (t : Thread) : Nat × Nat :=
  match t.status with
  | .exited => (0, 0)
  | .trapWaiting => (2, 0)
  | .hwait m => (4, m)
  | .ready => (if tstatX t.tstat then 3 else if t.latches.isEmpty then 1 else 5, 0)
  | .napping _ _ _ => (if tstatX t.tstat then 3 else 1, 0)
  | _ => (5, 0)

/-- The pending fault field (R368): the fault that would be taken at the boundary. -/
def pendingBytes : Option Due → List Byte
  | none => List.replicate 16 0
  | some d =>
    leBytes 8 (d.slot % 16 * 2 ^ 60 + d.kind % 4 * 2 ^ 58 + d.clause.toNat % 2 ^ 55)
      ++ leBytes 8 (d.cause.code * 2 ^ 56 + d.tval.toNat % 2 ^ 55)

/-- A thread record (R368). -/
def Thread.record (t : Thread) (n : Nat) : List Byte :=
  let ls := t.latchRecords
  leBytes 8 (t.stateCode.2 % 2 ^ 16 * 2 ^ 32 + ls.length * 2 ^ 8 + t.stateCode.1)
    ++ leBytes 8 (placeWord t.pc t.resume) ++ leBytes 8 (placeWord t.cont t.contSlot)
    ++ leBytes 8 t.tpc.toNat ++ leBytes 8 t.tval.toNat ++ leBytes 8 t.thandler.toNat
    ++ leBytes 4 t.tcause.toNat ++ leBytes 4 t.tstat.toNat ++ leBytes 4 t.fstat.toNat
    ++ leBytes 4 t.preds.toNat ++ pendingBytes (pickDue t.firstReq (t.due ++ t.pending.toList))
    ++ (List.range 16).flatMap (fun h => leBytes 8 (t.handle h).toNat)
    ++ ls.flatten
    ++ (List.range n).flatMap (fun r => leBytes 4 (t.reg r).toNat)
    ++ padTo 8 (bitBytes (n / 32) t.tags.getLsbD 0) ++ padTo 8 (bitBytes (n / 8) t.poison.getLsbD 0)

/-! Crews. -/

/-- The live strands of a crew by place. -/
def Crew.liveStrands (cr : Crew) : List Nat :=
  (List.range cr.strands.length).filter fun i => (cr.strands.getD i none).isSome

/-- A strand's 272 bytes, its parent by its place among the live ones (R367). -/
def strandBytes (live : List Nat) : Option Strand → List Byte
  | none => List.replicate 272 0
  | some k =>
    let p := k.parent.bind fun i => live.idxOf? i
    leBytes 8 (k.tags.toNat * 2 ^ 16 + ((k.split.map Prod.snd).getD 0) * 2 ^ 4
        + (if p.isSome then 8 else 0) + p.getD 0 * 2 + k.poison.toNat)
      ++ leBytes 8 ((k.split.map fun x => x.1.toNat).getD 0)
      ++ k.keys.flatMap fun v => leBytes 4 v.toNat

/-- A crew record (R367). A crew of which any half is in serial key mode is recorded so as a whole. -/
def Crew.record (cr : Crew) (active : List Nat) : List Byte :=
  let live := if cr.isSerial then [] else cr.liveStrands
  let place (lane : Nat) : Nat := (live.idxOf? (cr.ptr.getD lane 0)).getD 0
  leBytes 8 (laneMask active * 2 ^ 32 + (if cr.block.isSome then 64 else 0)
      + (if cr.isSerial then 32 else 0) + (2 ^ live.length - 1) % 16)
    ++ leBytes 8 (((List.range 32).map fun l => place l * 4 ^ l).sum)
    ++ leBytes 8 (cr.block.getD 0)
    ++ (List.range 4).flatMap (fun i => strandBytes live ((live[i]?).bind fun j => cr.strands.getD j none))
    ++ List.replicate 40 0

/-! Cove sections. -/

/-- A stash map entry (R333). -/
def windowBytes : Option Window → List Byte
  | none => List.replicate 16 0
  | some w => leBytes 16 (w.firstSector * 2 ^ 78 + (w.sectors - 1) * 2 ^ 64 + w.offset * 2 ^ 26 + 1)

/-- A barrier record (R373). -/
def barrierBytes (b : Barrier) : List Byte :=
  leBytes 8 (b.expected * 2 ^ 32 + b.arrived * 2 ^ 16) ++ leBytes 8 b.phase.toNat

/-- A cove header (R366), with the section's length in 64-byte units. -/
def coveHeader (c : Cove) (number : Word) (units : Nat) : List Byte :=
  leBytes 8 (units * 2 ^ 32 + c.index)
    ++ leBytes 8 (number.toNat * 2 ^ 32 + c.bayPos * 2 ^ 28 + (c.crews - 1) * 2 ^ 16 + c.stashMax * 2 ^ 8)
    ++ leBytes 8 (c.declared * 2 ^ 32 + c.barCount * 2 ^ 14) ++ leBytes 8 c.kernel
    ++ List.replicate 32 0

/-- The threads of a crew in lane order, an exited one in each lane that has none. -/
def State.laneThreads (s : State) (cv : CoveRef) (c : Cove) (crew : Nat) : List Thread :=
  (List.range 32).map fun lane =>
    (s.thread? ⟨cv.die, cv.core, c.firstSlot + crew, lane⟩).getD
      (newThread cv c crew lane 0).end

/-- The section of a resident cove (R366); its scratchpad holds the keys that its crews spilled. -/
def State.coveSection (s : State) (cv : CoveRef) (c : Cove) (number : Word) : List Byte :=
  let k := s.core cv.die cv.core
  let crewsOf (i : Nat) : Crew := (s.crew? cv i).getD (newCrew c Strand.zero)
  let body :=
    (List.range c.stashMax).flatMap (fun i => windowBytes (aget c.windows i))
      ++ (List.range c.barCount).flatMap (fun i => barrierBytes (k.barrier (c.barBase + i)))
      ++ memBytes k.scratch c.scratchBase c.scratchSize
      ++ padTo 64 (bitBytes (c.scratchSize / 128) (fun i => k.scratchTags.contains (c.scratchBase / 16 + i)) 0)
      ++ (List.range c.crews).flatMap (fun i =>
        (crewsOf i).record ((s.crewThreads cv i).filterMap fun e => if e.2.active then some e.1.lane else none))
      ++ (List.range c.crews).flatMap fun i => (s.laneThreads cv c i).flatMap fun t => t.record c.regCount
  let all := padTo 64 (List.replicate 64 0 ++ body)
  coveHeader c number (all.length / 64) ++ all.drop 64

/-! The whole image. -/

/-- A queue descriptor (R286). -/
def queueWord (q : Queue) : Nat :=
  q.write.toNat * 2 ^ 112 + q.read.toNat * 2 ^ 96 + q.size * 2 ^ 92 + q.base + q.priority * 2 ^ 4
    + (if q.replayable then 8 else 0) + (if q.deviceFed then 2 else 0) + (if q.enable then 1 else 0)

/-- Section 3 of the image: the queue descriptors of a context; those of its interface that serve another
context are zero. -/
def queueSection (i : Interface) (ctx : Nat) : List Byte :=
  let one (q : Queue) : List Byte := if q.ctx = ctx then leBytes 16 (queueWord q) else List.replicate 16 0
  (List.range 8).flatMap (fun n => one (i.queues.getD n Queue.reset)) ++ one i.faults ++ List.replicate 48 0

/-- The state code of an entry (R365). -/
def EntryState.code : EntryState → Nat
  | .parked => 0
  | .ready => 1
  | .running => 2
  | .suspended => 2
  | .replaying => 3
  | .retiring => 4

/-- A launch entry (R365, R373). -/
def Entry.bytes (x : Entry) : List Byte :=
  (List.range 8).flatMap (fun i => leBytes 8 (recWord x.record i).toNat)
    ++ leBytes 8 (x.number.toNat * 2 ^ 32 + (if x.replayable then 256 else 0) + x.state.code)
    ++ leBytes 8 (counterWord false x.error x.cancelled x.hold (x.unplaced.length + x.placed)).toNat
    ++ leBytes 8 (x.unplaced.length * 2 ^ 32 + x.placed) ++ List.replicate 40 0

/-- A copy record (R365). -/
def copyBytes (op : CopyOp) (cove tindex : Nat) : List Byte :=
  leBytes 16 op.desc.toNat ++ leBytes 16 op.dst.toNat ++ leBytes 16 op.src.toNat
    ++ leBytes 8 (tindex % 2 ^ 16 * 2 ^ 32 + cove % 2 ^ 16 * 2 ^ 16 + op.handle.getD 0 * 2 ^ 8 + op.form)
    ++ leBytes 8 (op.progress % 2 ^ 48)

/-- The tags of a copy record's chunks: its capabilities passed their checks at issue, so each
capability that the form has is tagged. -/
def copyTags (bs : List Byte) : List Bool := [false, true, (bs.getD 48 0).toNat != 5, false]

/-- A page-table root word of the image header (R364). -/
def rootWord : Option Nat → Nat
  | none => 0
  | some r => 2 ^ 63 + r % 2 ^ 48

/-- The image header (R364). -/
def imageHeader (x : Context) (n units coves entries copies : Nat) : List Byte :=
  leBytes 8 (2 ^ 48 + units) ++ leBytes 8 (n * 2 ^ 32)
    ++ leBytes 8 (coves * 2 ^ 48 + entries * 2 ^ 32 + copies * 2 ^ 16 + x.strong.toNat)
    ++ leBytes 8 (rootWord x.rootCraren) ++ leBytes 8 (rootWord x.rootDukor) ++ List.replicate 24 0

/-- The resident coves of a context that have a section. -/
def State.recordedCoves (s : State) (ctx : Nat) : List (CoveRef × Cove × List Byte) :=
  s.coves.filterMap fun e =>
    if e.2.ctx = ctx then e.2.recorded.map fun bs => (e.1, e.2, bs) else none

/-- The thread index of a thread in its cove (R23). -/
def threadIndex (c : Cove) (t : Thread) (lane : Nat) : Nat := crewNumber c t.crew lane * c.width + t.vlane

/-- A copy record with its cove number (R365). -/
def copyNumbered (bs : List Byte) (n : Nat) : List Byte :=
  let w := leNat ((bs.drop 48).take 8)
  bs.take 48 ++ leBytes 8 (w / 2 ^ 32 * 2 ^ 32 + n % 2 ^ 16 * 2 ^ 16 + w % 2 ^ 16) ++ bs.drop 56

/-- The copy records of a cove that stands at a number of the image. -/
def State.copyRecords (s : State) (x : Context) (cv : CoveRef) (c : Cove) (n : Nat) : List (List Byte) :=
  (x.copies.filter fun op => op.cove == cv && op.handle.isSome).map fun op =>
    copyBytes op n (match s.thread? op.owner with
      | some t => threadIndex c t op.owner.lane
      | none => 0)

/-- What the image records of each cove of a context: the resident ones, then those that wait. -/
def State.recordsOf (s : State) (ctx : Nat) (x : Context) : List Recorded :=
  let cs := s.recordedCoves ctx
  let own := (List.range cs.length).filterMap fun i => (cs[i]?).map fun e =>
    (⟨e.2.2, s.copyRecords x e.1 e.2.1 i, []⟩ : Recorded)
  own ++ (List.range x.waiting.length).filterMap fun i => (x.waiting[i]?).map fun w =>
    (⟨w.bytes, w.copies.map fun b => copyNumbered b (cs.length + i), w.loose⟩ : Recorded)

/-- The image of a context with the tags of its chunks, with a checkpoint number, 0 for a plain
pre-emption (R363). Sections that wait to be placed follow those of the resident coves. -/
def State.image (s : State) (ctx : Nat) (x : Context) (n : Nat) : List Byte × List Bool :=
  let es := (s.entriesOf x.die ctx).map Prod.snd
  let rs := s.recordsOf ctx x
  let copies := rs.flatMap fun r => r.copies
  let sections := rs.flatMap fun r => r.bytes
  let body := bindingBytes x.bindings ++ queueSection (s.vi x.die x.vi) ctx ++ es.flatMap Entry.bytes ++ copies.flatten ++ sections
  let before := (64 + 4096 + 192 + 128 * es.length) / 16
  (imageHeader x n ((body.length + 64) / 64) rs.length es.length copies.length ++ body,
    List.replicate before false ++ copies.flatMap copyTags ++ List.replicate (sections.length / 16) false)

/-- The address of the image area of a context's save area (R324). -/
def State.imageArea (s : State) (x : Context) (ctx : Nat) : Except Stop (State × Nat) :=
  match s.agentRead (frontAgent x.die ctx) .read (x.saveBase + 0x1000) 16 with
  | .error e => .error e
  | .ok (_, _, _, some a) => .error (.trap .uncorrectable (dw a))
  | .ok (s1, bs, _, none) =>
    let count := leNat (bs.take 4)
    let off := leNat (bs.drop 8) % 2 ^ 48
    .ok (s1, x.saveBase + max (align64 (0x1040 + align64 ((count + 7) / 8)))
      (if count = 0 then 0 else off + 8192 * count))

/-- The image of a context written into its save area. -/
def State.writeImage (s : State) (ctx : Nat) (x : Context) (n : Nat) : Except Stop State :=
  match s.imageArea x ctx with
  | .error e => .error e
  | .ok (s1, a) => s1.agentWrite (frontAgent x.die ctx) a (s.image ctx x n).1 (s.image ctx x n).2

end Sys2Proof.Machine
end

