-- ==== Sys2Proof/Machine/Restore.lean ====
section
/-! DEFINITION. Restoring a context (R369, R370): the image read and checked, and its entries, coves,
crews and threads made again at the places that firmware writes bind records for. -/

namespace Sys2Proof.Machine

/-! Threads. -/

/-- A status that a handle can hold (R297). -/
def handleValid (v : DWord) : Bool :=
  let s := handleStatus v
  decide (s ≤ 3) || (decide (0x4000 ≤ s) && decide (s ≤ 0x7FFF)) || s == 0x8000

/-- The reserved fields and the handles of a thread record (R368). -/
def threadRecordOk (bs : List Byte) : Bool :=
  zeroFields bs [(0, 48, 16), (0, 16, 16), (0, 3, 5), (48, 16, 16), (48, 40, 8), (48, 56, 8), (56, 5, 27),
      (56, 39, 25), (64, 55, 3), (72, 55, 1)]
    && decide (imgBits bs 0 0 3 ≤ 5) && decide (recordLatches bs ≤ 16)
    && imgBits bs 64 58 2 != 3
    && (List.range 16).all (fun h => handleValid (imgWord bs (80 + 8 * h)))
    && (List.range (recordLatches bs)).all fun i => imgBits bs (208 + 64 * i + 8) 33 31 == 0

/-- The pending fault of a record (R368). -/
def recordPending (bs : List Byte) : Option Due :=
  match imgBits bs 64 58 2, Cause.ofCode (imgBits bs 72 56 8) with
  | 0, _ => none
  | k, some c => some ⟨k, c, dw (imgBits bs 72 0 55), dw (imgBits bs 64 0 55), imgBits bs 64 60 4, 0, none⟩
  | _, none => none

/-- A thread as its record gives it, but for what it waits for at a latch. Its pending fault is due first (R369),
or, where it waits for the tret of a handler, stays behind that (R351). -/
def threadOf (cv : CoveRef) (c : Cove) (crew lane : Nat) (behind : Bool) (bs : List Byte) : Thread :=
  let n := c.regCount
  let tstat : Word := BitVec.ofNat 32 (imgNat bs 52 4)
  let f := recordPending bs
  { newThread cv c crew lane (imgWord bs 40) with
    status := match imgBits bs 0 0 3 with
      | 0 => .exited
      | 2 => .trapWaiting
      | 4 => .hwait (imgBits bs 0 32 16)
      | _ => .ready
    pc := dw (imgBits bs 8 0 55)
    resume := imgBits bs 8 60 4
    cont := dw (imgBits bs 16 0 55)
    contSlot := imgBits bs 16 60 4
    tpc := imgWord bs 24
    tval := imgWord bs 32
    tcause := BitVec.ofNat 32 (imgNat bs 48 4)
    tstat := tstat
    fstat := BitVec.ofNat 32 (imgNat bs 56 4)
    preds := BitVec.ofNat 7 (imgNat bs 60 4)
    handles := (List.range 16).map fun h => imgWord bs (80 + 8 * h)
    regs := (List.range n).map fun r => BitVec.ofNat 32 (imgNat bs (recordRegs bs + 4 * r) 4)
    tags := (List.range (n / 4)).foldl (fun t q => bitPut t q (imgBit bs (recordTags bs n) q)) 0
    poison := (List.range n).foldl (fun t r => bitPut t r (imgBit bs (recordPoison bs n) r)) 0
    pending := if behind then f else none
    due := if behind then [] else f.toList }

/-- A thread as its whole record gives it. -/
def State.threadFrom (s : State) (g : Agent) (cv : CoveRef) (c : Cove) (crew lane : Nat) (behind : Bool)
    (bs : List Byte) : Thread :=
  ((List.range (recordLatches bs)).foldl
    (fun t i => t.takeLatch s g c.key ((bs.drop (208 + 64 * i)).take 64))
    (threadOf cv c crew lane behind bs)).wakeHwait

/-! Crews. -/

/-- The reserved fields of a crew record (R367). -/
def crewRecordOk (bs : List Byte) : Bool :=
  zeroFields bs [(0, 7, 25), (0, 4, 1), (16, 32, 32)]
    && (List.range 4).all (fun i => zeroFields (bs.drop (24 + 272 * i)) [(0, 32, 32), (0, 8, 8)])
    && (bs.drop 1112).all (· == 0)

/-- A strand of a crew record. -/
def strandOf (bs : List Byte) : Strand where
  keys := (List.range 64).map fun i => BitVec.ofNat 32 (imgNat bs (16 + 4 * i) 4)
  tags := BitVec.ofNat 16 (imgBits bs 0 16 16)
  poison := imgBits bs 0 0 1 == 1
  parent := if imgBits bs 0 3 1 = 1 then some (imgBits bs 0 1 2) else none
  split := if imgBits bs 0 3 1 = 1 then some (imgWord bs 8, imgBits bs 0 4 4) else none

/-- A crew as its record gives it, with the key files that it spilled. -/
def crewFrom (c : Cove) (bs : List Byte) (files : List Strand) : Crew where
  strands := (List.range 4).map fun i =>
    if imgBit bs 0 i then some (strandOf (bs.drop (24 + 272 * i))) else none
  ptr := (List.range 32).map fun l => imgNat bs 8 8 / 4 ^ l % 4
  serial := [imgBit bs 0 5, imgBit bs 0 5 && c.isC16 && !c.isProtected]
  spilled := if imgBit bs 0 5 then files else []
  block := if imgBit bs 0 6 then some (imgNat bs 16 4) else none

/-- The key files of spilled bytes with the tags of their chunks. -/
def filesOf (bs : List Byte) (tag : Nat → Bool) : List Strand :=
  (List.range 32).map fun lane => { Strand.zero with
    keys := (List.range 64).map fun i => BitVec.ofNat 32 (imgNat bs (256 * lane + 4 * i) 4)
    tags := (List.range 16).foldl (fun t q => bitPut t q (tag (16 * lane + q))) 0 }

/-! Cove sections. -/

/-- The fields of a section that must be zero, in its header, its windows and its barriers. -/
def sectionZeros (b : List Byte) : Bool :=
  zeroFields b [(8, 24, 4), (8, 0, 8), (16, 23, 9), (16, 0, 14), (24, 55, 9), (32, 0, 64), (40, 0, 64),
      (48, 0, 64), (56, 0, 64)]
    && (List.range (secWindows b)).all (fun i =>
      let v := imgNat b (64 + 16 * i) 16
      v / 2 ^ 45 % 2 ^ 19 == 0 && v / 2 % 2 ^ 25 == 0)
    && (List.range (secBarriers b)).all fun i =>
      zeroFields (b.drop (secBars b + 16 * i)) [(0, 48, 16), (0, 0, 16), (8, 32, 32)]

/-- A section agrees with its own counts and the register count of its kernel, and its reserved fields
are zero (R369). -/
def sectionOk (b : List Byte) (n : Nat) : Bool :=
  decide (secThreadAt b ≤ b.length) && sectionZeros b
    && (List.range (secCrews b)).all (fun i => crewRecordOk ((b.drop (secCrewAt b + 1152 * i)).take 1152))
    && match splitRecords n (32 * secCrews b) (b.drop (secThreadAt b)) with
      | some rs => rs.all threadRecordOk
      | none => false

/-- The windows of a section, every part of them invalid (R369). -/
def windowsOf (b : List Byte) : Assoc Nat Window :=
  (List.range (secWindows b)).filterMap fun i =>
    let v := imgNat b (64 + 16 * i) 16
    if v % 2 = 1 then
      some (i, ⟨v / 2 ^ 78 % 2 ^ 50, v / 2 ^ 64 % 2 ^ 14 + 1, v / 2 ^ 26 % 2 ^ 19, []⟩)
    else none

/-- A barrier of a section (R373). -/
def barrierFrom (b : List Byte) : Barrier :=
  ⟨imgBits b 0 32 16, imgBits b 0 16 16, BitVec.ofNat 32 (imgBits b 8 0 32)⟩

/-! The image as a whole. -/

/-- Fields of the image header (R364). -/
def imgUnits (b : List Byte) : Nat := imgBits b 0 0 32
def imgCoves (b : List Byte) : Nat := imgBits b 16 48 16
def imgEntries (b : List Byte) : Nat := imgBits b 16 32 16
def imgCopies (b : List Byte) : Nat := imgBits b 16 16 16
def imgStrong (b : List Byte) : Bool := imgBits b 16 0 1 == 1

/-- Whether the header's root of a die is valid. -/
def imgRoot (b : List Byte) : DieId → Bool
  | .craren => imgBits b 24 63 1 == 1
  | .dukor => imgBits b 32 63 1 == 1

/-- The header's format and reserved fields (R364, R369). -/
def imageHeaderOk (b : List Byte) : Bool :=
  imgBits b 0 48 16 == 1
    && zeroFields b [(0, 32, 16), (8, 0, 32), (16, 1, 15), (24, 48, 15), (24, 0, 16), (32, 48, 15),
      (32, 0, 16), (40, 0, 64), (48, 0, 64), (56, 0, 64)]

/-- The bytes of entry, copy record and section lists in an image. -/
def imgEntry (b : List Byte) (i : Nat) : List Byte := (b.drop (4352 + 128 * i)).take 128
def imgCopyAt (b : List Byte) : Nat := 4352 + 128 * imgEntries b
def imgCopy (b : List Byte) (i : Nat) : List Byte := (b.drop (imgCopyAt b + 64 * i)).take 64

/-- The sections of an image; none where their lengths disagree with the counts. -/
def splitSections : Nat → List Byte → Option (List (List Byte))
  | 0, bs => if bs.isEmpty then some [] else none
  | k + 1, bs =>
    let n := 64 * secUnits bs
    if n = 0 ∨ bs.length < n then none
    else (splitSections k (bs.drop n)).map fun rs => bs.take n :: rs

/-- The reserved fields of queue descriptors (R286). -/
def queuesOk (b : List Byte) : Bool :=
  (List.range 9).all (fun i =>
    let v := imgNat b (4160 + 16 * i) 16
    v / 2 ^ 55 % 2 ^ 37 == 0 && v / 4 % 2 == 0 && (i != 8 || v / 2 % 32 == 0))
    && ((b.drop 4304).take 48).all (· == 0)

/-- The reserved fields and the state of a launch entry (R365, R373), and the reserved fields of its record
(R288). -/
def entryOk (b : List Byte) : Bool :=
  !(recordReserved (wordsOf 8 b)).any Prod.fst && zeroFields b [(64, 9, 23), (72, 48, 13), (88, 0, 64), (96, 0, 64), (104, 0, 64), (112, 0, 64), (120, 0, 64)]
    && decide (imgBits b 64 0 8 ≤ 4)

/-- The reserved fields of a copy record (R365) and of its descriptor (R302). -/
def copyOk (b : List Byte) : Bool :=
  cpReserved (ofNatQ (imgNat b 0 16)) == 0 && zeroFields b [(48, 48, 16), (48, 12, 4), (56, 48, 16)] && decide (imgBits b 48 0 8 ≤ 5)

/-- The reserved fields of entries of the region binding table (R332). -/
def bindingFields : Nat → List Byte → Bool
  | 0, _ => true
  | n + 1, b => zeroFields b [(0, 55, 9), (0, 1, 2)] && bindingFields n (b.drop 16)

/-- The region binding table of an image. -/
def bindingsOk (b : List Byte) : Bool := bindingFields 256 (b.drop 64)

/-- An image taken apart: its bytes, and each cove's section with its copy records. -/
def imageParts (b : List Byte) : Option (List Recorded) :=
  if imageHeaderOk b && b.length == 64 * imgUnits b && decide (imgCopyAt b + 64 * imgCopies b ≤ b.length) && queuesOk b && bindingsOk b
      && (List.range (imgEntries b)).all (fun i => entryOk (imgEntry b i))
      && (List.range (imgCopies b)).all fun i => copyOk (imgCopy b i) then
    (splitSections (imgCoves b) (b.drop (imgCopyAt b + 64 * imgCopies b))).map fun ss =>
      (List.range ss.length).map fun i =>
        ⟨ss.getD i [], ((List.range (imgCopies b)).map (imgCopy b)).filter fun c => imgBits c 48 16 16 == i, []⟩
  else none

/-! Entries. -/

/-- The state of a code (R365). -/
def EntryState.ofCode : Nat → EntryState
  | 0 => .parked
  | 1 => .ready
  | 2 => .running
  | 3 => .replaying
  | _ => .retiring

/-- What was kept of an entry beside the image, by its virtual entry number. -/
def Context.kept (x : Context) (number : Word) : Option (Nat × Entry) :=
  x.saved.find? fun e => e.2.number == number

/-- An entry as the image gives it, with what the front end kept of it, or took again from its record. -/
def State.entryFrom (s : State) (d : DieId) (ctx vi : Nat) (x : Context) (b : List Byte) : Option Entry :=
  let number : Word := BitVec.ofNat 32 (imgBits b 64 32 32)
  let record := wordsOf 8 b
  let n := imgBits b 80 32 32
  let base := match x.kept number with
    | some (_, y) => some y
    | none =>
      match s.checkHeader (launchAgent d ctx record) (recKernel record) with
      | .ok (s1, w, h) => some { newEntry vi ctx number record 0 0 true with
          header := w
          handler := h
          graph := if recBlock record = 0 then 0 else
            match s1.readBlock (frontAgent d ctx) (recBlock record) with
            | .ok (_, t) => tcbGraph t
            | .error _ => 0 }
      | .error _ => none
  base.map fun y => { y with
    vi := vi
    ctx := ctx
    number := number
    record := record
    state := EntryState.ofCode (imgBits b 64 0 8)
    replayable := imgBits b 64 8 1 == 1
    hold := imgBits b 72 32 16
    error := imgBits b 72 62 1 == 1
    cancelled := imgBits b 72 61 1 == 1
    unplaced := if y.unplaced.length = n then y.unplaced
                else (List.range (recCoves record)).drop (recCoves record - n)
    placed := imgBits b 80 0 32 }

/-- Every entry of an image, if each can be made. -/
def State.entriesFrom (s : State) (d : DieId) (ctx vi : Nat) (x : Context) (b : List Byte) :
    Option (List Entry) :=
  (List.range (imgEntries b)).mapM fun i => s.entryFrom d ctx vi x (imgEntry b i)

/-- The free entries of a die. -/
def State.freeEntries (s : State) (d : DieId) : List Nat :=
  (List.range (Config.frontEndEntries d)).filter fun e => (s.entry? d e).isNone

/-- The new index of an entry known by its old one. -/
def newIndex (x : Context) (es : List (Nat × Entry)) (old : Nat) : Option Nat :=
  ((x.saved.find? fun e => e.1 == old).bind fun e => es.find? fun y => y.2.number == e.2.number).map Prod.fst

/-- A context's entries put on a die; the firings and the pre-images that named entries by their old
places follow them. -/
def State.putEntries (s : State) (d : DieId) (ctx : Nat) (x : Context) (es : List (Nat × Entry)) : State :=
  let s1 := es.foldl (fun s e => s.putEntry d e.1 (some { e.2 with
    firingOf := e.2.firingOf.bind fun f => (newIndex x es f.1).map fun n => (n, f.2) })) s
  let move (k : Die) : Die := { k with pool := k.pool.map fun p =>
    if p.ctx = ctx then { p with launch := p.launch.bind (newIndex x es) } else p }
  (s1.modDie .craren move).modDie .dukor move

/-! Coves. -/

/-- The record of a place with the entry and cove that a section names (R334). -/
def bindRecordFor (v : Quad) (entry index : Nat) : Quad :=
  ofNatQ (index % 2 ^ 32 * 2 ^ 96 + entry % 2 ^ 16 * 2 ^ 80 + v.toNat % 2 ^ 80)

/-- The entry of a section on a die. -/
def State.sectionEntry (s : State) (d : DieId) (ctx : Nat) (b : List Byte) : Option (Nat × Entry) :=
  (s.entriesOf d ctx).find? fun e => e.2.number == secLaunch b

/-- The scratchpad range of a bind record is free on a core (R335). -/
def State.scratchFits (s : State) (d : DieId) (core : Nat) (w : DWord) (v : Quad) : Bool :=
  let size := kernelScratchUnits w * 4096 + Config.spillBytes
  decide (bindBase v + size ≤ Config.scratchBytes)
    && !s.coves.any fun e => e.1.die == d && e.1.core == core
      && overlap (bindBase v) size e.2.scratchBase e.2.scratchSize

/-- The key slot of a protected context is its own on a die (R370). -/
def State.keyUsable (s : State) (d : DieId) (ctx : Nat) : Bool :=
  match (s.ctx? ctx).bind (·.keySlot) with
  | none => true
  | some k => ((s.die d).keySlot k).state == .active && ((s.die d).keySlot k).owner == some ctx

/-- Whether a section can stand at a place (R370). -/
def State.placeFits (s : State) (d : DieId) (ctx : Nat) (p : Place) (r : Recorded) (x : Entry) : Bool :=
  let b := r.bytes
  bindValid p.record && decide (p.idx < 32) && decide (p.core < Config.cores d)
    && !(s.core d p.core).degraded && s.keyUsable d ctx && !s.blockedBy d x
    && (s.cove? ⟨d, p.core, p.idx⟩).isNone
    && bindCtx p.record == ctx && bindSlots p.record == secCrews b
    && bindPos p.record == secBayPos b
    && if r.isDone (kernelRegs x.header) then s.scratchFits d p.core x.header p.record
      else s.roomFor d p.core x.header p.record

/-- The cove that a section makes at a place. -/
def coveFrom (x : Entry) (blocks : List Nat) (v : Quad) (b : List Byte) : Cove :=
  { coveOf x v blocks with
    crews := secCrews b
    scratchSize := secScratch b + Config.spillBytes
    barCount := secBarriers b
    stashMax := secWindows b
    windows := windowsOf b
    kernel := secKernel b }

/-- The key files that a crew of a section spilled: in the spill area of the section, or in its block. -/
def State.spilledOf (s : State) (ctx : Nat) (b : List Byte) (crew : List Byte) : List Strand :=
  if imgBit crew 0 6 then
    match (s.ctx? ctx).map fun x => (x, s.spillAddress x ctx (imgNat crew 16 4)) with
    | some (x, .ok a) =>
      match s.agentRead (frontAgent x.die ctx) .read a 8192 with
      | .ok (_, bs, tags, _) => filesOf bs fun i => tags.getD i false
      | .error _ => []
    | _ => []
  else filesOf ((b.drop (secPad b + secScratch b)).take 8192)
    fun i => imgBit b (secTags b) (secScratch b / 16 + i)

/-- The pending fault of a thread of a recorded cove waits for the tret of its handler. -/
def Context.isBehind (x : Context) (number : Word) (index crew lane : Nat) : Bool :=
  x.behind.contains (number, index, crew, lane)

/-- The poisoned sectors of a recorded cove's scratchpad, by their first bytes in it. -/
def Context.badOf (x : Context) (number : Word) (index : Nat) : List Nat :=
  ((x.bad.find? fun e => e.1 == number && e.2.1 == index).map fun e => e.2.2).getD []

/-- The blocks that a context keeps for a recorded cove. -/
def Context.blocksOf (x : Context) (number : Word) (index : Nat) : List Nat :=
  ((x.blocks.find? fun e => e.1 == number && e.2.1 == index).map fun e => e.2.2).getD []

/-- A copy record issued again at its progress (R369). -/
def copyFrom (cv : CoveRef) (c : Cove) (after : Nat) (b : List Byte) : CopyOp :=
  let i := imgBits b 48 32 16
  let crew := i / (if c.isC16 && !c.isProtected then 32 else c.width)
  let lane := if c.isProtected then 2 * (i % 16) else if c.isC16 then i % 32 else i % 32
  ⟨⟨cv.die, cv.core, c.firstSlot + crew, lane⟩, cv, some (imgBits b 48 8 4), imgBits b 48 0 8,
    ofNatQ (imgNat b 16 16), ofNatQ (imgNat b 32 16), ofNatQ (imgNat b 0 16), imgBits b 56 0 48, after⟩

/-- A stopped copy without a handle issued again at its progress. -/
def looseFrom (cv : CoveRef) (c : Cove) (after : Nat) (op : CopyOp) : CopyOp :=
  { op with owner := ⟨cv.die, cv.core, c.firstSlot + op.owner.slot, op.owner.lane⟩, cove := cv, after := after }

/-- Recorded coves of a launch wait to be placed. -/
def State.launchWaits (s : State) (d : DieId) (k : Cove) : Bool :=
  match s.entry? d k.launch, s.ctx? k.ctx with
  | some e, some x => x.waiting.any fun w => secLaunch w.bytes == e.number
  | _, _ => false

/-- A thread that a BREAK or STEP handler of its launch keeps stopped finds that handler's thread again (R355).
While that may stand in a cove that still waits to be placed the thread stays stopped, by itself for now;
without one its stop has ended. -/
def State.findStopper (s : State) (r : TRef) (t : Thread) : Thread :=
  if !tstatX t.tstat || !t.active || (t.stopper.isSome && t.stopper != some r) then t
  else
    let launch := (s.cove? t.cove).map (·.launch)
    match s.threads.find? fun e => e.1 != r && e.1.die == r.die
        && (s.cove? e.2.cove).map (·.launch) == launch && tstatH e.2.tstat && !tstatX e.2.tstat
        && (e.2.tcause == 21 || e.2.tcause == 22) with
    | some e => { t with stopper := some e.1 }
    | none =>
      if ((s.cove? t.cove).map (s.launchWaits r.die)).getD false then { t with stopper := some r }
      else { t with stopper := none, tstat := t.tstat &&& 0xFFFFFFDF }

/-- The stops of a cove's threads found again. -/
def State.findStoppers (s : State) (ctx : Nat) : State :=
  { s with threads := s.threads.map fun e =>
      if ((s.cove? e.2.cove).map (·.ctx)) = some ctx then (e.1, s.findStopper e.1 e.2) else e }

/-- A cove restored at a place whose resources are free (R369): its bind record and remap entries, its
scratchpad, tags, stash map, barriers, strands and threads, and its copies. -/
def State.restoreCove (s : State) (d : DieId) (ctx : Nat) (x : Context) (p : Place) (r : Recorded)
    (e : Nat) (y : Entry) : State :=
  let b := r.bytes
  let v := bindRecordFor p.record e (secIndex b)
  let cv : CoveRef := ⟨d, p.core, p.idx⟩
  let c := coveFrom y (x.blocksOf (secLaunch b) (secIndex b)) v b
  let g : Agent := ⟨d, none, ctx, none, true, false⟩
  let recs := (splitRecords c.regCount (32 * c.crews) (b.drop (secThreadAt b))).getD []
  let crewBytes (i : Nat) : List Byte := (b.drop (secCrewAt b + 1152 * i)).take 1152
  let crews := (List.range c.crews).map fun i =>
    ((cv, i), crewFrom c (crewBytes i) (s.spilledOf ctx b (crewBytes i)))
  let c1 := { c with
    spillUser := (List.range c.crews).find? fun i => imgBit (crewBytes i) 0 5 && !imgBit (crewBytes i) 0 6 }
  let ts := (List.range c.crews).flatMap fun i => (List.range 32).map fun lane =>
    ((⟨d, p.core, c.firstSlot + i, lane⟩ : TRef),
      s.threadFrom g cv c i lane (x.isBehind (secLaunch b) (secIndex b) i lane) (recs.getD (32 * i + lane) []))
  let s1 := (s.switchIn d p.core ctx).dropDop d p.core ctx
  let s2 := s1.zeroScratch d p.core c.scratchBase c.scratchSize
  let s3 := s2.scratchSet d p.core c.scratchBase ((b.drop (secPad b)).take c.scratchSize)
    ((List.range (c.scratchSize / 16)).map fun i => imgBit b (secTags b) i)
  let s4 := s3.modCore d p.core fun k => { k with
    slots := aput k.slots p.idx v
    badSectors := k.badSectors ++ ((x.badOf (secLaunch b) (secIndex b)).flatMap fun o =>
      sectorsOf (c.scratchBase + o) 48).eraseDups.filter fun n => !k.badSectors.contains n
    barriers := (List.range c.barCount).foldl
      (fun m i => aput m (c.barBase + i) (barrierFrom (b.drop (secBars b + 16 * i)))) k.barriers
    copies := k.copies ++ r.copies.map (copyFrom cv c s.link.nextId) ++ r.loose.map (looseFrom cv c s.link.nextId) }
  let live := ts.any (fun t => t.2.active) || !r.copies.isEmpty || !r.loose.isEmpty
  let s5 := { s4.freshWords cv c1 with coves := aput s4.coves cv c1 }.mapRouters d ctx
  if live then
    { s5 with crews := s5.crews ++ crews, threads := s5.threads ++ ts }.startTide cv c1
  else
    (s5.modCore d p.core fun k => { k with slots := adel k.slots p.idx }).modCove cv fun z =>
      { z with complete := true, windows := [] }

/-- Sections placed one after another; none where one does not fit. -/
def State.placeGroup (s : State) (d : DieId) (ctx : Nat) (x : Context) : List (Recorded × Option Place) →
    Option State
  | [] => some s
  | (_, none) :: _ => none
  | (r, some p) :: rest =>
    match s.sectionEntry d ctx r.bytes with
    | none => none
    | some (e, y) =>
      if s.placeFits d ctx p r y then
        (s.restoreCove d ctx x p r e y).placeGroup d ctx x rest
      else none

/-- What a section is placed together with: its whole bay, or itself alone (R40). -/
def State.groupKey (s : State) (d : DieId) (ctx : Nat) (b : List Byte) : Word × Nat × Bool :=
  match s.sectionEntry d ctx b with
  | some (_, y) =>
    if recBay y.record = 0 then (secLaunch b, secIndex b, false)
    else (secLaunch b, secIndex b / recBay y.record, true)
  | none => (secLaunch b, secIndex b, false)

/-- The places of a bay are on cores of their own in one cluster (R40). -/
def bayPlaces (ps : List (Recorded × Option Place)) : Bool :=
  let cores := ps.filterMap fun p => p.2.map (·.core)
  (cores.eraseDups.length == ps.length) && ((cores.map clusterOf).eraseDups.length ≤ 1)

/-- Every section of a list placed that can be; the others wait (R370). An instance that a thread waits for may
have completed meanwhile (R382). -/
def State.placeSections (s : State) (d : DieId) (ctx : Nat) (x : Context)
    (ps : List (Recorded × Option Place)) : State :=
  let key (p : Recorded × Option Place) := s.groupKey d ctx p.1.bytes
  let keys := (ps.map key).eraseDups
  let out := keys.foldl (fun (acc : State × List Recorded) k =>
    let g := ps.filter fun p => key p == k
    match (if !k.2.2 || bayPlaces g then acc.1.placeGroup d ctx x g else none) with
    | some s1 => (s1, acc.2)
    | none => (acc.1, acc.2 ++ g.map Prod.fst)) (s, [])
  ((out.1.modCtx ctx fun c => { c with waiting := out.2 }).findStoppers ctx).wakeCounters d

/-- A section of an image with what the context keeps of it beside the image. -/
def Context.withLoose (x : Context) (r : Recorded) : Recorded :=
  { r with loose := (x.loose.filter fun e => e.1 == secLaunch r.bytes && e.2.1 == secIndex r.bytes).map fun e => e.2.2 }

/-- Sections with the places given for them, in order. -/
def withPlaces (rs : List Recorded) (places : List Place) : List (Recorded × Option Place) :=
  (List.range rs.length).filterMap fun i => (rs[i]?).map fun r => (r, places[i]?)

/-! The context as a whole. -/

/-- A queue of an image for an interface: its own registers where the interface already serves the
context, else the descriptor recorded (R285, R406). -/
def queueFrom (b : List Byte) (ctx i : Nat) (now : Queue) : Queue :=
  let v := imgNat b (4160 + 16 * i) 16
  if now.ctx = ctx ∧ now.size ≠ 0 then { now with read := if i = 8 then now.read else BitVec.ofNat 16 (v / 2 ^ 96) }
  else if v = 0 then now
  else ⟨BitVec.ofNat 16 (v / 2 ^ 112), BitVec.ofNat 16 (v / 2 ^ 96), v / 2 ^ 92 % 16, v % 2 ^ 55 / 64 * 64,
    v / 16 % 4, v / 8 % 2 == 1, v / 2 % 2 == 1, v % 2 == 1, ctx, []⟩

/-- The queues of an interface that serve a context given up. -/
def Interface.release (i : Interface) (ctx : Nat) : Interface :=
  { i with
    queues := i.queues.map fun q => if q.ctx = ctx ∧ q.size ≠ 0 then Queue.reset else q
    faults := if i.faults.ctx = ctx ∧ i.faults.size ≠ 0 then Queue.reset else i.faults }

/-- The queue descriptors of an image bound to an interface; a context that changes interfaces takes its
queues, their waiting entry numbers and its number sequence with it (R409). -/
def State.bindQueues (s : State) (d : DieId) (vi ctx : Nat) (x : Context) (b : List Byte) : State :=
  if x.die = d ∧ x.vi = vi then
    s.modVi d vi fun i => { i with
      queues := (List.range 8).map fun n => queueFrom b ctx n (i.queues.getD n Queue.reset)
      faults := queueFrom b ctx 8 i.faults }
  else
    let old := s.vi x.die x.vi
    let from' (n : Nat) : Queue :=
      let q := old.queues.getD n Queue.reset
      if q.ctx = ctx ∧ q.size ≠ 0 then queueFrom b ctx n q else queueFrom b ctx n Queue.reset
    let s1 := s.modVi d vi fun i => { i with
      queues := (List.range 8).map from'
      faults := if old.faults.ctx = ctx ∧ old.faults.size ≠ 0 then old.faults else queueFrom b ctx 8 Queue.reset
      nextEntry := old.nextEntry }
    s1.modVi x.die x.vi fun i => i.release ctx

/-- A created interface of a die that no context has, or that the context already has (R409). -/
def State.interfaceFor (s : State) (d : DieId) (x : Context) : Option Nat :=
  if x.die = d then some x.vi
  else (List.range (Config.interfaces d)).find? fun i =>
    (s.vi d i).created && !s.contexts.any fun c => c.2.die == d && c.2.vi == i && c.2.status != .lost

/-- The region binding table of an image (R332). -/
def bindingsOf (b : List Byte) : Assoc Nat Quad := bindingsIn (b.drop 64)

/-- A context's image restored on a die (R369), its binding table in its save area too (R323, R324); none where
the restore is refused. -/
def State.restoreImage (s : State) (ctx : Nat) (d : DieId) (b : List Byte) (places : List Place) :
    Option State :=
  match s.ctx? ctx, imageParts b with
  | some x, some rs =>
    if !imgRoot b d || (x.root d).isNone then none
    else
      match s.interfaceFor d x with
      | none => none
      | some vi =>
        match s.entriesFrom d ctx vi x b with
        | none => none
        | some es =>
          let free := s.freeEntries d
          if free.length < es.length then none
          else
            let placed := free.zip es
            let regs (r : Recorded) : Nat :=
              ((es.find? fun e => e.number == secLaunch r.bytes).map fun e => kernelRegs e.header).getD 0
            if !rs.all fun r => sectionOk r.bytes (regs r) then none
            else
              let s1 := (s.bindQueues d vi ctx x b).putEntries d ctx x placed
              let s2 := s1.modCtx ctx fun c => { c with
                die := d
                vi := vi
                bindings := bindingsOf b
                strong := imgStrong b
                status := .live
                ckpt := none
                evict := false
                askers := []
                copies := [] }
              some ((((s2.copyBindings ctx).placeSections d ctx x (withPlaces (rs.map x.withLoose) places)).republish .craren).republish .dukor)
  | _, _ => none

/-- The image in a context's save area. -/
def State.readImage' (s : State) (ctx : Nat) (x : Context) : Option (List Byte × List Bool) :=
  match s.imageArea x ctx with
  | .error _ => none
  | .ok (s1, a) =>
    match s1.agentRead (frontAgent x.die ctx) .read a 64 with
    | .ok (_, h, _, none) =>
      match s1.agentRead (frontAgent x.die ctx) .read a (64 * imgUnits h) with
      | .ok (_, bs, tags, none) => some (bs, tags)
      | _ => none
    | _ => none

/-- RESTORE (R369): a pre-empted context restored from the image in its save area on a die; of a live
context, the recorded coves that still wait are placed (R41, R370); a context that has run nothing yet takes the
image that firmware put into its save area (R408). A refused restore changes nothing, and nothing is placed on a
Dukor that undocks (R295). -/
def State.restoreOp (s : State) (ctx : Nat) (d : DieId) (places : List Place) : State :=
  match s.ctx? ctx with
  | none => s
  | some x =>
    if s.undocking d && x.keySlot.isNone then s
    else if x.status = .live then
      if x.die ≠ d then s
      else if x.started || !(s.entriesOf d ctx).isEmpty then s.placeSections d ctx x (withPlaces x.waiting places)
      else
        match s.readImage' ctx x with
        | some (b, _) =>
          match s.restoreImage ctx d b places with
          | some s1 => s1.modCtx ctx fun c => { c with started := true }
          | none => s
        | none => s
    else if x.status = .preempted then
      match s.readImage' ctx x with
      | some (b, _) => (s.restoreImage ctx d b places).getD s
      | none => s
    else s

/-- RESTORE (R369). -/
def execRestore (ctx : Nat) (die : DieId) (places : List Place) (s : State) :
    Host.Outcome State Fault Refusal :=
  .next (s.restoreOp ctx die places)

end Sys2Proof.Machine
end

