-- ==== Sys2Proof/Machine/Preempt.lean ====
section
/-! DEFINITION. Pre-emption (R361, R362), checkpoints up to their mark (R360, R399) and migration
(R397): a context stops, each of its coves is acknowledged and recorded, and then its image is written;
it stays pre-empted, or goes on from that image. -/

namespace Sys2Proof.Machine

/-- A context begins to stop, for a pre-emption or a checkpoint; a request made while it stops merges into
the stop in progress (R362). A context under teardown ends by its teardown alone, which keeps what it holds
(R430, R432). -/
def State.beginStop (s : State) (ctx : Nat) (evict ckpt : Bool) : State :=
  match s.ctx? ctx with
  | none => s
  | some x =>
    let want := if ckpt && x.stream.isNone && x.mirror.isSome then some (x.recorded + 1) else none
    let policy := s.policy ctx x
    if s.scrubbing x.die ctx then s
    else if x.status = .live then
      (s.covesIn ctx).foldl (fun s e => s.stopUnits ctx policy want.isSome e.1)
        (s.modCtx ctx fun c => { c with status := .stopping, evict := evict, ckpt := want })
    else if x.status = .stopping then
      s.modCtx ctx fun c => { c with
        evict := c.evict || evict
        ckpt := match c.ckpt with
          | some n => some n
          | none => want }
    else s

/-- Every unit has acknowledged the stop of a cove (R361). -/
def State.coveAcked (s : State) (cv : CoveRef) (c : Cove) : Bool :=
  let k := s.core cv.die cv.core
  (s.coveThreads cv).all (fun e => !s.inIssue e.1 && !e.2.held && e.2.entry.isNone && !e.2.exiting)
    && !s.link.reqs.any (fun q => q.open && q.die == cv.die && q.launch == c.launch && q.cove == c.index)
    && !s.reports.any (fun y => y.die == cv.die && y.launch == c.launch && y.cove == c.index)
    && !s.link.transfers.any (fun t => t.ctx == c.ctx)
    && !k.copies.any (fun o => o.cove == cv) && !k.array.any (fun o => o.cove == cv)
    && !k.searches.any (fun o => o.cove == cv) && !k.samples.any (fun o => o.cove == cv)
    && !k.images.any (fun o => o.cove == cv)
    && !k.rays.any fun x => x.cove == cv && !x.rounds.isEmpty

/-- The checkpoint number that a cove's askers receive, as its recorded state (R360). -/
def State.answerAskers (s : State) (cv : CoveRef) (x : Context) : State :=
  x.askers.foldl (fun s a =>
    match s.thread? a.1, a.2 with
    | some t, some n =>
      if t.cove = cv then (s.touchReg a.1 n).modThread a.1 fun t => t.write n .w32 (ofNatQ (x.recorded + 1)) false else s
    | _, _ => s) s

/-- The virtual entry number of a cove's launch. -/
def State.launchNumber (s : State) (cv : CoveRef) (c : Cove) : Word :=
  ((s.entry? cv.die c.launch).map (·.number)).getD 0

/-- A thread that naps as its context stops: it is recorded as ready, at the boundary after its clause. -/
def State.endNap (s : State) (r : TRef) : State :=
  match s.thread? r with
  | none => s
  | some t =>
    match t.status with
    | .napping _ _ _ => (s.modThread r Thread.wake).takeDue r
    | _ => s

/-- The section of a cove taken, as reads of its code words and of its scratchpad (R22, R91, R193): their latent
errors are found, and an uncorrectable one of the scratchpad is consumed by the recording, which replays the
launch or faults the context (R349, log 113). -/
def State.takeSection (s : State) (cv : CoveRef) (c : Cove) : State :=
  let s1 := s.findErrors (Upset.ofCove cv c)
  let (s2, _, bad) := s1.readScratch cv.die cv.core c.scratchBase c.scratchSize
  let s3 := if bad then
      s2.draw.2.lateFault cv.die c.launch (.core cv.die cv.core) .uncorrectable
        ⟨0, 0, s2.freeTval, 0, 0, c.index, 0, 0⟩
    else s2
  s3.modCove cv fun z => { z with recorded := some (s3.coveSection cv c (s3.launchNumber cv c)) }

/-- A cove recorded (R361, step 5): its lost writes are faults due, its askers have their number, its
stash is written back, its rays park, its spilled keys stand in memory, and its section is taken. While a
granule that its stash must reach is in transfer, nothing happens yet. A thread that naps stands ready in the
section, so what is due at its boundary is taken (R352, R368). -/
def State.recordCove (s : State) (cv : CoveRef) (c : Cove) : State :=
  let s0 := ((s.coveThreads cv).map Prod.fst).foldl State.endNap s
  let s1 := ((s0.coveThreads cv).map Prod.fst).foldl State.reportWrites s0
  let s2 := match s1.ctx? c.ctx with
    | some x => s1.answerAskers cv x
    | none => s1
  match State.flushStash (c.partCount + 1) s2 cv c with
  | (_, false) => s
  | (s3, true) =>
    let s4 := s3.parkRays cv.die cv.core fun x => x.cove == cv
    let c1 := (s4.cove? cv).getD c
    let s5 := (List.range c1.crews).foldl (fun s i =>
      match s.crew? cv i with
      | some cr => s.spillCrew cv c1 i cr
      | none => s) (s4.findErrors (Upset.ofCove cv c1))
    s5.takeSection cv c1

/-- The place of a resident cove, as its bind record gave it (R334). -/
def placeOf (cv : CoveRef) (c : Cove) : Place where
  core := cv.core
  idx := cv.idx
  record := ofNatQ (c.index % 2 ^ 32 * 2 ^ 96 + c.launch % 2 ^ 16 * 2 ^ 80 + c.ctx % 2 ^ 12 * 2 ^ 68
    + c.vcore % 2 ^ 8 * 2 ^ 60 + c.bayPos % 2 ^ 4 * 2 ^ 56 + c.firstSlot % 2 ^ 5 * 2 ^ 51
    + (c.crews - 1) % 2 ^ 5 * 2 ^ 46 + 2 ^ 45 + c.scratchBase / 4096 % 2 ^ 7 * 2 ^ 9 + c.barBase % 2 ^ 9)

/-- A core without the work of a list of coves, and without a context's cached entries. The display core
keeps what band launches use. -/
def Core.forget (k : Core) (display : Bool) (ctx : Nat) (mine : CoveRef → Bool) : Core :=
  let k1 : Core := { k with
    copies := k.copies.filter fun o => !mine o.cove
    ended := k.ended.filter fun o => !mine o.1.cove
    array := k.array.filter fun o => !mine o.cove
    rays := k.rays.filter fun y => !mine y.cove
    searches := k.searches.filter fun o => !mine o.cove
    samples := k.samples.filter fun o => !mine o.cove
    images := k.images.filter fun o => !mine o.cove }
  if display then k1
  else { k1 with
    l1 := k1.l1.filter fun y => y.ctx != ctx
    dop := k1.dop.filter fun y => y.ctx != ctx
    dopMisses := k1.dopMisses.filter fun y => y.1 != ctx
    slots := k1.slots.filter fun v => bindCtx v.2 != ctx }

/-- What a context runs on a die removed: its coves, crews, threads and entries, with its entries of every
table of the die (R361, R323, R338). -/
def State.clearRun (s : State) (d : DieId) (ctx : Nat) : State :=
  let cs := (s.covesIn ctx).filter fun e => e.1.die == d
  let mine (cv : CoveRef) : Bool := cs.any fun e => e.1 == cv
  let es := s.entriesOf d ctx
  let s1 := (s.threads.filter fun e => mine e.2.cove).foldl (fun s e =>
    s.modCore e.1.die e.1.core fun k => k.leaveTide e.1) s
  let s2 : State := { s1 with
    threads := s1.threads.filter fun e => !mine e.2.cove
    crews := s1.crews.filter fun e => !mine e.1.1
    coves := s1.coves.filter fun e => !mine e.1
    link := { s1.link with reqs := s1.link.reqs.filter fun q => !es.any fun e => e.1 == q.launch && q.die == d } }
  s2.modDie d fun k => { k with
    entries := k.entries.filter fun e => e.2.ctx != ctx || e.2.band.isSome
    remaps := k.remaps.filter fun m => m.ctx != ctx
    cores := k.cores.map fun e => (e.1, e.2.forget (e.1 == Config.displayCore d) ctx mine) }

/-- A recorded cove of the context waits to be placed. -/
def Context.waits (x : Context) (number : Word) (index : Nat) : Bool :=
  x.waiting.any fun w => secLaunch w.bytes == number && secIndex w.bytes == index

/-- The poisoned sectors of a cove's scratchpad, by their first bytes in it. -/
def State.badScratch (s : State) (cv : CoveRef) (c : Cove) : List Nat :=
  ((sectorsOf c.scratchBase c.scratchSize).filter (s.core cv.die cv.core).badSectors.contains).map fun k =>
    max c.scratchBase (48 * k) - c.scratchBase

/-- The threads of a cove whose pending fault waits for the tret of their handler (R351). -/
def State.behindOf (s : State) (number : Word) (cv : CoveRef) (c : Cove) : List (Word × Nat × Nat × Nat) :=
  ((s.coveThreads cv).filter fun e => e.2.pending.isSome && e.2.due.isEmpty).map fun e =>
    (number, c.index, e.2.crew, e.1.lane)

/-- The context leaves its die (R361): the front end keeps what the image does not record. -/
def State.leaveDie (s : State) (ctx : Nat) (x : Context) : State :=
  let cs := s.covesIn ctx
  let es := s.entriesOf x.die ctx
  (s.clearRun x.die ctx).modCtx ctx fun c => { c with
    status := .preempted
    evict := false
    ckpt := none
    askers := []
    copies := []
    saved := es
    places := cs.map fun e => placeOf e.1 e.2
    blocks := (cs.map fun e => (s.launchNumber e.1 e.2, e.2.index, e.2.spillBlocks))
      ++ x.blocks.filter fun b => x.waits b.1 b.2.1
    behind := (cs.flatMap fun e => s.behindOf (s.launchNumber e.1 e.2) e.1 e.2)
      ++ x.behind.filter fun b => x.waits b.1 b.2.1
    bad := (cs.map fun e => (s.launchNumber e.1 e.2, e.2.index, s.badScratch e.1 e.2))
      ++ x.bad.filter fun b => x.waits b.1 b.2.1
    loose := (cs.flatMap fun e => ((x.copies.filter fun o => o.cove == e.1 && o.handle.isNone).map fun o =>
        (s.launchNumber e.1 e.2, e.2.index,
          { o with owner := { o.owner with slot := o.owner.slot - e.2.firstSlot } })))
      ++ x.waiting.flatMap fun w => w.loose.map fun o => (secLaunch w.bytes, secIndex w.bytes, o)
    waiting := [] }

/-- A leaf marked (R329): D clears and C is set. -/
def markLeaf (e : DWord) : DWord := (e &&& ~~~(0x80 : DWord)) ||| BitVec.twoPow 64 53

/-- The leaves of a context on a die that have D set marked, and its TLB entries of them dropped. -/
def State.markDie (s : State) (d : DieId) (ctx : Nat) : State :=
  let ls := (s.leaves d ctx).filter fun x => pteD x.leaf
  (ls.foldl (fun s x => s.writePhys d x.leafAt (markLeaf x.leaf)) s).dropTlbs d fun e =>
    e.ctx == ctx && ls.any fun x => x.base == e.base

/-- The Dukor-homed granules of leaves that a mark takes in. -/
def State.markedGranules (s : State) (ctx : Nat) : List Nat :=
  ((s.leaves .dukor ctx).filter fun x => pteD x.leaf).flatMap fun x =>
    x.granules.filterMap fun g => if s.dirOf .dukor g.2 = .home then some g.1 else none

/-- The launches that wait in the queues of a context's interface. -/
def State.waitingOf (s : State) (x : Context) : List (List Waiting) := (s.vi x.die x.vi).queues.map (·.waiting)

/-- Checkpoint n marked (R399, step 3), and its stream begun where the Dukor is the running die (R397). -/
def State.markCheckpoint (s : State) (ctx n : Nat) (x : Context) (image : List Byte × List Bool) : State :=
  let gs := s.markedGranules ctx
  ((s.markDie .craren ctx).markDie .dukor ctx).modCtx ctx fun c => { c with
    recorded := n
    asked := false
    stream := if x.die = .dukor then some ⟨n, gs, [], some image, image.1.length / 64, false, false⟩ else c.stream
    marks := (c.marks.filter fun e => n ≤ e.1 + 1) ++ [(n, s.waitingOf x)] }

/-- The context is stopped as a whole once every cove is recorded (R361, step 6) and no granule of it is in
transfer (R396): its image is written; a
checkpoint is marked; and it stays pre-empted, or is restored where it stood. -/
def State.finishStop (s : State) (ctx : Nat) : Except Stop State :=
  match s.ctx? ctx with
  | none => .ok s
  | some x =>
    if x.status != .stopping || s.link.transfers.any (fun t => t.ctx == ctx)
        || (s.covesIn ctx).any fun e => !e.2.complete && e.2.recorded.isNone then .ok s
    else
      let s1 := (s.covesIn ctx).foldl (fun s e =>
        if e.2.complete then s.takeSection e.1 e.2 else s) s
      let n := if (x.ckpt.isSome || x.asked) && x.stream.isNone && x.mirror.isSome then some (x.recorded + 1)
               else none
      match s1.writeImage ctx x (n.getD 0) with
      | .error e => .error e
      | .ok s2 =>
        let s3 := s2.leaveDie ctx x
        let s4 := match n with
          | some n => s3.markCheckpoint ctx n x (s1.image ctx x n)
          | none => s3
        if x.evict then .ok s4
        else .ok (s4.restoreOp ctx x.die (((s4.ctx? ctx).map (·.places)).getD []))

/-- PREEMPTION (R361). -/
def execPreemption (ctx : Nat) (s : State) : Host.Outcome State Fault Refusal :=
  attempt s ((s.beginStop ctx true false).finishStop ctx)

/-- PREEMPT_ACK_COMPLETE (R361, steps 4 to 6): a cove whose units have all acknowledged is recorded, and
after the last one the context is. -/
def execPreemptAckComplete (cv : CoveRef) (s : State) : Host.Outcome State Fault Refusal :=
  let s0 := s.finishCove cv
  match s0.cove? cv with
  | none => .next s0
  | some c =>
    match s0.ctx? c.ctx with
    | none => .next s0
    | some x =>
      if x.status != .stopping then .next s0
      else
        let s1 := if !c.complete && c.recorded.isNone && !c.stopping && s0.coveAcked cv c then s0.recordCove cv c
                  else s0
        attempt s1 (s1.finishStop c.ctx)

/-- CHECKPOINT (R399): without a mirror nothing is recorded (R360); while a checkpoint of the context is
still streamed the request waits for its end. -/
def State.checkpointOp (s : State) (ctx : Nat) : Except Stop State :=
  match s.ctx? ctx with
  | none => .ok s
  | some x =>
    if x.mirror.isNone then .ok s
    else if x.stream.isSome then .ok (s.modCtx ctx fun c => { c with asked := true })
    else (s.beginStop ctx false true).finishStop ctx

/-- CHECKPOINT (R399). -/
def execCheckpoint (ctx : Nat) (s : State) : Host.Outcome State Fault Refusal :=
  attempt s (s.checkpointOp ctx)

/-- A context that leaves the Craren for the Dukor (R397): its last image is kept as what a removal would
restore, in place of the commit. Its leaves on the Craren are marked as a checkpoint of the pre-empted context
marks them (R329), so that the Craren's pre-images are from now on those taken after that image. -/
def State.leaveCraren (s : State) (ctx : Nat) (image : List Byte × List Bool) : State :=
  let drop (k : Die) : Die := { k with pool := k.pool.filter fun p => p.ctx != ctx || p.launch.isSome }
  ((s.modDie .craren drop).markDie .craren ctx).modCtx ctx fun c => { c with
    left := some image
    leftMark := c.recorded
    marks := [(0, s.waitingOf c)]
    asked := c.mirror.isSome }

/-- A pre-empted context restored on the other die (R397), if that restore is not refused. -/
def State.migrateOp (s : State) (ctx : Nat) (places : List Place) : State :=
  match s.ctx? ctx with
  | none => s
  | some x =>
    if x.status != .preempted || s.link.mode != .paired || s.undocking (otherDie x.die) then s
    else
      match s.readImage' ctx x with
      | none => s
      | some im =>
        let d := otherDie x.die
        let s1 := if d = .dukor then s.leaveCraren ctx im else s
        (s1.restoreImage ctx d im.1 places).getD s

/-- MIGRATION (R397): the context is pre-empted, and once it is, restored on the other die. A protected
context never migrates (R428), and none goes to a Dukor that undocks (R295). -/
def execMigration (ctx : Nat) (places : List Place) (s : State) : Host.Outcome State Fault Refusal :=
  match s.ctx? ctx with
  | none => .next s
  | some x =>
    if x.keySlot.isSome || s.link.mode != .paired || s.undocking (otherDie x.die) then .next s
    else
      match (s.beginStop ctx true false).finishStop ctx with
      | .ok s1 => .next (s1.migrateOp ctx places)
      | .error (.halt f) => .fault f
      | .error _ => .next s

end Sys2Proof.Machine
end

