-- ==== Sys2Proof/Machine/Mirror.lean ====
section
/-! DEFINITION. The mirror of a context (R400, R401) and the streaming of a checkpoint to it (R399). -/

namespace Sys2Proof.Machine

/-! Where the parts of a mirror lie. Firmware lays the region out as R400 says: the commit record slots,
the table, two slot bitmaps, the slot pairs, and then two images (log 20). -/

def Mirror.bitmapBytes (m : Mirror) : Nat := align64 ((m.entries + 7) / 8)
def Mirror.bitmapAt (m : Mirror) (k : Nat) : Nat := align64 (128 + 16 * m.entries) + k * m.bitmapBytes
def Mirror.slotsAt (m : Mirror) : Nat := (m.bitmapAt 2 + 65535) / 65536 * 65536
def Mirror.slotAt (m : Mirror) (i : Nat) : Nat := m.slotsAt + 131072 * i
def Mirror.imagesAt (m : Mirror) : Nat := m.slotAt m.entries
def Mirror.imageRoom (m : Mirror) : Nat := (m.size - m.imagesAt) / 128 * 64
def Mirror.imageAt (m : Mirror) (k : Nat) : Nat := m.imagesAt + k * m.imageRoom

/-- Bytes of the memory that a mirror lies in. -/
def State.mirBytes (s : State) (m : Mirror) (a n : Nat) : List Byte :=
  memBytes (if m.host then s.hostBuffer else s.craren.dram) a n

/-- Bytes written to the Craren's memory at a physical address, with the tags of their chunks. -/
def State.craPut (s : State) (a : Nat) (bs : List Byte) (tags : List Bool) : State :=
  s.modDie .craren fun x => { x with
    dram := memPut x.dram a bs
    tags := (List.range tags.length).foldl
      (fun t i => if tags.getD i false then tagInsert t (a / 16 + i) else t) (tagClear x.tags a bs.length) }

/-- A write of the streamer into a mirror: into the Craren's memory, or by space 5 into the host's, which
holds no tags (R408). -/
def State.mirPut (s : State) (m : Mirror) (a : Nat) (bs : List Byte) (tags : List Bool) : State :=
  if m.host then { s with hostBuffer := memPut s.hostBuffer a bs } else s.craPut a bs tags

/-- A host buffer laid out by its driver as the mirror is (R408): commit record slots without a number, and a table
whose free entries name their slot pairs. -/
def State.layOut (s : State) (m : Mirror) : State :=
  let h0 := memPut s.hostBuffer m.base (List.replicate 128 0)
  { s with hostBuffer := (List.range m.entries).foldl (fun h i =>
      memPut h (m.base + 128 + 16 * i) (leBytes 8 0 ++ leBytes 8 (m.slotAt i))) h0 }

/-- The host buffer of a context's mirror laid out, where it has one. -/
def State.layOutHost (s : State) (ctx : Nat) : State :=
  match (s.ctx? ctx).bind (·.mirror) with
  | some m => if m.host then s.layOut m else s
  | none => s

/-- The link carries the stream of a mirror (R399, R408). -/
def State.mirrorUp (s : State) (m : Mirror) : Bool := s.link.mode == (if m.host then .laptop else .paired)

/-- A word of a mirror. -/
def State.mirWord (s : State) (m : Mirror) (a : Nat) : Nat := leNat (s.mirBytes m a 8)

/-! Commit records (R401). -/

/-- The number of a commit record slot, if the slot is valid. -/
def State.validCommit (s : State) (m : Mirror) (k : Nat) : Option Nat :=
  let w0 := s.mirWord m (m.base + 64 * k)
  let w7 := s.mirWord m (m.base + 64 * k + 56)
  if w0 / 2 ^ 48 = 1 ∧ w0 % 2 ^ 32 = w7 / 2 ^ 32 then some (w0 % 2 ^ 32) else none

/-- The committed checkpoint of a mirror: the valid slot with the larger number. -/
def State.committed (s : State) (m : Mirror) : Option (Nat × Nat) :=
  match s.validCommit m 0, s.validCommit m 1 with
  | some a, some b => some (if a < b then (1, b) else (0, a))
  | some a, none => some (0, a)
  | none, some b => some (1, b)
  | none, none => none

/-- Fields of a commit record in a slot. -/
def State.commitImage (s : State) (m : Mirror) (k : Nat) : Nat := s.mirWord m (m.base + 64 * k + 8) % 2 ^ 48
def State.commitUnits (s : State) (m : Mirror) (k : Nat) : Nat := s.mirWord m (m.base + 64 * k + 16) / 2 ^ 32
def State.commitBitmap (s : State) (m : Mirror) (k : Nat) : Nat := s.mirWord m (m.base + 64 * k + 24) % 2 ^ 48
def State.commitInUse (s : State) (m : Mirror) (k : Nat) : Nat := s.mirWord m (m.base + 64 * k + 32) / 2 ^ 32

/-- The bit of a mirror table entry in the committed bitmap, 0 where nothing is committed. -/
def State.committedBit (s : State) (m : Mirror) (i : Nat) : Bool :=
  match s.committed m with
  | some (k, _) => imgBit (s.mirBytes m (m.base + s.commitBitmap m k + i / 8) 1) 0 (i % 8)
  | none => false

/-! The mirror table (R400). -/

/-- The virtual granule of a valid entry. -/
def State.mirrorVa (s : State) (m : Mirror) (i : Nat) : Option Nat :=
  let w := s.mirWord m (m.base + 128 + 16 * i)
  if w % 2 = 1 then some (w % 2 ^ 55 / 2 ^ 16 * 2 ^ 16) else none

/-- The offset of slot 0 of an entry. -/
def State.mirrorSlot (s : State) (m : Mirror) (i : Nat) : Nat := s.mirWord m (m.base + 128 + 16 * i + 8) % 2 ^ 48

/-- The entry of a granule, or the first free one. -/
def State.mirrorEntry (s : State) (m : Mirror) (va : Nat) : Option Nat :=
  match (List.range m.entries).find? fun i => s.mirrorVa m i == some va with
  | some i => some i
  | none => (List.range m.entries).find? fun i => (s.mirrorVa m i).isNone

/-- Entries in use: firmware and the streamer fill the table from its start. -/
def State.mirrorInUse (s : State) (m : Mirror) : Nat :=
  ((List.range m.entries).filter fun i => (s.mirrorVa m i).isSome).length

/-! Versions (R399). -/

/-- The version n of a granule in a die's pool: its first pre-image taken after mark n, else its left
copy. -/
def Die.imageAt (x : Die) (ctx va n : Nat) : Option PreImage :=
  let ps := x.pool.filter fun p => p.ctx == ctx && p.va == va && p.launch.isNone && decide (n ≤ p.mark)
  match ps.find? fun p => !p.left with
  | some p => some p
  | none => ps.find? fun p => p.left

/-- The version n of a granule that was Dukor-homed at mark n: its bytes and tags. Its current contents are read
as any are, so latent errors are found (R193); a granule in transfer is waited for. -/
def State.versionOf (s : State) (ctx va n : Nat) : State × Except Stop (List Byte × List Bool) :=
  match s.dukor.imageAt ctx va n with
  | some p => (s, .ok (memBytes p.bytes 0 granuleSize, (List.range 4096).map fun i => p.tags.contains i))
  | none =>
    match s.placeOn (s.runDie ctx) ctx va with
    | .ok l =>
      let pa := granuleOf l.pa * granuleSize
      match s.sense l.home pa granuleSize with
      | (s1, some _) => (s1, .error (.trap .uncorrectable (dw va)))
      | (s1, none) => (s1, .ok (s1.homeBytes ctx l pa granuleSize,
          (List.range 4096).map fun i => s1.homeTag l.home (pa + 16 * i)))
    | .error e => (s, .error e)

/-- The pre-images of a granule for a mark dropped from a die: its stream write has its receipt. -/
def State.dropVersion (s : State) (d : DieId) (ctx va n : Nat) : State :=
  s.modDie d fun x => { x with pool := x.pool.filter fun p =>
    !(p.ctx == ctx && p.va == va && p.launch.isNone && !p.left && p.mark == n) }

/-! Streaming. -/

/-- The stream of a context changed. -/
def State.setStream (s : State) (ctx : Nat) (t : Option CkptStream) : State :=
  s.modCtx ctx fun c => { c with stream := t }

/-- One granule of a stream written into the slot that the committed bitmap does not select; without a
free entry the stream is abandoned (R400), and so it is where the granule cannot be corrected (R193, log 113). A
granule in transfer is waited for, and one that no leaf maps any more has nothing to write. -/
def State.streamGranule (s : State) (ctx : Nat) (m : Mirror) (t : CkptStream) (va : Nat) (rest : List Nat) :
    State :=
  match s.mirrorEntry m va with
  | none => s.setStream ctx none
  | some i =>
    match s.versionOf ctx va t.n with
    | (s1, .ok (bs, tags)) =>
      let at' := m.base + s.mirrorSlot m i + (if s.committedBit m i then 0 else 65536)
      let s2 := (s1.mirPut m at' bs tags).mirPut m (m.base + 128 + 16 * i) (leBytes 8 (va + 1)) []
      (s2.dropVersion .dukor ctx va t.n).setStream ctx (some { t with granules := rest, written := t.written ++ [va] })
    | (s1, .error (.trap .uncorrectable _)) => s1.setStream ctx none
    | (s1, .error .hold) => s1
    | (s1, .error _) => s1.setStream ctx (some { t with granules := rest })

/-- The image of a stream written; one that the mirror has no room for is abandoned. -/
def State.streamImage (s : State) (ctx : Nat) (m : Mirror) (t : CkptStream) (im : List Byte × List Bool) :
    State :=
  let next := some { t with image := none }
  if m.imageRoom < im.1.length then s.setStream ctx none
  else (s.mirPut m (m.base + m.imageAt (t.n % 2)) im.1 im.2).setStream ctx next

/-- The slot bitmap of a stream: the new slot of each granule it wrote, and the committed bit of every
other entry (R400). -/
def State.streamBitmap (s : State) (m : Mirror) (t : CkptStream) : List Byte :=
  bitBytes m.bitmapBytes (fun i =>
    decide (i < m.entries) && (s.committedBit m i !=
      (match s.mirrorVa m i with
        | some va => t.written.contains va
        | none => false))) 0

/-- Words 0 to 6 of the commit record with its bitmap (R401). Word 7 of the slot names no number until
the commit. -/
def State.streamRecord (s : State) (ctx : Nat) (m : Mirror) (t : CkptStream) : State :=
  let next := some { t with recordDone := true }
  let k := t.n % 2
  let words := [2 ^ 48 + t.n % 2 ^ 32, m.imageAt k, t.units * 2 ^ 32, m.bitmapAt k,
    s.mirrorInUse m * 2 ^ 32, 0, 0]
  ((s.mirPut m (m.base + m.bitmapAt k) (s.streamBitmap m t) []).mirPut m (m.base + 64 * k)
    (words.flatMap (leBytes 8)) []).setStream ctx next

/-- CHECKPOINT_STREAM (R399, step 5): the streamer's next write, a granule, the image, or words 0 to 6 of
the commit record; to a host buffer then the zero-length read, which completes once every write before it has
been performed, as all are here when they are issued (R408, log 20). -/
def execCheckpointStream (ctx : Nat) (s : State) : Host.Outcome State Fault Refusal :=
  match s.ctx? ctx with
  | none => .next s
  | some x =>
    match x.mirror, x.stream with
    | some m, some t =>
      if !s.mirrorUp m then .next s
      else
        match t.granules, t.image with
        | va :: rest, _ => .next (s.streamGranule ctx m t va rest)
        | [], some im => .next (s.streamImage ctx m t im)
        | [], none => .next (if !t.recordDone then s.streamRecord ctx m t
            else if m.host then s.setStream ctx (some { t with fenced := true }) else s)
    | _, _ => .next s

/-- What the commit of n releases (R399, step 6): every Craren pre-image taken before mark n, and the
left copies that the stream named or that only an earlier mark needed. -/
def State.releaseVersions (s : State) (ctx n : Nat) (written : List Nat) : State :=
  let keep (p : PreImage) : Bool := p.ctx != ctx || p.launch.isSome
    || (decide (n ≤ p.mark) && !(p.left && written.contains p.va))
  (s.modDie .craren fun x => { x with pool := x.pool.filter keep }).modDie .dukor fun x =>
    { x with pool := x.pool.filter keep }

/-- COMMIT_RECORD_WRITE (R401): word 7 is performed, and the Craren releases what it held for the
checkpoint before. A commit of the checkpoint that follows a migration ends the use of the image that the
context left with (R397). In a host buffer the write follows the zero-length read of the stream (R408). -/
def execCommitRecordWrite (ctx : Nat) (s : State) : Host.Outcome State Fault Refusal :=
  match s.ctx? ctx with
  | none => .next s
  | some x =>
    match x.mirror, x.stream with
    | some m, some t =>
      if !t.recordDone || (m.host && !t.fenced) || !s.mirrorUp m then .next s
      else
        let s1 := s.mirPut m (m.base + 64 * (t.n % 2) + 56) (leBytes 8 (t.n % 2 ^ 32 * 2 ^ 32)) []
        .next ((s1.releaseVersions ctx t.n t.written).modCtx ctx fun c => { c with
          left := if c.leftMark < t.n then none else c.left })
    | _, _ => .next s

/-- COMMIT_ACK (R401): the streaming die learns that n is committed, and the stream ends. -/
def execCommitAck (ctx : Nat) (s : State) : Host.Outcome State Fault Refusal :=
  match s.ctx? ctx with
  | none => .next s
  | some x =>
    match x.mirror, x.stream with
    | some m, some t =>
      if t.recordDone && s.mirrorUp m && s.validCommit m (t.n % 2) == some t.n then
        .next (s.modCtx ctx fun c => { c with committed := t.n, stream := none })
      else .next s
    | _, _ => .next s

end Sys2Proof.Machine
end

