-- ==== Sys2Proof/Machine/Link.lean ====
section
/-! DEFINITION. What crosses the link and the host attachment port: forwarded accesses and their ends
(R230, R231, R234, R394), ownership transfers (R395), and line packing (R410). -/

namespace Sys2Proof.Machine

/-! Requests. -/

/-- A request by its number. -/
def State.req (s : State) (id : Nat) : Option Req := s.link.reqs.find? fun q => q.id == id

/-- A request in a new phase. -/
def State.setReq (s : State) (q : Req) : State :=
  { s with link := { s.link with reqs := s.link.reqs.map fun x => if x.id = q.id then q else x } }

/-- A thread that will find its request's end by itself: it waits for it at its slot, or it runs a clause,
or is held in one, where a fence may wait for the write (R230). -/
def State.readsEnd (s : State) (q : Req) : Bool :=
  q.wait || (q.writes && !q.global
    && (s.inIssue q.thread || ((s.thread? q.thread).map (·.held)).getD false))

/-- A request that fails (R230, R240, R257): its thread finds it where it is held or at its clause's end,
or it is a fault report that arrives at once. -/
def State.failReq (s : State) (q : Req) (cause : Cause) (tval : DWord) : State :=
  if s.readsEnd q then s.setReq { q with phase := .failed cause tval }
  else
    ((s.dropReq q).deliver ⟨q.die, some q.thread, ⟨q.faultKind, cause, tval, q.clause, q.slot, q.id,
      s.lossAt q cause tval⟩, q.launch, q.cove, q.crew, q.lane⟩).finishCoves q.die

/-- A request whose result has come back: a waiting instruction finds it at its slot, a destination is
written, and otherwise it is gone (R234). -/
def State.endReq (s : State) (q : Req) (v : Quad) (tag : Bool) : State :=
  if q.wait then s.setReq { q with phase := .done, data := v, tag := tag }
  else
    match q.kind with
    | .load (some (n, w)) t => ((s.dropReq q).land q.thread n w (loadValue t v) tag).finishCoves q.die
    | .atom _ _ _ (some (n, w)) => ((s.dropReq q).land q.thread n w v false).finishCoves q.die
    | _ => (s.dropReq q).finishCoves q.die

/-- The agent of a request at the dies' homes: the issuing core, whose L1 it updates (R192); space 6 is
the context's pages on the peer (R198). -/
def Req.agent (q : Req) : Agent :=
  if q.space = 6 then peerAgent q.die q.ctx q.system
  else ⟨q.die, if q.space = 4 then none else some q.thread.core, q.ctx, some q.launch, q.system, false⟩

/-- A request that the link carries: the host attachment port takes the Craren's own of space 5 (R231). -/
def Req.linked (q : Req) : Bool := !(q.space == 5 && q.die == .craren)

/-- An earlier request keeps this one in its order: on the link a posted write everything behind it from its
die, by the ordering rules of virtual channel 0 (R230); at the host attachment port the writes of a thread
(R231); and one of the same thread any to the same bytes (R205). Of the accesses that their threads wait for,
the one asked for first goes first. -/
def State.blocked (s : State) (q : Req) : Bool :=
  s.link.reqs.any fun x => decide (x.id < q.id) && x.phase == .queued && x.die == q.die
    && ((x.posted && x.linked && q.linked)
      || (x.thread == q.thread && x.space == 5 && q.space == 5 && x.posted && q.posted)
      || ((x.thread == q.thread || (x.wait && q.wait && x.ctx == q.ctx && !(q.kind == .acquire && !x.posted)))
        && (x.space == 5) == (q.space == 5) && overlap x.at x.size q.at q.size))

/-- The cause of a fault that the home's translation reports (R240). -/
def Req.homeFault (q : Req) : Stop → Option (Cause × DWord)
  | .trap .pageAbsent a => some (.pageAbsent, a - dw q.base)
  | .trap .uncorrectable a => some (.uncorrectable, a - dw q.base)
  | .trap _ a => some (match q.kind with
      | .load _ _ => .loadFault
      | .acquire => .loadFault
      | .fill cause => cause
      | _ => .storeFault, a - dw q.base)
  | _ => none

/-- Bytes of a request written at their home. -/
def State.putReq (s : State) (q : Req) (ls : List Loc) (bs : List Byte) (tag : Bool) : State :=
  match ls with
  | [l] => s.writeLoc q.agent l bs (tag && pteT l.leaf)
  | _ => s.writeLocs q.agent bs ls

/-- A request performed, with what it read. -/
def State.performed (s : State) (q : Req) (v : Quad) (tag : Bool) : State :=
  s.setReq { q with phase := .performed, data := v, tag := tag }

/-- A request of global memory, or of space 6, performed at its home (R394, R234). -/
def State.serveHome (s : State) (q : Req) (ls : List Loc) : State :=
  let g := q.agent
  match q.kind with
  | .store bs tag => (s.putReq q ls bs tag).performed q 0 false
  | .release bs => (s.putReq q ls bs false).performed q 0 false
  | .atom aop t x _ =>
    match ls with
    | [l] =>
      if !pteR l.leaf then s.failReq q .storeFault (dw q.va)
      else
        match s.atomHome g l aop t x with
        | (s1, .inl old) => s1.performed q (ofNatQ old) false
        | (s1, .inr p) => s1.failReq q .uncorrectable (dw p)
    | _ => s.performed q 0 false
  | _ =>
    match (match g.core, q.kind with
      | some c, .load _ _ =>
        let (s1, v) := s.loadL1 g c q.va q.size ls
        (s1, v.bytes, v.tag, v.bad)
      | _, _ =>
        let (s1, bs, bad) := s.readLocs g ls
        (s1, bs, (ls.flatMap s1.locTags).getD 0 false, bad)) with
    | (s1, _, _, some x) => s1.failReq q .uncorrectable (dw (x - q.base))
    | (s1, bs, tag, none) =>
      let s2 := if g.core.isNone || q.kind == .acquire then
          s1.dropL1 q.die q.thread.core q.ctx q.at q.size
        else s1
      s2.performed q (quadOf bs) (q.tag && tag)

/-- The window of a cove that a space 1 request reaches, with its part's state; none where the window has
gone meanwhile. -/
def State.requestWindow (s : State) (q : Req) : Option (CoveRef × Cove × Nat × Window) :=
  (s.thread? q.thread).bind fun t => (s.cove? t.cove).bind fun c =>
    (c.windowAt q.va).map fun x => (t.cove, c, x.1, x.2)

/-- The end of a step over a stash part for a request. -/
def State.endPart (q : Req) (done : State → State) : State × Option PartStop → Option (Except Fault State)
  | (s, none) => some (.ok ((done s).performed q 0 false))
  | (s, some (.poison a _)) => some (.ok (s.failReq q .uncorrectable (dw a)))
  | (s, some (.stop (.trap cause a))) => some (.ok (s.failReq q cause a))
  | (_, some (.stop (.halt f))) => some (.error f)
  | (_, some (.stop .hold)) => none

/-- A request of space 1: a part filled or written back, or a store or atom that writes through, on the
stash copy and at the home in one step (R222, R233, R250). Where its window has gone, the instruction
starts again. -/
def State.serveStash (s : State) (q : Req) (ls : List Loc) : Option (Except Fault State) :=
  match s.requestWindow q with
  | none => some (.ok (s.dropReq q))
  | some (cr, c, i, w) =>
    match q.kind with
    | .fill cause => State.endPart q id (s.fillPart none q.agent cr c i w cause q.va)
    | .clean inval =>
      if w.part q.va = some .dirty then
        State.endPart q (fun s => s.setPart cr i q.va (if inval then none else some .clean))
          (s.writeBack none q.system cr c w q.va inval)
      else some (.ok (s.dropReq q))
    | .store bs tag =>
      some (.ok (((s.stashWrite cr c true q.va bs tag).putReq q ls bs tag).performed q 0 false))
    | .atom aop t x _ =>
      match s.readScratch cr.die cr.core (w.at c q.va) q.size with
      | (s1, _, true) => some (.ok (s1.failReq q .uncorrectable (dw q.va)))
      | (s1, bs, false) =>
        let s2 := match atomNew aop t (leNat bs) x with
          | some v => (s1.stashWrite cr c true q.va (leBytes q.size v) false).putReq q ls (leBytes q.size v) false
          | none => s1
        some (.ok (s2.performed q (quadOf bs) false))
    | _ => some (.ok (s.dropReq q))

/-- A request performed at its home (R394, R234); none while a granule of it is in transfer. -/
def State.serve (s : State) (q : Req) : Option (Except Fault State) :=
  match s.locateAll q.agent (match q.kind with
      | .load _ _ => .read
      | .acquire => .read
      | .fill _ => .read
      | _ => .write) (granuleParts q.at q.size) with
  | .error .hold => none
  | .error (.halt f) => some (.error f)
  | .error e => (q.homeFault e).map fun x => .ok (s.failReq q x.1 x.2)
  | .ok ls => if q.space = 1 then s.serveStash q ls else some (.ok (s.serveHome q ls))

/-- FORWARDED_ACCESS (R394): a request that crosses the link is performed at its home. -/
def execForwardedAccess (id : Nat) (s : State) : Host.Outcome State Fault Refusal :=
  match s.req id with
  | none => .next s
  | some q =>
    if q.phase != .queued || q.space == 5 || !(s.link.inbound (otherDie q.die)).contains q || s.blocked q then
      .next s
    else
      match s.serve q with
      | none => .next s
      | some (.ok s1) => .next s1
      | some (.error f) => .fault f

/-- PEER_WRITE_ACKNOWLEDGEMENT (R230): the acknowledgement of a write performed at the peer arrives. -/
def execPeerWriteAcknowledgement (id : Nat) (s : State) : Host.Outcome State Fault Refusal :=
  match s.req id with
  | none => .next s
  | some q =>
    if q.posted && q.phase == .performed && q.space != 5 then .next (s.endReq q 0 false)
    else .next s

/-- NONPOSTED_COMPLETION (R230, R231): the completion of a request that reads. Data from the peer is what
its home read; data from the host is the completion's own. An error status of the host is a fault. -/
def execNonpostedCompletion (id : Nat) (failed : Bool) (data : Quad) (s : State) :
    Host.Outcome State Fault Refusal :=
  match s.req id with
  | none => .next s
  | some q =>
    if q.posted then .next s
    else if q.space = 5 then
      if q.phase != .queued then .next s
      else if failed then
        .next (s.failReq q (match q.kind with | .load _ _ => .loadFault | _ => .storeFault) (dw q.va))
      else .next (s.endReq q (ofNatQ (data.toNat % 2 ^ (8 * q.size))) false)
    else if q.phase = .performed then .next (s.endReq q q.data q.tag)
    else .next s

/-- LINK_RECEIPT (R234): a posted write of the Dukor to space 5 is performed. -/
def execLinkReceipt (id : Nat) (s : State) : Host.Outcome State Fault Refusal :=
  match s.req id with
  | none => .next s
  | some q =>
    if q.posted && q.space == 5 && q.die == .dukor && q.phase == .queued && !s.blocked q then
      .next ((s.dropReq q).wakeOthers.finishCoves q.die)
    else .next s

/-- HOST_WRITE_ACK (R231): the application processor acknowledges a store of the Craren to space 5. -/
def execHostWriteAck (id : Nat) (failed : Bool) (s : State) : Host.Outcome State Fault Refusal :=
  match s.req id with
  | none => .next s
  | some q =>
    if q.posted && q.space == 5 && q.die == .craren && q.phase == .queued && !s.blocked q then
      if failed then .next (s.failReq q .storeFault (dw q.va))
      else .next ((s.dropReq q).wakeOthers.finishCoves q.die)
    else .next s

/-! Ownership transfers (R395). -/

/-- The transfer of a granule to a die. -/
def State.transferOf (s : State) (d : DieId) (ctx va : Nat) : Option Transfer :=
  s.link.transfers.find? fun t => t.requester == d && t.ctx == ctx && t.va == granuleOf va * granuleSize

/-- TRANSFER_REQUEST (R395, step 1): a non-home die asks for a granule; a request for one that is already
asked for merges. -/
def execTransferRequest (die : DieId) (ctx va : Nat) (s : State) : Host.Outcome State Fault Refusal :=
  if s.link.mode != .paired || (s.transferOf die ctx va).isSome then .next s
  else
    match s.placeOn die ctx va with
    | .error (.halt f) => .fault f
    | .error _ => .next s
    | .ok l =>
      match l.y with
      | some y => .next (s.requestTransfer die ctx va l.x y)
      | none => .next s

/-- TRANSFER_DATA (R395, steps 2 and 3): the old home has performed what it accepted, and its data, tags
and leaf bits make the requester the home. -/
def execTransferData (die : DieId) (ctx va : Nat) (s : State) : Host.Outcome State Fault Refusal :=
  match s.transferOf die ctx va with
  | none => .next s
  | some t =>
    if t.step != 0 || s.link.mode != .paired then .next s
    else
      let o := otherDie die
      match s.walk die ctx .write t.va, s.walk o ctx .write t.va with
      | .ok x, .ok y =>
        let s1 := (s.sendGranule die ctx x y t.va).setDir o y.pa .transfer
        .next { s1 with link := { s1.link with
          transfers := s1.link.transfers.map fun k => if k = t then { t with step := 1 } else k } }
      | .error (.halt f), _ => .fault f
      | _, .error (.halt f) => .fault f
      | _, _ => .next s

/-- TRANSFER_ACK (R395, step 4): the old home becomes a peer frame and drops its replicas. -/
def execTransferAck (die : DieId) (ctx va : Nat) (s : State) : Host.Outcome State Fault Refusal :=
  match s.transferOf die ctx va with
  | none => .next s
  | some t =>
    if t.step != 1 || s.link.mode != .paired then .next s
    else
      let o := otherDie die
      let s1 := (s.setDir o t.oldPa .peer).modDie o fun k =>
        k.loseReplicas none fun r => r.touches ctx (granuleOf va * granuleSize) granuleSize
      .next { s1 with link := { s1.link with transfers := s1.link.transfers.erase t } }

/-- REPLICA_INVALIDATION (R208): a read replica leaves the L2 that holds it. -/
def execReplicaInvalidation (die : DieId) (idx : Nat) (s : State) : Host.Outcome State Fault Refusal :=
  .next (s.modDie die fun x => match x.replicas[idx]? with
    | some r => x.loseReplicas none (· == r)
    | none => x)

/-! Line packing (R410). -/

/-- Word i of a packed line's body, and the bytes the body takes. -/
def packedWord (mode : Nat) (wide : Bool) (body : List Byte) (i : Nat) : Nat :=
  let w (o n : Nat) : Nat := leNat ((body.drop o).take n)
  match mode with
  | 0 => 0
  | 1 => w 0 4
  | 2 =>
    let delta : Int := if wide then (BitVec.ofNat 16 (w (4 + 2 * i) 2)).toInt
                       else (BitVec.ofNat 8 (w (4 + i) 1)).toInt
    (BitVec.ofInt 32 ((w 0 4 : Int) + delta)).toNat
  | _ => w (4 * i) 4

def packedBody (mode : Nat) (wide : Bool) : Nat :=
  match mode with
  | 0 => 0
  | 1 => 4
  | 2 => if wide then 100 else 52
  | _ => 192

/-- One packed line: its 192 bytes, its tags and the rest; none where it is malformed. -/
def unpackLine (bs : List Byte) : Option (List Byte × List Bool × List Byte) :=
  match bs with
  | [] => none
  | h :: rest =>
    let mode := h.toNat / 64
    let wide := h.getLsbD 5
    let tagged := h.getLsbD 4
    let mask := if tagged then leNat (rest.take 2) else 0
    let after := if tagged then rest.drop 2 else rest
    let n := packedBody mode wide
    if h.toNat % 16 ≠ 0 ∨ (wide ∧ mode ≠ 2) ∨ (tagged ∧ rest.length < 2) ∨ 4096 ≤ mask ∨ after.length < n then none
    else
      some ((List.range 48).flatMap (fun i => leBytes 4 (packedWord mode wide (after.take n) i)),
        (List.range 12).map fun i => mask.testBit i, after.drop n)

/-- The lines of a packet; none where their count disagrees with its size. -/
def unpackLines : Nat → List Byte → Option (List (List Byte × List Bool))
  | 0, bs => if bs.length < 4 ∧ bs.all (· == 0) then some [] else none
  | n + 1, bs =>
    match unpackLine bs with
    | none => none
    | some (l, t, rest) => (unpackLines n rest).map fun ls => (l, t) :: ls

/-- Whether deltas of a width from a base reproduce a line of words. -/
def deltasFit (bits : Nat) (base : Word) (ws : List Word) : Bool :=
  ws.all fun w => decide ((BitVec.ofInt bits (w - base).toInt).toInt = (w - base).toInt)

/-- A base from which deltas of a width reproduce a line: its first word where that is one, else one that makes
some word's delta the least. -/
def deltaBase (bits : Nat) (ws : List Word) : Option Word :=
  ((ws.take 1) ++ ws.map (· + BitVec.ofNat 32 (2 ^ (bits - 1)))).find? fun b => deltasFit bits b ws

/-- The words of a line. -/
def lineWords (bs : List Byte) : List Word :=
  (List.range 48).map fun i => BitVec.ofNat 32 (leNat ((bs.drop (4 * i)).take 4))

/-- A line packed in the shortest mode that reproduces it, the lower mode on a tie (R410). -/
def packLine (bs : List Byte) (tags : List Bool) : List Byte :=
  let ws := lineWords bs
  let t := if tags.any id then 16 else 0
  let mask := if tags.any id then bitBytes 2 (fun i => tags.getD i false) 0 else []
  let delta (base : Word) (n : Nat) : List Byte := leBytes 4 base.toNat ++ ws.flatMap fun w => leBytes n (w - base).toNat
  if ws.all (· == 0) then BitVec.ofNat 8 t :: mask
  else if ws.all (· == ws.headD 0) then BitVec.ofNat 8 (64 + t) :: (mask ++ leBytes 4 (ws.headD 0).toNat)
  else
    match deltaBase 8 ws, deltaBase 16 ws with
    | some b, _ => BitVec.ofNat 8 (128 + t) :: (mask ++ delta b 1)
    | none, some b => BitVec.ofNat 8 (128 + 32 + t) :: (mask ++ delta b 2)
    | none, none => BitVec.ofNat 8 (192 + t) :: (mask ++ bs)

/-- The packed lines of one packet, one after another and padded with zeros to a multiple of 4 bytes (R410). -/
def packLines (ls : List (List Byte × List Bool)) : List Byte :=
  let bs := ls.flatMap fun l => packLine l.1 l.2
  bs ++ List.replicate ((4 - bs.length % 4) % 4) 0

/-- The lines of a packet written into the DRAM of the die that receives it. -/
def State.putLines (s : State) (d : DieId) (pa : Nat) : List (List Byte × List Bool) → State
  | [] => s
  | (bs, tags) :: rest =>
    ((s.modDie d fun x => { x with
      dram := memPut x.dram pa bs
      tags := (List.range 12).foldl
        (fun t i => if tags.getD i false then tagInsert t (pa / 16 + i) else t) (tagClear x.tags pa 192) }).wakeDram
          d pa 192).putLines d (pa + 192) rest

end Sys2Proof.Machine
end

