-- ==== Sys2Proof/Machine/Scanout.lean ====
section
/-! DEFINITION. The scan-out engine (R411 to R427): the registers of a head, its line counter, band
launches, the choice of a level at each guard line, the fill of a band by the fixed block, and the
relay of a Craren's head 2. -/

namespace Sys2Proof.Machine

/-! Registers (R412). -/

def Head.lead (h : Head) : Nat := bitsOf h.ctl 16 8
def Head.guardLines (h : Head) : Nat := bitsOf h.ctl 8 8
def Head.historyValid (h : Head) : Bool := h.ctl.getLsbD 3
def Head.relay (h : Head) : Bool := h.ctl.getLsbD 2
def Head.enabled (h : Head) : Bool := h.ctl.getLsbD 0

/-- An address register of a head (R412): HLAUNCH, HWIN, HINPUT, HINRDY, HMV, HMVRDY, HHIST. -/
def Head.addr (h : Head) (i : Nat) : Nat := (h.addrs.getD i 0).toNat % 2 ^ 55

/-- A sticky bit of HSTAT set: 4 config error, 3 plane fault, 2 late line, 1 relay underrun, 0 queue
overflow. -/
def Head.flag (h : Head) (b : Nat) : Head := { h with stat := bitPut h.stat b true }

/-- The bits of HCTL that a write keeps. -/
def ctlKept (v : DWord) : DWord := v &&& 0xFFFF0D

/-- The geometry checks of R413 on HCTL and HGEO. -/
def geometryOk (ctl geo : DWord) : Bool :=
  let t := bitsOf geo 48 16
  let hh := bitsOf geo 32 16
  let w := bitsOf geo 16 16
  let g := bitsOf ctl 8 8
  let l := bitsOf ctl 16 8
  w % 16 == 0 && hh % 16 == 0 && decide (16 ≤ w) && decide (w ≤ 8192) && decide (16 ≤ hh)
    && decide (hh ≤ 8192) && decide (hh + 16 ≤ t) && decide (g + l < t) && decide (2 ≤ g)
    && decide (g ≤ 64) && decide (l ≤ 48)

/-- The reserved bits of an address register are zero. -/
def addressOk (v : DWord) : Bool := bitsOf v 55 9 == 0

/-- Another head of the die relays. -/
def Die.relays (x : Die) (n : Nat) : Bool := x.heads.any fun e => e.1 != n && e.2.enabled && e.2.relay

/-- Whether a write of HCTL that sets enable is accepted (R413, R425): with the geometry in force and with the
one that the next wrap brings. -/
def State.enableOk (s : State) (d : DieId) (n : Nat) (h : Head) (v : DWord) : Bool :=
  geometryOk v h.geo && (h.newGeo.map (geometryOk v)).getD true && h.addrs.all addressOk
    && (!v.getLsbD 2 || (d == .dukor && s.link.mode == .paired && !(s.die d).relays n))

/-! The band window. -/

/-- The image descriptor record of a band buffer (R415). -/
def bufferRecord (h : Head) (i : Nat) : List Byte :=
  let a := h.window.1 + 65536 + 64 * h.width * i
  leBytes 16 (windowCap (permWrite + permStoreCap) a (64 * h.width)).toNat
    ++ leBytes 16 (4 * h.width * 2 ^ 32 + 15 * 2 ^ 16 + (h.width - 1))

/-- The agent of a head in its display context. -/
def headAgent (d : DieId) (ctx : Nat) : Agent := ⟨d, none, ctx, none, false, true⟩

/-- The display context of a head (R411). -/
def State.displayOf (s : State) (d : DieId) (n : Nat) : Option Nat := (s.die d).displayOf (s.head d n)

/-- The head writes the two records of its window, tagged (R415); its writes need no write permission.
While a granule of the window is in transfer they are still to be made. -/
def State.writeRecords (s : State) (d : DieId) (n : Nat) : State :=
  let h := s.head d n
  let s1 := s.modHead d n fun h => { h with recordsDue := false }
  match s.displayOf d n with
  | none => s1
  | some ctx =>
    match s.locateAll (headAgent d ctx) .read (granuleParts h.window.1 64) with
    | .ok ls => s1.writeTagged (headAgent d ctx) (bufferRecord h 0 ++ bufferRecord h 1)
        [true, false, true, false] ls
    | .error .hold => s.modHead d n fun h => { h with recordsDue := true }
    | .error _ => s1.modHead d n (Head.flag · 3)

/-! Lines. -/

/-- The band after a band. -/
def Head.after (h : Head) (x : Nat × Nat) : Nat × Nat :=
  if x.2 + 1 < h.bandCount then (x.1, x.2 + 1) else (x.1 + 1, 0)

/-- The sequence number of a band of a frame (R414). -/
def Head.seqOf (h : Head) (x : Nat × Nat) : Nat := x.1 * h.bandCount + x.2

/-- The first line of a band (R414). -/
def Head.bandLine (h : Head) (x : Nat × Nat) : Nat := x.1 * h.total + 16 * x.2

/-- The launch line and the guard line of a band have come (R414). -/
def Head.launchDue (h : Head) : Bool :=
  h.enabled && !h.relay && decide (h.bandLine h.nextLaunch ≤ h.now + h.guardLines + h.lead)
def Head.guardDue (h : Head) : Bool :=
  h.enabled && !h.relay && decide (h.bandLine h.nextGuard ≤ h.now + h.guardLines)

/-- A head stops (R426): its band launches are cancelled and it appends nothing further. -/
def State.stopHead (s : State) (d : DieId) (n : Nat) : State :=
  let s1 := ((s.head d n).bands.map Prod.snd).foldl (fun s e => s.cancelEntry d e) s
  s1.modHead d n fun h => { h with
    ctl := h.ctl &&& ~~~(1 : DWord)
    stopping := false
    bands := []
    results := []
    fills := []
    sends := []
    arrivals := []
    inbound := [] }

/-- A stop at the end of the current band that no write of HCTL takes back: that of a Craren's head 2 while its pair
undocks (R295, R426). -/
def State.undocksHead (s : State) (d : DieId) (n : Nat) : Bool :=
  d == .craren && n == 2 && s.link.draining && s.link.mode == .paired

/-- An enabled head starts: its counter stands at H of frame 0, whose bands have passed (R413). -/
def Head.start (h : Head) (v : DWord) : Head :=
  { h with
    ctl := ctlKept v
    line := h.height
    frame := 0
    stopping := false
    bands := []
    results := []
    nextLaunch := (1, 0)
    nextGuard := (1, 0)
    fills := []
    sends := []
    arrivals := []
    inbound := [] }

/-- A write of HCTL (R412, R413). Its other fields take effect at once (log 112); of an enabled head values that
fail the checks are not taken, also with the write that clears enable, which stops the head at the end of its band
all the same. -/
def State.writeCtl (s : State) (d : DieId) (n : Nat) (v : DWord) : State :=
  let h := s.head d n
  let ok := s.enableOk d n h v
  let fail (h : Head) : Head := h.flag 4
  if h.enabled then
    let stop := !v.getLsbD 0 || s.undocksHead d n
    if ok then s.modHead d n fun h => { h with ctl := ctlKept v ||| 1, stopping := stop }
    else s.modHead d n fun h => fail { h with stopping := h.stopping || stop }
  else if !v.getLsbD 0 then s.modHead d n fun h => { h with ctl := ctlKept v }
  else if !ok then s.modHead d n fun h => fail { h with ctl := ctlKept v &&& ~~~(1 : DWord) }
  else (s.modHead d n fun h => { h.start v with stopping := s.undocksHead d n }).writeRecords d n

/-- HCTL_WRITE (R412, R413). -/
def execHctlWrite (die : DieId) (head : Nat) (v : DWord) (s : State) : Host.Outcome State Fault Refusal :=
  if 1 ≤ head ∧ head ≤ Config.heads die then .next (s.writeCtl die head v) else .next s

/-- HSTAT_WRITE (R412): each 1 written clears its sticky bit. -/
def execHstatWrite (die : DieId) (head : Nat) (v : DWord) (s : State) : Host.Outcome State Fault Refusal :=
  if 1 ≤ head ∧ head ≤ Config.heads die then
    .next (s.modHead die head fun h => { h with stat := h.stat &&& ~~~(v.setWidth 5) })
  else .next s

/-- HQUEUE_READ (R294, R412): the read removes the oldest entry. -/
def execHqueueRead (die : DieId) (head : Nat) (s : State) : Host.Outcome State Fault Refusal :=
  if 1 ≤ head ∧ head ≤ Config.heads die then
    .next (s.modHead die head fun h => { h with queue := h.queue.drop 1 })
  else .next s

/-- The value that a read of HQUEUE returns (R412). -/
def Head.queueFront (h : Head) : Word := h.queue.headD 0xFFFFFFFF

/-- The value that a read of a head's register returns, by its offset (R412). -/
def Head.readReg (h : Head) (offset : Nat) : DWord :=
  match offset with
  | 0x00 => h.ctl
  | 0x08 => h.geo
  | 0x48 => BitVec.ofNat 64 (h.frame % 2 ^ 32 * 2 ^ 32 + h.line % 2 ^ 16 * 2 ^ 16 + h.stat.toNat)
  | 0x50 => h.queueFront.setWidth 64
  | _ => h.addrs.getD (offset / 8 - 2) 0

/-- A write of HGEO or an address register (R413): at once while the head is off, in place of one that still
waited for a wrap; else at the next wrap, if it passes the checks. -/
def State.writeHeadReg (s : State) (d : DieId) (n offset : Nat) (v : DWord) : State :=
  let h := s.head d n
  if offset = 8 then
    let g := v &&& 0xFFFFFFFFFFFF0000
    if !h.enabled then s.modHead d n fun h => { h with geo := g, newGeo := none }
    else if geometryOk h.ctl g then s.modHead d n fun h => { h with newGeo := some g }
    else s.modHead d n (Head.flag · 4)
  else if offset % 8 = 0 ∧ 16 ≤ offset ∧ offset ≤ 64 then
    let i := offset / 8 - 2
    if !h.enabled then s.modHead d n fun h => { h with
      addrs := h.addrs.set i v
      newAddrs := h.newAddrs.set i none }
    else if addressOk v then s.modHead d n fun h => { h with newAddrs := h.newAddrs.set i (some v) }
    else s.modHead d n (Head.flag · 4)
  else s

/-! Band launches. -/

/-- What a launch template must be (R416): the value of the first field that is not so. -/
def templateBad (r : List DWord) : Option Nat :=
  badField [(recBlock r != 0, recBlock r), (recBay r != 0, recBay r), (recSystem r, 1),
    (decide (recKeys r < 8), recKeys r)]

/-- The next band launch of a head placed in a front-end entry (R416), once the head has written its window's
records (R415); while no entry is free it waits. -/
def State.placeBand (s : State) (d : DieId) (n : Nat) : Except Stop State :=
  let h := s.head d n
  let b : BandRef := ⟨n, h.seqOf h.nextLaunch, h.nextLaunch.2, h.nextLaunch.1⟩
  let go (s : State) : State := s.modHead d n fun h => { h with nextLaunch := h.after h.nextLaunch }
  match (s.displayOf d n).bind fun c => (s.ctx? c).map fun x => (c, x), s.freeEntry d with
  | none, _ => .ok (go s)
  | some _, none => .ok s
  | some (ctx, x), some e =>
    let refuse (cause : Cause) (tval : DWord) (r : List DWord) : Except Stop State :=
      .ok (go (s.writeRecord d x.vi r ⟨0, cause.code, tval, 0, 0, 0, 0, 0⟩))
    match s.agentRead (frontAgent d ctx) .read (h.addr 0) 64 with
    | .error (.trap cause a) => refuse cause a []
    | .error stop => .error stop
    | .ok (_, _, _, some a) => refuse .uncorrectable (dw a) []
    | .ok (s1, bs, _, none) =>
      let r := wordsOf 8 bs
      match templateBad r with
      | some v => refuse .formatInvalid (dw v) r
      | none =>
        let (number, s2) := s1.takeNumber d x.vi
        match s2.takeIn d e { newEntry x.vi ctx number r 8 0 false with band := some b } with
        | .error stop => .error stop
        | .ok s3 => .ok (go (s3.modHead d n fun h => { h with bands := h.bands ++ [(b, e)] }))

def State.bandLaunch (s : State) (d : DieId) (n : Nat) : Except Stop State :=
  let s1 := if (s.head d n).recordsDue then s.writeRecords d n else s
  if (s1.head d n).recordsDue then .ok s1 else s1.placeBand d n

/-- BAND_LAUNCH (R416). -/
def execBandLaunch (die : DieId) (head : Nat) (s : State) : Host.Outcome State Fault Refusal :=
  if (s.head die head).launchDue then attempt s (s.bandLaunch die head) else .next s

/-! Planes (R418, R423). -/

/-- Bytes of a plane read by a head through a space, as a system access or not; a read that faults gives none and
sets plane fault, and one that meets a granule in transfer waits (R395, R418, R423). A head has no scratchpad and no
constants. -/
def State.planeAccess (s : State) (d : DieId) (n ctx space : Nat) (sys : Bool) (a k : Nat) :
    Except Stop (State × Option (List Byte × List Bool)) :=
  let fault (s : State) : Except Stop (State × Option (List Byte × List Bool)) :=
    .ok (s.modHead d n (Head.flag · 3), none)
  let read (g : Agent) : Except Stop (State × Option (List Byte × List Bool)) :=
    match s.agentRead g .read a k with
    | .ok (s1, bs, tags, none) => .ok (s1, some (bs, tags))
    | .ok (s1, _, _, some _) => fault s1
    | .error .hold => .error .hold
    | .error _ => fault s
  match space with
  | 0 | 7 => read { headAgent d ctx with sys := sys, win := false }
  | 5 =>
    if s.spaceLinked d ctx 5 then
      let (s1, bs) := s.hostBytes k
      .ok (s1, some (bs, []))
    else fault s
  | 6 => if s.spaceLinked d ctx 6 then read (peerAgent d ctx sys) else fault s
  | _ => fault s

/-- Bytes of a plane at an address of a head's register. -/
def State.planeRead (s : State) (d : DieId) (n ctx a k : Nat) : Except Stop (State × Option (List Byte)) :=
  match s.planeAccess d n ctx 0 false a k with
  | .ok (s1, v) => .ok (s1, v.map Prod.fst)
  | .error e => .error e

/-- A ready word holds a tag and at least a count (R418). -/
def readyWord (w : Nat) (frame need : Nat) : Bool :=
  w / 2 ^ 48 == frame % 2 ^ 16 && decide (need ≤ w % 2 ^ 32)

/-- The image of a descriptor record of format 0 that a head reads, if it is one. -/
def State.planeImage (s : State) (d : DieId) (n ctx a : Nat) : Except Stop (State × Option Image) :=
  match s.planeAccess d n ctx 0 false a 32 with
  | .error e => .error e
  | .ok (s1, none) => .ok (s1, none)
  | .ok (s1, some (bs, tags)) =>
    match imageOf bs (tags.getD 0 false) with
    | .ok i => .ok (s1, if i.format = 0 then some i else none)
    | .error _ => .ok (s1, none)

/-- The history plane of a head: valid, with a record of format 0 and the head's own size (R418). -/
def State.historyOf (s : State) (d : DieId) (n ctx : Nat) : Except Stop (State × Option Image) :=
  let h := s.head d n
  match s.planeImage d n ctx (h.addr 6) with
  | .error e => .error e
  | .ok (s1, i) =>
    .ok (s1, i.bind fun i => if h.historyValid && i.width == h.width && i.height == h.height then some i else none)

/-- Vectors ready for a band (R418). -/
def State.vectorsReady (s : State) (d : DieId) (n ctx frame band : Nat) : Except Stop (State × Bool) := do
  let h := s.head d n
  let (s1, w) ← s.planeRead d n ctx (h.addr 5) 8
  let (s2, i) ← s1.historyOf d n ctx
  .ok (s2, (match w with | some bs => readyWord (leNat bs) frame (2 * band + 2) | none => false) && i.isSome)

/-- Input present for a band (R418). -/
def State.inputPresent (s : State) (d : DieId) (n ctx frame band : Nat) : Except Stop (State × Bool) := do
  let h := s.head d n
  let (s1, w) ← s.planeRead d n ctx (h.addr 3) 8
  let (s2, i) ← s1.planeImage d n ctx (h.addr 2)
  .ok (s2, match w, i with
    | some bs, some i =>
      readyWord (leNat bs) frame
        (min i.height ((16 * (band + 1) * i.height + h.height - 1) / max 1 h.height + 2))
    | _, _ => false)

/-! The guard line. -/

/-- A band's launch is complete (R417): its counter reads complete with error and cancelled clear. -/
def State.bandDone (s : State) (d : DieId) (h : Head) (x : Nat × Nat) : Bool :=
  match h.results.find? fun r => r.1.frame == x.1 && r.1.band == x.2 with
  | some r => r.2
  | none =>
    match h.bands.find? fun b => b.1.frame == x.1 && b.1.band == x.2 with
    | some b =>
      let w := s.counterOf d .launch (.entries [b.2])
      w.getLsbD 63 && !w.getLsbD 62 && !w.getLsbD 61
    | none => false

/-- A status entry appended; a full queue loses its oldest (R294). -/
def Head.append (h : Head) (w : Word) : Head :=
  if h.queue.length < 64 then { h with queue := h.queue ++ [w] }
  else { h with queue := h.queue.drop 1 ++ [w], stat := bitPut h.stat 0 true }

/-- The level of a band (R419), with the state after the readiness reads: both words are read at every guard
line (R418). -/
def State.levelOf (s : State) (d : DieId) (n : Nat) (x : Nat × Nat) (done : Bool) : Except Stop (State × Nat) :=
  match s.displayOf d n with
  | none => .ok (s, if done then 0 else 3)
  | some ctx => do
    let (s1, vectors) ← s.vectorsReady d n ctx x.1 x.2
    let (s2, input) ← s1.inputPresent d n ctx x.1 x.2
    .ok (s2, if done then 0 else if vectors then 1 else if input then 2 else 3)

/-- A band whose buffer is written waits to be sent (R425); one still waiting in the same buffer is gone with what
the buffer held. -/
def Head.willSend (h : Head) (q b f : Nat) : Head :=
  { h with sends := (h.sends.filter fun x => x.1 % 2 != q % 2) ++ [(q, b, f)] }

/-- The guard line of a band (R417, R419): the sample, the cancel of a launch that is not complete, the
level, the status entry, and the fill that a level above 0 asks for. A launch not placed by then is not
placed. While a readiness read must wait, so does the line. -/
def State.guardLine (s : State) (d : DieId) (n : Nat) : Except Stop State :=
  let h := s.head d n
  let x := h.nextGuard
  let done := s.bandDone d h x
  let s1 := if done then s else
    (h.bands.filter fun b => b.1.frame == x.1 && b.1.band == x.2).foldl (fun s b => s.cancelEntry d b.2) s
  match s1.levelOf d n x done with
  | .error e => .error e
  | .ok (s2, level) =>
    let w : Word := BitVec.ofNat 32 (level * 2 ^ 30 + x.2 % 2 ^ 10 * 2 ^ 16 + x.1 % 2 ^ 16)
    let sends := d == .craren && n == 2 && s.link.mode == .paired
    .ok (s2.modHead d n fun h =>
      let g := { (h.append w) with
        nextGuard := h.after x
        nextLaunch := if h.nextLaunch = x then h.after x else h.nextLaunch
        results := h.results.filter fun r => !(r.1.frame == x.1 && r.1.band == x.2)
        fills := if level = 0 then h.fills else h.fills ++ [⟨level, h.seqOf x, x.2, x.1, 0⟩] }
      if level = 0 && sends then g.willSend (h.seqOf x) x.2 x.1 else g)

/-- GUARD_LINE (R417, R419). -/
def execGuardLine (die : DieId) (head : Nat) (s : State) : Host.Outcome State Fault Refusal :=
  if (s.head die head).guardDue then attempt s (s.guardLine die head) else .next s

/-! The fixed block. -/

/-- A texel of a plane by its coordinates, clamped, through its texel capability; a faulting read gives 0 and sets
plane fault (R423). -/
def State.planeTexel (s : State) (d : DieId) (n ctx : Nat) (i : Image) (x y : Int) : Except Stop (State × Nat) :=
  match i.texelAt permRead (clampTo x i.width) (clampTo y i.height) with
  | .error _ => .ok (s.modHead d n (Head.flag · 3), 0)
  | .ok a =>
    match s.planeAccess d n ctx (capSpace i.cap) (capSystem i.cap) a 4 with
    | .ok (s1, some v) => .ok (s1, leNat v.1)
    | .ok (s1, none) => .ok (s1, 0)
    | .error e => .error e

/-- Texels of a plane in order. -/
def State.planeTexels (s : State) (d : DieId) (n ctx : Nat) (i : Image) :
    List (Int × Int) → Except Stop (State × List Nat)
  | [] => .ok (s, [])
  | (x, y) :: rest => do
    let (s1, v) ← s.planeTexel d n ctx i x y
    let (s2, vs) ← s1.planeTexels d n ctx i rest
    .ok (s2, v :: vs)

/-- A channel of an RGBA8 texel. -/
def channel8 (v k : Nat) : Nat := v / 256 ^ k % 256

/-- Four channels as a pixel. -/
def pixelOf (f : Nat → Nat) : Nat := ((List.range 4).map fun k => f k % 256 * 256 ^ k).sum

/-- Level 1 (R420): a pixel reprojected by the vector of its block. -/
def State.reproject (s : State) (d : DieId) (n ctx : Nat) (i : Image) (x y : Nat) : Except Stop (State × Nat) := do
  let h := s.head d n
  let (s1, v) ← s.planeRead d n ctx (h.addr 4 + h.width * (y / 8) + 8 * (x / 8)) 8
  let bs := v.getD []
  let dx : Int := (BitVec.ofNat 16 (leNat (bs.take 2))).toInt
  let dy : Int := (BitVec.ofNat 16 (leNat ((bs.drop 2).take 2))).toInt
  let qx : Int := 4 * (x : Int) + dx
  let qy : Int := 4 * (y : Int) + dy
  let px := qx / 4
  let py := qy / 4
  let (s2, ts) ← s1.planeTexels d n ctx i [(px, py), (px + 1, py), (px, py + 1), (px + 1, py + 1)]
  let t (k j : Nat) : Nat := channel8 (ts.getD j 0) k
  .ok (s2, pixelOf fun k => quarter (qx % 4).toNat (qy % 4).toNat (t k 0) (t k 1) (t k 2) (t k 3))

/-- The Catmull-Rom weights of r ÷ n, each times 2n³ (R421). -/
def cubicWeights (r n : Int) : List Int :=
  [2 * r ^ 2 * n - r ^ 3 - r * n ^ 2, 3 * r ^ 3 - 5 * r ^ 2 * n + 2 * n ^ 3,
    4 * r ^ 2 * n + r * n ^ 2 - 3 * r ^ 3, r ^ 3 - r ^ 2 * n]

/-- A quotient rounded to the nearest integer, ties to even. -/
def roundEven (a : Int) (n : Int) : Int :=
  let q := a / n
  let r := a % n
  if 2 * r < n then q else if n < 2 * r then q + 1 else if q % 2 = 0 then q else q + 1

/-- A position along one axis: the first tap, and the weights with their common divisor (R421). -/
def cubicTaps (x size out : Nat) : Int × List Int × Int :=
  let n : Int := 2 * out
  let u : Int := (2 * x + 1) * size - out
  (u / n - 1, cubicWeights (u % n) n, 2 * n ^ 3)

/-- Level 2 (R421): a pixel scaled from the input plane. -/
def State.scalePixel (s : State) (d : DieId) (n ctx : Nat) (i : Image) (x y : Nat) : Except Stop (State × Nat) := do
  let h := s.head d n
  let (x0, wx, nx) := cubicTaps x i.width h.width
  let (y0, wy, ny) := cubicTaps y i.height h.height
  let (s1, ts) ← s.planeTexels d n ctx i
    ((List.range 16).map fun j => (x0 + (j % 4 : Nat), y0 + (j / 4 : Nat)))
  .ok (s1, pixelOf fun k =>
    let sum := ((List.range 16).map fun j =>
      wx.getD (j % 4) 0 * wy.getD (j / 4) 0 * (channel8 (ts.getD j 0) k : Int)).sum
    (min 255 (max 0 (roundEven sum (nx * ny)))).toNat)

/-- One pixel of a fill at its level (R419 to R422). -/
def State.fillPixel (s : State) (d : DieId) (n ctx level x y : Nat) (i : Option Image) : Except Stop (State × Nat) :=
  match level, i with
  | _, none => .ok (s, 0)
  | 1, some i => s.reproject d n ctx i x y
  | 2, some i => s.scalePixel d n ctx i x y
  | _, some i => s.planeTexel d n ctx i x y

/-- A line of pixels of a fill. -/
def State.fillPixels (s : State) (d : DieId) (n ctx level y : Nat) (i : Option Image) :
    List Nat → Except Stop (State × List Byte)
  | [] => .ok (s, [])
  | x :: xs => do
    let (s1, v) ← s.fillPixel d n ctx level x y i
    let (s2, bs) ← s1.fillPixels d n ctx level y i xs
    .ok (s2, leBytes 4 v ++ bs)

/-- The plane that a level reads. -/
def State.planeFor (s : State) (d : DieId) (n ctx level : Nat) : Except Stop (State × Option Image) :=
  if level = 2 then s.planeImage d n ctx ((s.head d n).addr 2) else s.historyOf d n ctx

/-- A line of a fill as the fixed block writes it. -/
def State.fillBytesOf (s : State) (d : DieId) (n : Nat) (f : Fill) : Except Stop (State × List Byte) :=
  let h := s.head d n
  match s.displayOf d n with
  | none => .ok (s, List.replicate (4 * h.width) 0)
  | some ctx => do
    let (s0, i) ← s.planeFor d n ctx f.level
    s0.fillPixels d n ctx f.level (16 * f.band + f.line) i (List.range h.width)

/-- The next line of the oldest fill that may start (R419): its buffer's earlier band has been scanned
out. -/
def State.fillLine (s : State) (d : DieId) (n : Nat) : Except Stop State :=
  let h := s.head d n
  match h.fills with
  | [] => .ok s
  | f :: rest =>
    if !h.bufferFree f.seq then .ok s
    else
      match s.fillBytesOf d n f with
      | .error e => .error e
      | .ok (s1, bs) =>
        let sends := f.line = 15 ∧ d = .craren ∧ n = 2 ∧ s.link.mode = .paired
        .ok (s1.modHead d n fun h =>
          let g := { (h.putBuffer (f.seq % 2) (4 * h.width * f.line) bs) with
            fills := if f.line = 15 then rest else { f with line := f.line + 1 } :: rest }
          if sends then g.willSend f.seq f.band f.frame else g)

/-- FALLBACK_FILL (R419): the fixed block writes one line, once no granule that it reads is in transfer. -/
def execFallbackFill (die : DieId) (head : Nat) (s : State) : Host.Outcome State Fault Refusal :=
  if (s.head die head).enabled then attempt s (s.fillLine die head) else .next s

/-! The line counter. -/

/-- What the wrap to line 0 makes effective (R413, R414). -/
def Head.wrap (h : Head) : Head :=
  { h with
    line := 0
    frame := h.frame + 1
    geo := h.newGeo.getD h.geo
    addrs := (List.range 7).map fun i => (h.newAddrs.getD i none).getD (h.addrs.getD i 0)
    newGeo := none
    newAddrs := List.replicate 7 none }

/-- The band being scanned out at an active line. -/
def Head.bandNow (h : Head) : Nat × Nat := (h.frame, h.line / 16)

/-- The pixels of a line of a buffer. -/
def Head.bufferLine (h : Head) (i line : Nat) : List Byte :=
  memBytes (h.buffers.getD i []) (4 * h.width * line) (4 * h.width)

/-- A line of the band that a relay head scans out has arrived (R425). -/
def Head.lineHere (h : Head) : Bool :=
  h.arrivals.any fun a => a.1 == h.seqOf h.bandNow % 2 && a.2.1 == h.line / 16 && decide (h.line % 16 < a.2.2.2)

/-- The line that the counter has reached, scanned out as its buffer stands: one that a fill has not written yet is
late (R423); at a relay head, one that has not arrived is an underrun and scanned as zeros (R425). -/
def Head.scan (h : Head) : Head :=
  if h.height ≤ h.line then { h with pixels := [] }
  else
    let s := h.seqOf h.bandNow
    let shown := { h with pixels := h.bufferLine (s % 2) (h.line % 16) }
    if h.relay then
      if h.lineHere then shown else { h with pixels := List.replicate (4 * h.width) 0 }.flag 1
    else if h.fills.any fun f => f.seq == s && decide (f.line ≤ h.line % 16) then shown.flag 2
    else shown

/-- The end of a band frees what a relay head had scanned out of it. -/
def Head.endBand (h : Head) : Head :=
  if h.relay && h.line % 16 == 15 && decide (h.line < h.height) then
    { h with arrivals := h.arrivals.filter fun a =>
        !(a.1 == h.seqOf h.bandNow % 2 && a.2.1 == h.line / 16) }
  else h

/-- A stopping head is at the end of its current band. -/
def Head.stopsHere (h : Head) : Bool := h.stopping && (decide (h.height ≤ h.line) || h.line % 16 == 15)

/-- The guard line that is due is no later than the launch line that is due, which is another band's: a band's own
launch line comes first, also with L = 0 (R414). -/
def Head.guardFirst (h : Head) : Bool :=
  h.nextGuard != h.nextLaunch && decide (h.bandLine h.nextGuard + h.lead ≤ h.bandLine h.nextLaunch)

/-- The launch and guard lines that are due before the counter moves are taken in the order of their lines
(R414); a launch that must wait is left. -/
def State.takeLines : Nat → State → DieId → Nat → Except Stop State
  | 0, s, _, _ => .ok s
  | k + 1, s, d, n =>
    let h := s.head d n
    let guard (s : State) : Except Stop State :=
      match s.guardLine d n with
      | .error e => .error e
      | .ok s1 => State.takeLines k s1 d n
    if h.guardDue && (!h.launchDue || h.guardFirst) then guard s
    else if h.launchDue then
      match s.bandLaunch d n with
      | .error (.halt f) => .error (.halt f)
      | .error _ => if h.guardDue then guard s else .ok s
      | .ok s1 =>
        if (s1.head d n).nextLaunch ≠ h.nextLaunch then State.takeLines k s1 d n
        else if h.guardDue then guard s1
        else .ok s1
    else .ok s

/-- More launch and guard lines than can be due at one line: L is at most 48, G at most 64 and a band has 16
lines. -/
def dueLines : Nat := 16

/-- The counter of an enabled head goes to its next line (R414). -/
def State.nextLine (s : State) (d : DieId) (n : Nat) : State :=
  let h := s.head d n
  if h.stopsHere then s.stopHead d n
  else if h.line + 1 < h.total then
    s.modHead d n fun h => { h.endBand with line := h.line + 1 }.scan
  else
    let s1 := s.modHead d n fun h => h.endBand.wrap.scan
    if h.newGeo.isSome || (h.newAddrs.getD 1 none).isSome then s1.writeRecords d n else s1

/-- LINE_ADVANCE (R414). -/
def execLineAdvance (die : DieId) (head : Nat) (s : State) : Host.Outcome State Fault Refusal :=
  if !(s.head die head).enabled then .next s
  else
    match State.takeLines dueLines s die head with
    | .ok s1 => .next (s1.nextLine die head)
    | .error (.halt f) => .fault f
    | .error _ => .next s

/-! The relay (R425). -/

/-- The relay head of the Dukor. -/
def State.relayHead (s : State) : Option Nat :=
  (s.dukor.heads.find? fun e => e.2.enabled && e.2.relay).map Prod.fst

/-- The packets that virtual channel 1 holds (R283): its posted queue. -/
def pixelQueue : Nat := 64

/-- A scan line packed (R410): its whole 192-byte lines, and what is left of it. -/
def Head.packet (h : Head) (q b f k : Nat) : RelayLine :=
  let bs := h.bufferLine (q % 2) k
  let n := bs.length / 192
  ⟨h.width, b, f, k, packLines ((List.range n).map fun i => ((bs.drop (192 * i)).take 192, [])), bs.drop (192 * n)⟩

/-- The bytes of a scan line that arrives. -/
def RelayLine.bytes (p : RelayLine) : List Byte :=
  (((unpackLines (4 * p.width / 192) p.packed).getD []).flatMap Prod.fst) ++ p.rest

/-- RELAY_BAND_SEND (R425): head 2 of a paired Craren sends its oldest written band, its 16 lines packed, when
virtual channel 1 has room for them (R283). -/
def execRelayBandSend (die : DieId) (head : Nat) (s : State) : Host.Outcome State Fault Refusal :=
  let h := s.head die head
  if die != .craren || head != 2 || s.link.mode != .paired || !h.enabled then .next s
  else
    match h.sends with
    | [] => .next s
    | (q, b, f) :: rest =>
      let s1 := s.modHead die head fun h => { h with sends := rest }
      match s.relayHead with
      | none => .next s1
      | some r =>
        if pixelQueue < (s.head .dukor r).inbound.length + 16 then .next s
        else .next (s1.modHead .dukor r fun k => { k with
          inbound := k.inbound ++ (List.range 16).map (h.packet q b f) })

/-- A line that arrives at a relay head (R425): the first of a band is discarded, and the band with it, where both
buffers hold bands still to be scanned out or the width differs; the lines of a band come in order. -/
def Head.arrive (h : Head) (x : RelayLine) : Head :=
  let p := h.seqOf (x.frame, x.band) % 2
  let full := h.arrivals.any (fun a => a.1 == 0) && h.arrivals.any fun a => a.1 == 1
  let put (as : List (Nat × Nat × Nat × Nat)) : Head :=
    { h.putBuffer p (4 * h.width * x.line) x.bytes with
      arrivals := (as.filter fun a => a.1 != p) ++ [(p, x.band, x.frame, x.line + 1)] }
  if x.line = 0 then if full || x.width != h.width then h.flag 1 else put h.arrivals
  else if h.arrivals.contains (p, x.band, x.frame, x.line) then put h.arrivals
  else h

/-- RELAY_BAND_ARRIVAL (R425): the oldest line of those under way. -/
def execRelayBandArrival (die : DieId) (head : Nat) (s : State) : Host.Outcome State Fault Refusal :=
  let h := s.head die head
  match h.inbound with
  | [] => .next s
  | x :: rest =>
    if h.enabled && h.relay then .next (s.modHead die head fun k => ({ k with inbound := rest }).arrive x)
    else .next (s.modHead die head fun k => { k with inbound := rest })

end Sys2Proof.Machine
end

