-- ==== Sys2Proof/Machine/Recover.lean ====
section
/-! DEFINITION. The link going up and down: pairing (R15), surprise removal (R296, R403, R404), recovery
from a committed checkpoint (R405), requested undock (R295, R398), and packets that end the link (R410). -/

namespace Sys2Proof.Machine

/-- The granules of a context on a die whose home is the peer, or on their way. -/
def State.peerGranules (s : State) (d : DieId) (ctx : Nat) : List Nat :=
  (s.mapped d ctx).filterMap fun g =>
    if s.dirOf d g.2.1 = .home then none else some g.1

/-- A context's only work is band launches: it is the display context of a head and has no other launch in a
front end or recorded (R411). -/
def State.bandOnly (s : State) (ctx : Nat) (x : Context) : Bool :=
  (s.craren.heads.any (fun h => s.craren.displayOf h.2 == some ctx)
      || s.dukor.heads.any fun h => s.dukor.displayOf h.2 == some ctx)
    && !(s.craren.entries ++ s.dukor.entries).any (fun e => e.2.ctx == ctx && e.2.band.isNone)
    && x.waiting.isEmpty && x.saved.isEmpty

/-- A context of which the die's directory has a granule homed there. -/
def State.homedOn (s : State) (d : DieId) (ctx : Nat) : Bool :=
  (s.mapped d ctx).any fun g => s.dirOf d g.2.1 == .home

/-- A context is docked (R404); a protected context has no peer state (R433), and one whose only work is band
launches is never docked (R411). -/
def State.docked (s : State) (ctx : Nat) (x : Context) : Bool :=
  x.keySlot.isNone && !s.bandOnly ctx x && (x.die == .dukor || s.homedOn .dukor ctx)

/-! What a link that goes down ends (R296). -/

/-- A request that needs the link. -/
def Req.onLink (q : Req) : Bool := q.open && (q.space != 5 || q.die == .dukor)

/-- An atom of space 6 under fence strengthening that the peer has performed: what the link takes is the
acknowledgement that its second fence waits for (R236). -/
def Req.afterAtom (q : Req) : Bool :=
  match q.kind with
  | .atom _ _ _ _ => q.wait && q.space == 6 && q.phase == .performed
  | _ => false

/-- Every request without its completion, receipt or acknowledgement is lost. -/
def State.cutReqs (s : State) : State :=
  (s.link.reqs.filter Req.onLink).foldl (fun s q =>
    if !s.link.reqs.contains q then s
    else if q.afterAtom then s.setReq { q with phase := .lostAfter (dw q.va) }
    else s.failReq q .linkLost (dw q.va)) s

/-- Whether one side of a copy reaches the peer or, on the Dukor, the host. -/
def State.sideLost (s : State) (d : DieId) (ctx : Nat) (cap : Quad) (span : Option (Int × Nat)) : Bool :=
  let a := match span with
    | some x => (x.1.toNat, x.2)
    | none => ((capBase cap).toNat, (capTop cap - capBase cap).toNat)
  match capSpace cap with
  | 5 => d == .dukor
  | 6 => true
  | 0 => (s.peerGranules d ctx).any fun g => overlap g granuleSize a.1 a.2
  | 7 => (s.peerGranules d ctx).any fun g => overlap g granuleSize a.1 a.2
  | _ => false

/-- A copy that touches the peer. -/
def State.copyLost (s : State) (op : CopyOp) : Bool :=
  match s.cove? op.cove with
  | none => false
  | some c => s.sideLost op.cove.die c.ctx op.dst (cpDstSpan op.form op.dst op.desc)
      || (op.form != 5 && s.sideLost op.cove.die c.ctx op.src (cpSrcSpan op.form op.src op.desc))

/-- The copies of a die that touch the peer, each with its core. -/
def State.lostCopies (s : State) (d : DieId) : List (Nat × CopyOp) :=
  (s.die d).cores.flatMap fun k => (k.2.copies.filter s.copyLost).map fun o => (k.1, o)

/-- Copies that the link has taken end with the count done so far. -/
def State.cutCopies (s : State) (d : DieId) (lost : List (Nat × CopyOp)) : State :=
  lost.foldl (fun s x =>
    if (s.core d x.1).copies.contains x.2 then s.endCopy d x.1 x.2 (handleWord 2 x.2.progress) else s) s

/-- The state of a directory entry after the link event (R403). -/
def lostDir (s : State) (d : DieId) (g : Nat) : DirState → DirState
  | .home => .home
  | .peer => .absent
  | .absent => .absent
  | .transfer =>
    match s.link.transfers.find? fun t => granuleOf (if t.requester = d then t.newPa else t.oldPa) == g with
    | some t => if t.requester = d then .absent else .home
    | none => .absent

/-- The directory of a die after the link event. -/
def State.cutDirectory (s : State) (d : DieId) : State :=
  s.modDie d fun x => { x with directory := x.directory.map fun e => (e.1, lostDir s d e.1 e.2) }

/-- The heads that the link fed or that fed it: head 2 of the Craren stops, and pixels on the way go. -/
def State.cutHeads (s : State) : State :=
  let s1 := if s.link.mode = .paired ∧ (s.head .craren 2).enabled then s.stopHead .craren 2 else s
  let empty (x : Die) : Die := { x with heads := x.heads.map fun h => (h.1, { h.2 with sends := [], inbound := [] }) }
  (s1.modDie .craren empty).modDie .dukor empty

/-! The Dukor frees what its lost Craren owned (R404). -/

/-- A frame zeroed with its tags and its directory entry. -/
def Die.zeroFrame (x : Die) (pa : Nat) : Die :=
  { x with
    dram := memZero x.dram pa granuleSize
    tags := tagClear x.tags pa granuleSize
    cipher := adel x.cipher (granuleOf pa)
    directory := adel x.directory (granuleOf pa) }

/-- A context's side on the Dukor scrubbed and freed, as for a teardown without keyz. -/
def State.freeDukor (s : State) (ctx : Nat) (x : Context) : State :=
  let frames := (s.mapped .dukor ctx).map (·.2.1)
  let local' := frames.filter fun pa => s.dirOf .dukor pa == .home
  let tables := (s.tableGranules .dukor ctx).map (granuleSize * ·)
  let cs := (s.covesIn ctx).filter fun e => e.1.die == .dukor
  let s1 := cs.foldl (fun s e => s.zeroScratch .dukor e.1.core e.2.scratchBase e.2.scratchSize) s
  let s2 := ((local' ++ tables).foldl (fun s pa => s.healSectors .dukor pa granuleSize)
      (s1.clearRun .dukor ctx)).modDie .dukor fun k =>
    let k1 := (local' ++ tables).foldl Die.zeroFrame k
    { k1 with
      directory := k1.directory.filter fun e => !(frames.map granuleOf).contains e.1
      pool := k1.pool.filter fun p => p.ctx != ctx
      replicas := k1.replicas.filter fun r => r.ctx != ctx }
  let s3 := s2.dropTlbs .dukor fun e => e.ctx == ctx
  let s4 := if x.die = .dukor then s3.modVi .dukor x.vi fun i => i.release ctx else s3
  s4.modCtx ctx fun c => { c with rootDukor := none, stream := none, asked := false }

/-- A context suspended with its launches (R292). -/
def State.suspend (s : State) (ctx : Nat) : State :=
  let s1 := s.modCtx ctx fun c => { c with
    status := .suspended
    evict := false
    ckpt := none
    asked := false
    stream := none }
  s1.modDie .craren fun k => { k with entries := k.entries.map fun e =>
    if e.2.ctx = ctx ∧ e.2.band = none ∧ e.2.state = .running then (e.1, { e.2 with state := .suspended }) else e }

/-- What the link event does to one context: `docked` as it was before the event. -/
def State.cutContext (s : State) (laptop : Bool) (docked : List Nat) (ctx : Nat) : State :=
  match s.ctx? ctx with
  | none => s
  | some x =>
    if x.keySlot.isSome || s.bandOnly ctx x || (laptop && x.die == .craren) then s
    else
      let s1 := if x.rootDukor.isSome then s.freeDukor ctx x else s
      if docked.contains ctx then s1.suspend ctx else s1

/-- The link event of a surprise removal (R296, R403, R404). The directories are cut and the transfers end first,
so that nothing that ends with the link reaches across it. -/
def State.removeLink (s : State) : State :=
  if s.link.mode = .down then s
  else
    let docked := (s.contexts.filter fun e => s.docked e.1 e.2).map Prod.fst
    let s1 := (s.cutDirectory .craren).cutDirectory .dukor
    let s2 : State := { s1 with link := { s1.link with transfers := [] } }
    let s3 := ((s2.cutReqs.cutCopies .craren (s.lostCopies .craren)).cutCopies .dukor
      (s.lostCopies .dukor)).cutHeads
    let s4 := (s.contexts.map Prod.fst).foldl (fun t c => t.cutContext (s.link.mode == .laptop) docked c) s3
    let drop (x : Die) : Die := x.loseReplicas none fun _ => true
    let s5 := (s4.modDie .craren drop).modDie .dukor drop
    { s5 with link := { s5.link with mode := .down, draining := false, undock := [] } }

/-- SURPRISE_REMOVAL (R296). -/
def execSurpriseRemoval (s : State) : Host.Outcome State Fault Refusal := .next s.removeLink

/-- PACKET_RECEIVE (R410): the lines of a packed packet are written; a malformed one takes the link down
with the effects of R296. -/
def execPacketReceive (die : DieId) (pa lines : Nat) (payload : List Byte) (s : State) :
    Host.Outcome State Fault Refusal :=
  if s.link.mode != .paired || pa % 192 != 0 || decide (Config.dramBytes die < pa + 192 * lines) then .next s
  else if payload.length % 4 ≠ 0 then .next s.removeLink
  else
    match unpackLines lines payload with
    | none => .next s.removeLink
    | some ls => .next (s.putLines die pa ls)

/-! Recovery (R405). -/

/-- A granule of a die's memory written whole. -/
def State.putGranule (s : State) (d : DieId) (ctx : Nat) (x : Xlat) (m : Mem) (tags : TagSet) : State :=
  ((s.putFrame d ctx x.leaf x.pa m tags).healSectors d (granuleOf x.pa * granuleSize) granuleSize).setDir
    d x.pa .home

/-- Step 3: the version n of every granule of which the Craren holds one written to its frame. -/
def State.writeVersions (s : State) (ctx n : Nat) : State :=
  let vas := ((s.craren.pool.filter fun p => p.ctx == ctx && p.launch.isNone).map (·.va)).eraseDups
  vas.foldl (fun s va =>
    match s.craren.imageAt ctx va n, s.walk .craren ctx .read va with
    | some p, .ok x => s.putGranule .craren ctx x p.bytes p.tags
    | _, _ => s) s

/-- Step 4: the committed slot at an offset of a mirror made the frame of a granule. In the Craren's memory a
third-level leaf names the slot; under a larger leaf, and from a host's buffer (R408), the contents are copied to
the granule's place. -/
def State.adoptSlot (s : State) (d : DieId) (ctx : Nat) (m : Mirror) (va at' : Nat) : State :=
  match s.walk d ctx .read va with
  | .error _ => s
  | .ok x =>
    if m.host then s.putGranule d ctx x (memPut [] 0 (s.mirBytes m (m.base + at') granuleSize)) []
    else
      let slot := m.base + at'
      if x.size = granuleSize then
        let leaf := (x.leaf &&& ~~~((0xFFFFFFFF : DWord) <<< 16)) ||| (BitVec.ofNat 64 (granuleOf slot) <<< 16)
        (s.writePhys d x.leafAt leaf).setDir d slot .home
      else
        s.putGranule d ctx x (sliceMem s.craren.dram slot granuleSize) (sliceTags s.craren.tags slot granuleSize)

/-- Whether the frame of a granule of a context is absent on a die. -/
def State.frameAbsent (s : State) (d : DieId) (ctx va : Nat) : Bool :=
  match s.walk d ctx .read va with
  | .ok x => s.dirOf d x.pa == .absent
  | .error _ => false

/-- Step 4 for every valid entry of the mirror table that the commit record has in use; where the image
that the context left with is the commit, for those whose frame is still absent. -/
def State.adoptSlots (s : State) (d : DieId) (ctx : Nat) (m : Mirror) (only : Bool) : State :=
  let inUse := match s.committed m with
    | some (k, _) => s.commitInUse m k
    | none => 0
  (List.range (min inUse m.entries)).foldl (fun s i =>
    match s.mirrorVa m i with
    | none => s
    | some va =>
      if only && !s.frameAbsent d ctx va then s
      else s.adoptSlot d ctx m va (s.mirrorSlot m i + (if s.committedBit m i then 65536 else 0))) s

/-- Step 5: leaves with a frame that is still absent become type 0. -/
def State.dropAbsent (s : State) (d : DieId) (ctx : Nat) : State :=
  ((s.leaves d ctx).filter fun x => x.granules.any fun g => s.dirOf d g.2 == .absent).foldl
    (fun s x => s.writePhys d x.leafAt (x.leaf &&& 0x3FFFFFFFFFFFFFFF)) s

/-- The image that recovery restores, with its number: that which the context left the Craren with, or
the committed one. -/
def State.recoveryImage (s : State) (x : Context) : Option (List Byte × Nat) :=
  match x.left, x.mirror with
  | some im, _ => some (im.1, 0)
  | none, none => none
  | none, some m => (s.committed m).map fun (k, n) =>
      (s.mirBytes m (m.base + s.commitImage m k) (64 * s.commitUnits m k), n)

/-- A context that cannot be recovered is lost, and its resources are free (R405), its frames with their directory
entries among them. -/
def State.loseContext (s : State) (ctx : Nat) (x : Context) : State :=
  let frames := (s.mapped .craren ctx).map fun g => granuleOf g.2.1
  let drop (k : Die) : Die := { k with
    pool := k.pool.filter fun p => p.ctx != ctx
    directory := k.directory.filter fun e => !frames.contains e.1 }
  ((((s.modDie .craren drop).modVi x.die x.vi fun i => i.release ctx).modCtx ctx
    fun c => { c with
      status := .lost
      rootCraren := none
      rootDukor := none
      saved := []
      blocks := []
      places := []
      behind := []
      bad := []
      loose := []
      waiting := []
      left := none
      leftMark := 0
      marks := [] }).republish .craren).republish .dukor

/-- Every unit of a die has acknowledged the suspension of a context. -/
def State.suspensionAcked (s : State) (ctx : Nat) : Bool :=
  (s.covesIn ctx).all fun e => e.2.complete || s.coveAcked e.1 e.2

/-- The mirror of a context lies in a host's buffer (R408). -/
def Context.onHost (x : Context) : Bool := (x.mirror.map (·.host)).getD false

/-- The die on which a suspended context is recovered, with its root there: the Craren on its own root (R405); from
a host's buffer any die that has been given one (R408). -/
def Context.recoveryRoot (x : Context) : Option (DieId × Nat) :=
  match x.onHost, x.rootDukor, x.rootCraren with
  | true, some r, _ => some (.dukor, r)
  | _, _, some r => some (.craren, r)
  | _, _, none => Option.none

/-- A context on a die without what it ran there: its coves, its entries and its part of the queues. -/
def State.beginRecovery (s : State) (d : DieId) (ctx : Nat) : State :=
  (s.clearRun d ctx).modCtx ctx fun c => { c with
    saved := []
    places := []
    behind := []
    bad := []
    loose := []
    waiting := []
    copies := []
    askers := [] }

/-- Steps 3 to 5 of R405 for a commit n; from a host's buffer steps 4 and 5 (R408). -/
def State.restoreGranules (s : State) (d : DieId) (ctx n : Nat) (x : Context) : State :=
  let s1 := if x.onHost then s else s.writeVersions ctx n
  let s2 := match x.mirror with
    | some m => s1.adoptSlots d ctx m x.left.isSome
    | none => s1
  (s2.dropAbsent d ctx).dropTlbs d fun e => e.ctx == ctx

/-- An image whose header names the root that firmware gave the context on a die (R364, R408). -/
def imageWithRoot (d : DieId) (root : Nat) (b : List Byte) : List Byte :=
  let at' := if d = .craren then 24 else 32
  b.take at' ++ leBytes 8 (2 ^ 63 + root % 2 ^ 48) ++ b.drop (at' + 8)

/-- The device-fed queues of a recovered context as image n has them: its launches since then are made again, and
those that waited wait again under their numbers (R380, R405). -/
def State.rewindQueues (s : State) (ctx n : Nat) (b : List Byte) (x : Context) : State :=
  match s.ctx? ctx with
  | none => s
  | some y =>
    let ws := ((x.marks.find? fun e => e.1 == n).map (·.2)).getD []
    s.modVi y.die y.vi fun i => { i with queues := (List.range 8).map fun k =>
      let q := i.queues.getD k Queue.reset
      if q.ctx = ctx ∧ q.size ≠ 0 ∧ q.deviceFed then
        { q with write := BitVec.ofNat 16 (imgNat b (4160 + 16 * k) 16 / 2 ^ 112), waiting := ws.getD k [] }
      else q }

/-- SURPRISE_RECOVERY (R405, R408): a suspended context restored from its commit. A context without one is lost;
where firmware has no root for it yet, or its host's buffer is out of reach, it waits. -/
def State.recover (s : State) (ctx : Nat) (places : List Place) : State :=
  match s.ctx? ctx with
  | none => s
  | some x =>
    if x.status != .suspended || !s.suspensionAcked ctx || (x.onHost && s.link.mode != .laptop) then s
    else
      match s.recoveryImage x with
      | none => (s.beginRecovery x.die ctx).loseContext ctx x
      | some (b, n) =>
        match x.recoveryRoot with
        | none => s
        | some (d, root) =>
          let b' := if x.onHost then imageWithRoot d root b else b
          match ((s.beginRecovery d ctx).restoreGranules d ctx n x).restoreImage ctx d b' places with
          | some s2 =>
            (s2.rewindQueues ctx n b x).modDie .craren fun k =>
              { k with pool := k.pool.filter fun p => p.ctx != ctx || p.launch.isSome }
          | none => s

/-- SURPRISE_RECOVERY (R405). -/
def execSurpriseRecovery (ctx : Nat) (places : List Place) (s : State) : Host.Outcome State Fault Refusal :=
  .next (s.recover ctx places)

/-! The link comes up, and a requested undock (R295, R398). -/

/-- LINK_UP (R15, R331): the mode is chosen, and the directories of a pair are set to agree. A die that is
held in its ROM trains no link (R438). -/
def execLinkUp (partner : Partner) (s : State) : Host.Outcome State Fault Refusal :=
  if s.link.mode != .down || s.dukor.power != .d0 then .next s
  else
    match partner with
    | .host => .next { s with link := { s.link with mode := .laptop } }
    | .peer =>
      if s.craren.power != .d0 then .next s
      else
        let s1 := s.modDie .dukor fun x => { x with
          directory := x.directory.map fun e => (e.1, if e.2 = .absent then .peer else e.2) }
        .next { s1 with link := { s1.link with mode := .paired } }

/-- A context whose state an undock takes off the Dukor: protected contexts have no peer state (R433), band
launches stay with their display core (R411), and a lost or suspended context runs nowhere. -/
def State.undocks (s : State) (ctx : Nat) (x : Context) : Bool :=
  x.keySlot.isNone && !s.bandOnly ctx x && x.status != .lost && x.status != .suspended

/-- REQUESTED_UNDOCK (R295, steps 1 to 5): the drain begins, the contexts of the Dukor are pre-empted, and
head 2 of the Craren stops at the end of its band. -/
def execRequestedUndock (places : List (Nat × List Place)) (s : State) : Host.Outcome State Fault Refusal :=
  if s.link.mode = .down ∨ s.link.draining then .next s
  else
    let s1 : State := { s with link := { s.link with
      draining := true
      drainFrom := s.link.nextId + 1
      nextId := s.link.nextId + 1
      undock := places } }
    let s2 := if s.link.mode = .paired ∧ (s1.head .craren 2).enabled then s1.modHead .craren 2 fun h => { h with stopping := true } else s1
    let ctxs := if s.link.mode = .paired then s.contexts.filter fun e => e.2.die == .dukor && s.undocks e.1 e.2
                else []
    .next (ctxs.foldl (fun s e =>
      match (s.beginStop e.1 true false).finishStop e.1 with
      | .ok s1 => s1
      | .error _ => s.beginStop e.1 true false) s2)

/-- Every Dukor-homed granule of a context that the Craren maps is transferred to it. -/
def State.returnGranules (s : State) (ctx : Nat) : State :=
  ((s.mapped .craren ctx).filter fun g => s.dirOf .craren g.2.1 == .peer).foldl (fun s g =>
    match s.walk .craren ctx .write g.1, s.walk .dukor ctx .write g.1 with
    | .ok x, .ok y => if s.dirOf .dukor y.pa = .home then s.pullGranule .craren ctx x y g.1 else s
    | _, _ => s) s

/-- A context has nothing left to bring back over a pair (R398): it runs on the Craren, and none of its granules
is homed on the Dukor. -/
def State.broughtBack (s : State) (ctx : Nat) (x : Context) : Bool :=
  !s.undocks ctx x || (x.die == .craren && !s.homedOn .dukor ctx)

/-- An operation of a core that was issued before the drain is still in flight: its accesses may cross the link. -/
def Core.crosses (k : Core) (from' : Nat) : Bool :=
  k.rays.any (fun x => !x.rounds.isEmpty && decide (x.after < from'))
    || k.searches.any (fun x => decide (x.after < from')) || k.samples.any (fun x => decide (x.after < from'))
    || k.images.any fun x => decide (x.after < from')

/-- Nothing is left on the link (R295, step 6): no request, transfer, copy, stream or pixel, no operation that may
still cross it, and of a pair no context or granule to bring back. -/
def State.linkEmpty (s : State) : Bool :=
  !s.link.reqs.any Req.onLink && s.link.transfers.isEmpty
    && !((s.craren.cores ++ s.dukor.cores).any fun k => k.2.crosses s.link.drainFrom)
    && !((s.craren.cores ++ s.dukor.cores).any fun k => k.2.copies.any s.copyLost)
    && !s.contexts.any (fun e => e.2.stream.isSome && (e.2.mirror.map s.mirrorUp).getD false)
    && (s.link.mode != .paired || s.contexts.all fun e => s.broughtBack e.1 e.2)
    && !s.contexts.any (fun e => (s.mapped .craren e.1).any fun g => s.dirOf .craren g.2.1 == .peer)
    && (s.link.mode != .paired || !(s.head .craren 2).enabled)
    && (s.craren.heads ++ s.dukor.heads).all fun h => h.2.inbound.isEmpty && h.2.sends.isEmpty

/-- UNDOCK_DRAIN_COMPLETE (R295, R398): contexts that have stopped are restored on the Craren, granules
return, and the link goes down once nothing is left. -/
def execUndockDrainComplete (s : State) : Host.Outcome State Fault Refusal :=
  if !s.link.draining then .next s
  else
    let s1 := if s.link.mode = .paired then
        (s.contexts.filter fun e => e.2.die == .dukor && s.undocks e.1 e.2).foldl (fun s e =>
          s.migrateOp e.1 (((s.link.undock.find? fun p => p.1 == e.1).map (·.2)).getD [])) s
      else s
    let s2 := if s1.link.transfers.isEmpty then (s1.contexts.map Prod.fst).foldl State.returnGranules s1 else s1
    if s2.linkEmpty then
      let s3 := (s2.cutDirectory .craren).cutDirectory .dukor
      .next { s3 with link := { s3.link with mode := .down, draining := false, undock := [] } }
    else .next s2

end Sys2Proof.Machine
end

