-- ==== Sys2Proof/Machine/Replay.lean ====
section
/-! DEFINITION. Launch replay (R292, R402), the evictions that may happen at any time (R217, R222, R330),
and what firmware and the host write: memory (R203), device registers (R286, R355, R412) and contexts
(R324, R428). -/

namespace Sys2Proof.Machine

/-! Replay. -/

/-- Whether a launch stands idle: none of its threads is in the clause in issue, none of its requests is on
its way, and the spill blocks of its coves can be given up. -/
def State.launchIdle (s : State) (d : DieId) (e : Nat) : Bool :=
  !s.launchOpen d e && (s.launchCoves d e).all fun c =>
    s.saveReady c.2.ctx && (s.coveThreads c.1).all fun t => !s.inIssue t.1

/-- The running launches of a context that have written a granule of a list. -/
def State.sharers (s : State) (d : DieId) (ctx : Nat) (gs : List Nat) : List Nat :=
  ((s.die d).entries.filter fun y => y.2.ctx == ctx && (y.2.state == .running || y.2.state == .replaying)
    && y.2.written.any gs.contains).map Prod.fst

/-- The launches that are replayed with one: those that share a written granule with it, and with them. -/
def State.replaySet (s : State) (d : DieId) (ctx : Nat) : Nat → List Nat → List Nat
  | 0, es => es
  | n + 1, es =>
    let gs := es.flatMap fun e => ((s.entry? d e).map (·.written)).getD []
    s.replaySet d ctx n ((es ++ s.sharers d ctx gs).eraseDups)

/-- The coves of a launch removed, with their operations. -/
def State.removeCoves (s : State) (d : DieId) (e : Nat) : State :=
  (s.launchCoves d e).foldl (fun s c =>
    let s1 := s.stopOps c.1
    let s2 := ((s1.coveThreads c.1).map Prod.fst).foldl (fun s r =>
      s.modCore r.die r.core fun k => k.leaveTide r) s1
    let s3 := (s2.modCore d c.1.core fun k => k.forget true c.2.ctx fun cv => cv == c.1).clearCove c.1 c.2
    { s3 with coves := adel s3.coves c.1 }) s

/-- The pre-images of a context's launches on both dies, in the order they were taken. -/
def State.preImages (s : State) (ctx : Nat) (es : List Nat) : List PreImage :=
  ((s.craren.pool ++ s.dukor.pool).filter fun p => p.ctx == ctx && es.any fun k => p.launch == some k).mergeSort
    fun a b => decide (a.mark ≤ b.mark)

/-- The pre-images of launches written back, the first taken of each granule last. -/
def State.writePreImages (s : State) (d : DieId) (ctx : Nat) : List PreImage → Except Stop State
  | [] => .ok s
  | p :: rest =>
    match s.writePreImages d ctx rest with
    | .error e => .error e
    | .ok s1 =>
      match s1.agentWrite (frontAgent d ctx) p.va (memBytes p.bytes 0 granuleSize)
          ((List.range 4096).map fun i => p.tags.contains i) with
      | .error (.trap _ _) => .ok s1
      | r => r

/-- The pre-images of a launch dropped from both pools. -/
def State.dropPreImages (s : State) (ctx e : Nat) : State :=
  let drop (k : Die) : Die := { k with pool := k.pool.filter fun p => !(p.ctx == ctx && p.launch == some e) }
  (s.modDie .craren drop).modDie .dukor drop

/-- A launch ready to be placed again from its entry. -/
def State.replaceLaunch (s : State) (d : DieId) (ctx e : Nat) : State :=
  ((s.removeCoves d e).dropPreImages ctx e).modEntry d e fun x => { x with
    state := .ready
    unplaced := (List.range (recCoves x.record)).filter fun i => !x.cut.contains i
    placed := 0
    written := [] }

/-- The record of a launch that its last failure ends: the thread and the address that met it (R293). -/
def Entry.failRecord (x : Entry) (kind : Nat) : FaultRecord :=
  { x.failed.getD ⟨0, 0, 0, 0, 0, 0, 0, 0⟩ with kind := kind, cause := Cause.uncorrectable.code }

/-- A launch ended with an error and a record of a kind (R293, R402). -/
def State.failLaunch (s : State) (d : DieId) (ctx e kind : Nat) : State :=
  let f := match s.entry? d e with
    | some x => x.failRecord kind
    | none => ⟨kind, Cause.uncorrectable.code, 0, 0, 0, 0, 0, 0⟩
  let s1 := (s.launchRecord d e f).removeCoves d e
  (s1.dropPreImages ctx e).modEntry d e fun x => { x with
    state := .retiring
    unplaced := []
    placed := 0
    hold := 0
    failures := []
    failed := none }

/-- A core marked degraded: its contexts are pre-empted, to be restored elsewhere (R402). -/
def State.degrade (s : State) (d : DieId) (core : Nat) : State :=
  let ctxs := ((s.coves.filter fun e => e.1.die == d && e.1.core == core && e.2.band.isNone).map (·.2.ctx)).eraseDups
  ctxs.foldl (fun s c => s.beginStop c true false)
    (s.modCore d core fun k => { k with degraded := true })

/-- The frames of a die in use: those that contexts map, their tables, the Craren's mirrors, and the retired
ones. -/
def State.usedFrames (s : State) (d : DieId) : List Nat :=
  (s.contexts.flatMap fun e => ((s.mapped d e.1).map fun g => granuleOf g.2.1) ++ s.tableGranules d e.1
    ++ (match d, e.2.mirror with
      | .craren, some m => (List.range ((m.size + granuleSize - 1) / granuleSize)).map (granuleOf m.base + ·)
      | _, _ => [])) ++ (s.die d).retired

/-- A free block of n frames of a die in line with its length: the lowest one, since the choice is firmware's
(DESIGN CHOICE, log 66). -/
def State.freeBlock (s : State) (d : DieId) (n : Nat) : Option Nat :=
  let used := s.usedFrames d
  (((List.range (used.length + 1)).map (n * ·)).find? fun f => !used.any fun g => decide (f ≤ g) && decide (g < f + n)).filter
    fun f => decide ((f + n) * granuleSize ≤ s.mappable d)

/-- A granule under a leaf moved from one frame of a die to another: its data, its tags, its poison and its
directory entry. -/
def State.moveFrame (s : State) (d : DieId) (ctx : Nat) (leaf : DWord) (old g : Nat) : State :=
  let m := (s.die d).granuleMem (old * granuleSize) (s.keysOf d ctx leaf)
  let tags := sliceTags (s.die d).tags (old * granuleSize) granuleSize
  let s1 := (s.putFrame d ctx leaf (g * granuleSize) m tags).movePoison d d (old * granuleSize) (g * granuleSize)
  (s1.setDir d (g * granuleSize) (s.dirOf d (old * granuleSize))).setDir d (old * granuleSize) .home

/-- A leaf names another block of frames; translations and replicas of what it covers go. -/
def State.moveLeaf (s : State) (d : DieId) (ctx : Nat) (x : Xlat) (f : Nat) : State :=
  let leaf := (x.leaf &&& ~~~((0xFFFFFFFF : DWord) <<< 16)) ||| (BitVec.ofNat 64 f <<< 16)
  let drop (k : Die) : Die := k.loseReplicas none fun r => r.touches ctx x.base x.size
  (((s.writePhys d x.leafAt leaf).dropTlbs d fun e => e.ctx == ctx && e.base == x.base).modDie .craren drop).modDie
    .dukor drop

/-- A frame retired: firmware moves its granule to another frame, with the rest of what its leaf covers, for every
context that maps it. -/
def State.retireFrame (s : State) (d : DieId) (g : Nat) : State :=
  let s1 := s.modDie d fun x => { x with retired := if x.retired.contains g then x.retired else x.retired ++ [g] }
  let leaves := s.contexts.flatMap fun e => ((s1.leaves d e.1).filter fun x =>
    decide (pteGranule x.leaf ≤ g) && decide (g < pteGranule x.leaf + x.size / granuleSize)).map fun x => (e.1, x)
  match leaves with
  | [] => s1
  | (ctx, x) :: _ =>
    let n := x.size / granuleSize
    match s1.freeBlock d n with
    | none => s1
    | some f =>
      let s2 := (List.range n).foldl (fun s i => s.moveFrame d ctx x.leaf (pteGranule x.leaf + i) (f + i)) s1
      (leaves.filter fun y => pteGranule y.2.leaf == pteGranule x.leaf && y.2.size == x.size).foldl
        (fun s y => s.moveLeaf d y.1 y.2 f) s2

/-- The result of a lasting failure (R402). -/
def State.lastingFailure (s : State) (d : DieId) (ctx e : Nat) (again : Bool) (loc : ErrorAt) : State :=
  let s1 := s.failLaunch d ctx e 3
  match again, loc with
  | true, .core d' c => s1.degrade d' c
  | true, .sector d' n => s1.retireFrame d' (granuleOf (48 * n))
  | _, _ => s1

/-- A replay (R292, R402): once the launch stands idle, its coves end, its pre-images are written back,
and it is placed again; a failure classed as lasting ends it, and so does a launch that shares a written
granule and is not replayable. -/
def State.replay (s : State) (d : DieId) (e : Nat) : Except Stop State :=
  match s.entry? d e with
  | none => .ok s
  | some x =>
    if x.state != .replaying || !s.launchIdle d e then .ok s
    else
      let again := match x.failures with
        | [] => false
        | f :: rest => rest.contains f
      if again || decide (4 ≤ x.failures.length) then
        .ok (s.lastingFailure d x.ctx e again (x.failures.headD (.core d 0)))
      else
        let es := s.replaySet d x.ctx (s.die d).entries.length [e]
        if es.any fun k => k != e && !s.replayable d k then .ok (s.failLaunch d x.ctx e 4)
        else
          let s1 := es.foldl (fun s k => s.modEntry d k fun y => { y with state := .replaying }) s
          if !es.all fun k => s1.launchIdle d k then .ok s1
          else
            match s1.writePreImages d x.ctx (s1.preImages x.ctx es) with
            | .error stop => .error stop
            | .ok s2 => .ok (es.foldl (fun s k => s.replaceLaunch d x.ctx k) s2)

/-- REPLAY_RESTORE (R402). -/
def execReplayRestore (die : DieId) (entry : Nat) (s : State) : Host.Outcome State Fault Refusal :=
  attempt s (s.replay die entry)

/-! Evictions. -/

/-- STASH_EVICTION (R222): a stash sector part leaves its window; a dirty one is written back, and a
write-back that faults loses it, with a record of kind 2 (R240, R293). -/
def execStashEviction (cv : CoveRef) (window sector : Nat) (s : State) : Host.Outcome State Fault Refusal :=
  match s.cove? cv with
  | none => .next s
  | some c =>
    match aget c.windows window with
    | none => .next s
    | some w =>
      match w.parts.find? fun p => p.1 == sector with
      | none => .next s
      | some p =>
        match s.cleanParts none true cv c window w true [p] with
        | (s1, none) => .next s1
        | (s1, some (.stop (.trap cause a))) => .next (s1.losePart cv c cause a.toNat)
        | (s1, some (.poison a _)) => .next (s1.losePart cv c .uncorrectable a)
        | (_, some (.stop (.halt f))) => .fault f
        | (_, some (.stop .hold)) => .next s

/-- L1_EVICTION (R217). -/
def execL1Eviction (die : DieId) (core idx : Nat) (s : State) : Host.Outcome State Fault Refusal :=
  .next (s.modCore die core fun k => { k with l1 := k.l1.eraseIdx idx })

/-- TLB_EVICTION (R330): an entry leaves the TLBs of a core and of its cluster. -/
def execTlbEviction (die : DieId) (core idx : Nat) (s : State) : Host.Outcome State Fault Refusal :=
  match (s.core die core).tlb[idx]? with
  | none => .next s
  | some e => .next (s.dropTlb die core e.ctx e.base e.size)

/-! The host and firmware. -/

/-- HOST_ACCESS (R203): bytes written by the host, an application processor or firmware as an agent, at a
die's memory: a write at its home. -/
def execHostAccess (die : DieId) (pa : Nat) (data : List Byte) (s : State) : Host.Outcome State Fault Refusal :=
  let parts := granuleParts pa data.length
  if Config.dramBytes die < pa + data.length then .fault .noDram
  else if parts.any fun p => s.dirOf die p.1 == .transfer then .next s
  else
    let s1 := (parts.foldl (fun s p => s.rekey die p.1 none) s).modDie die fun x => { x with
      dram := memPut x.dram pa data
      tags := tagClear x.tags pa data.length }
    .next ((parts.foldl (fun s p => s.dropReplicas none die p.1 p.2) s1).wakeDram die pa data.length)

/-- A queue descriptor as the host writes it (R286): a size below 4 or a reserved field that is not zero
disables the queue, in a fault queue the launch queue's own fields too; bit 2 reads as zero. Of the indices
the host owns the write index of a host-fed launch queue and the read index of the fault queue (R284). -/
def descriptorOf (fault : Bool) (ctx : Nat) (v : Quad) (old : Queue) : Queue :=
  let bad := qbits v 92 4 < 4 || qbits v 55 37 != 0
    || (fault && (qbits v 4 2 != 0 || qbits v 3 1 != 0 || qbits v 1 1 != 0))
  { old with
    write := if fault || qbits v 1 1 == 1 then old.write else BitVec.ofNat 16 (qbits v 112 16)
    read := if fault then BitVec.ofNat 16 (qbits v 96 16) else old.read
    size := qbits v 92 4
    base := 64 * qbits v 6 49
    priority := if fault then 0 else qbits v 4 2
    replayable := !fault && qbits v 3 1 == 1
    deviceFed := !fault && qbits v 1 1 == 1
    enable := qbits v 0 1 == 1 && !bad
    ctx := ctx }

/-- A launch queue's descriptor written; a nonzero reserved field disables it as an overrun does. -/
def State.writeLaunchQueue (s : State) (d : DieId) (vi q ctx : Nat) (v : Quad) : State :=
  let x := descriptorOf false ctx v (s.queue d vi q)
  let s1 := s.setQueue d vi q x
  if qbits v 0 1 = 1 ∧ !x.enable then s1.overrun d vi q else s1.checkCount d vi q

/-- REGISTER_WRITE (R413): a device register without behaviour of its own. An interface that no one
created takes no write. The reserved bits of a debug policy word stay zero (R355). -/
def execRegisterWrite (die : DieId) (reg : DevReg) (v : Quad) (s : State) : Host.Outcome State Fault Refusal :=
  match reg with
  | .launchQueue vi q ctx =>
    if (s.vi die vi).created && decide (q < 8) then .next (s.writeLaunchQueue die vi q ctx v) else .next s
  | .faultQueue vi ctx =>
    if (s.vi die vi).created then
      .next (s.modVi die vi fun i => { i with faults := descriptorOf true ctx v i.faults })
    else .next s
  | .debugPolicy vi =>
    if (s.vi die vi).created then
      .next (s.modVi die vi fun i => { i with debugWord := BitVec.ofNat 32 (qbits v 0 2) })
    else .next s
  | .displayContext vi ctx =>
    if (s.vi die vi).created then .next (s.modVi die vi fun i => { i with display := some ctx }) else .next s
  | .headInterface head vi =>
    if 1 ≤ head ∧ head ≤ Config.heads die ∧ (s.vi die vi).created then
      .next (s.modHead die head fun h => { h with vi := some vi })
    else .next s
  | .snapshotPool =>
    if (s.die die).description.isNone && (s.die die).pool.isEmpty
        && decide (qbits v 0 32 * granuleSize ≤ Config.mappable die) then
      .next (s.modDie die fun x => { x with poolGranules := qbits v 0 32 })
    else .next s
  | .snapshotKinds => .next (s.modDie die fun x => { x with faultKinds := qbits v 0 8 })
  | .head head offset =>
    if 1 ≤ head ∧ head ≤ Config.heads die then .next (s.writeHeadReg die head offset (v.setWidth 64)) else .next s

/-! Contexts. -/

/-- A context as firmware creates it (R324, R399, R400, R428): only an unprotected one has a mirror. -/
def newContext (d : DieId) (spec : CtxSpec) : Context where
  die := d
  home := d
  vi := spec.vi
  rootCraren := if d = .craren then some spec.root else none
  rootDukor := if d = .dukor then some spec.root else none
  saveBase := spec.saveBase
  saveSize := spec.saveSize
  keySlot := spec.protectedSlot
  mirror := if spec.mirrorSize = 0 ∨ spec.protectedSlot.isSome then none
            else some ⟨spec.mirrorHost, spec.mirrorBase, spec.mirrorSize, spec.mirrorEntries⟩
  bindings := []
  started := false
  strong := false
  status := .live
  ckpt := none
  askers := []
  asked := false
  evict := false
  recorded := 0
  committed := 0
  stream := none
  copies := []
  saved := []
  blocks := []
  places := []
  behind := []
  bad := []
  loose := []
  waiting := []
  left := none
  leftMark := 0
  marks := []

/-- A key slot filled with two keys from the die's entropy source (R428). -/
def State.fillSlot (s : State) (d : DieId) (slot ctx : Nat) : State :=
  s.modDie d fun x => { x with
    slots := aput x.slots slot ⟨Config.entropy d x.entropy, Config.entropy d (x.entropy + 1), some ctx, .active⟩
    entropy := x.entropy + 2 }

/-- A second root given to a context on the other die (R326, R331): its frames there whose granules are
homed on the first die become peer frames. -/
def State.addRoot (s : State) (d : DieId) (ctx : Nat) (x : Context) (root : Nat) : State :=
  let s1 := s.modCtx ctx fun c => { c with
    rootCraren := if d = .craren then some root else c.rootCraren
    rootDukor := if d = .dukor then some root else c.rootDukor }
  let o := otherDie d
  let there := ((s1.mapped o ctx).filter fun g => s1.dirOf o g.2.1 == .home).map Prod.fst
  if x.keySlot.isSome then s
  else ((s1.mapped d ctx).filter fun g => there.contains g.1).foldl (fun s g => s.setDir d g.2.1 .peer) s1

/-- A save area has room for its descriptor, its spill block map, its blocks and the fixed parts of an image
(R324, R363), and stands in line. -/
def saveFits (x : CtxSpec) : Bool :=
  let head := (0x1040 + (x.blocks + 7) / 8 + 63) / 64 * 64
  let pool := if x.blocks = 0 then head else (head + 65535) / 65536 * 65536 + 8192 * x.blocks
  x.saveBase % granuleSize == 0 && decide (pool + 4352 ≤ x.saveSize)

/-- The frames that a teardown blocks on a die (R432): those that its context maps there, and its tables. -/
def State.blockedFrames (s : State) (d : DieId) : List Nat :=
  match (s.die d).scrub with
  | none => []
  | some j => ((s.mapped d j.ctx).filterMap fun g => if s.dirOf d g.2.1 = .home then some (granuleOf g.2.1) else none)
      ++ s.tableGranules d j.ctx

/-- What firmware gives a new context on a die is not blocked by a teardown (R432): neither its interface, nor its
root, nor the Craren's frames of its mirror. -/
def State.unblocked (s : State) (d : DieId) (spec : CtxSpec) : Bool :=
  let busy := match (s.die d).scrub with
    | none => false
    | some j => (s.ctx? j.ctx).any fun c => c.die == d && c.vi == spec.vi
  !busy && !(s.blockedFrames d).contains (granuleOf spec.root)
    && (spec.mirrorHost || !(s.blockedFrames .craren).any fun g =>
      decide (granuleOf spec.mirrorBase ≤ g) && decide (g * granuleSize < spec.mirrorBase + spec.mirrorSize))

/-- CONTEXT_CREATE (R428): a new context, or a root on the other die for one that exists. Firmware creates
no context in an interface that no one created, with a root out of line (R326), with a save area out of line
or too small (R324), with a key slot that is not free (R339), or with what a teardown blocks (R432). -/
def execContextCreate (die : DieId) (ctx : Nat) (spec : CtxSpec) (s : State) : Host.Outcome State Fault Refusal :=
  let rootOk := (s.die die).power == .d0 && s.unblocked die spec && spec.root % granuleSize == 0 && decide (spec.root + granuleSize ≤ Config.dramBytes die)
  match s.ctx? ctx with
  | some x =>
    if x.status = .lost ∨ (x.status ≠ .suspended ∧ x.rootCraren = none ∧ x.rootDukor = none) then
      if rootOk && (s.vi die spec.vi).created && saveFits spec && spec.protectedSlot.isNone then
        .next (({ s with contexts := aput s.contexts ctx (newContext die spec) }.layOutHost ctx).republish die)
      else .next s
    else if rootOk && (x.root die).isNone then .next (s.addRoot die ctx x spec.root)
    else .next s
  | none =>
    let slotOk := match spec.protectedSlot with
      | none => true
      | some k => decide (k < Config.keySlots die) && ((s.die die).keySlot k).state == .free
    if rootOk && slotOk && (s.vi die spec.vi).created && saveFits spec && decide (ctx < 4096) then
      let s1 : State := { s with contexts := aput s.contexts ctx (newContext die spec) }
      .next (((match spec.protectedSlot with
        | none => s1
        | some k => s1.fillSlot die k ctx).layOutHost ctx).republish die)
    else .next s

end Sys2Proof.Machine
end

