-- ==== Sys2Proof/Machine/Sha3.lean ====
section
/-! DEFINITION. SHA3-512 (R438, R439), as FIPS 202 defines it, over byte lists. -/

namespace Sys2Proof.Machine

/-- The state of the permutation: bit z of the lane in column x and row y is bit 64 (x + 5 y) + z. -/
abbrev Sponge := BitVec 1600

/-- The lane of a column and a row, each counted modulo 5. -/
def Sponge.lane (a : Sponge) (x y : Nat) : DWord := a.extractLsb' (64 * (x % 5 + 5 * (y % 5))) 64

/-- The state whose lanes a function gives: lanes from the last to the first, each below the last. -/
def Sponge.build (f : Nat → Nat → DWord) : Nat → Nat
  | 0 => 0
  | n + 1 => Sponge.build f n + (f (n % 5) (n / 5)).toNat * 2 ^ (64 * n)

def Sponge.ofLanes (f : Nat → Nat → DWord) : Sponge := BitVec.ofNat 1600 (Sponge.build f 25)

/-- The rotation of the lane in a column and a row: the t-th lane of the walk that starts in column 1 of
row 0 and goes from (x, y) to (y, 2x + 3y) turns by the triangular number of t; the lane at the origin
is never met. -/
def walkTurn (x y : Nat) : Nat → Nat → Nat → Nat → Nat
  | 0, _, _, _ => 0
  | n + 1, t, u, v => if u = x ∧ v = y then t * (t + 1) / 2 % 64 else walkTurn x y n (t + 1) v ((2 * u + 3 * v) % 5)

def laneTurn (x y : Nat) : Nat := walkTurn (x % 5) (y % 5) 24 1 1 0

/-- The register that the round constants are drawn from, after some shifts: eight bits with feedback
x^8 + x^6 + x^5 + x^4 + 1. -/
def shiftReg : Nat → Nat
  | 0 => 1
  | n + 1 => if 128 ≤ shiftReg n then (2 * shiftReg n).xor 0x171 else 2 * shiftReg n

/-- The constant of a round: bit 2^j - 1 is the low bit of the register after j + 7 shifts a round. -/
def roundWord (r : Nat) : DWord :=
  (List.range 7).foldl (fun w j => bitPut w (2 ^ j - 1) ((shiftReg (j + 7 * r)).testBit 0)) 0

/-- What the first step of a round adds to the lanes of a column: the parities of the columns beside it. -/
def Sponge.spread (a : Sponge) (x : Nat) : DWord :=
  let parity (x : Nat) : DWord := (List.range 5).foldl (fun w y => w ^^^ a.lane x y) 0
  parity (x + 4) ^^^ (parity (x + 1)).rotateLeft 1

/-- The linear steps of a round: spread, turned, and moved from column x of row y to row 2x + 3y of
column y; read backwards, column y of row z comes from column y + 3z of row y. -/
def Sponge.mix (a : Sponge) : Sponge :=
  let spread := (List.range 5).map a.spread
  Sponge.ofLanes fun y z =>
    (a.lane (y + 3 * z) y ^^^ spread.getD ((y + 3 * z) % 5) 0).rotateLeft (laneTurn (y + 3 * z) y)

/-- The last steps of a round: each lane with the two after it in its row, and the constant at the
origin. -/
def Sponge.choose (a : Sponge) (r : Nat) : Sponge :=
  Sponge.ofLanes fun x y =>
    let v := a.lane x y ^^^ (a.lane (x + 2) y &&& ~~~ a.lane (x + 1) y)
    if x = 0 ∧ y = 0 then v ^^^ roundWord r else v

/-- The permutation. -/
def Sponge.permute (a : Sponge) : Sponge := (List.range 24).foldl (fun a r => a.mix.choose r) a

/-- Blocks of 72 bytes absorbed; the last one, shorter, with its padding. -/
def absorb : Nat → Sponge → List Byte → Sponge
  | 0, a, _ => a
  | n + 1, a, bs =>
    let took (block : Nat) : Sponge := (a ^^^ BitVec.ofNat 1600 block).permute
    if bs.length < 72 then took (leNat bs + 6 * 2 ^ (8 * bs.length) + 2 ^ 575)
    else absorb n (took (leNat (bs.take 72))) (bs.drop 72)

/-- SHA3-512 of a message: its 64 bytes as one number, the first byte lowest. -/
def sha3 (bs : List Byte) : BitVec 512 := (absorb (bs.length / 72 + 1) 0 bs).setWidth 512

/-- The 64 bytes of a digest or of a measurement register. -/
def digestBytes (v : BitVec 512) : List Byte := leBytes 64 v.toNat

end Sys2Proof.Machine
end

