-- ==== Sys2Proof/Machine/Device.lean ====
section
/-! DEFINITION. Protection and bring-up: teardown by the scrub engine (R430 to R433), interface reset
(R435), wipes (R434), life-cycle states (R436), snapshot registers (R437), boot, measurement and
attestation (R438 to R440), power states and clocks (R441), and the device description (R12). -/

namespace Sys2Proof.Machine

/-! Teardown. -/

/-- SCRUBPOS of a stage and a count of bytes (R431). -/
def scrubWord (stage done : Nat) : DWord := BitVec.ofNat 64 (stage * 2 ^ 61 + done % 2 ^ 48)

/-- The teardown of a die in a new state, which SCRUBPOS reports. -/
def State.setScrub (s : State) (d : DieId) (j : ScrubJob) : State :=
  s.modDie d fun x => { x with scrub := some j, scrubPos := scrubWord j.stage j.done }

/-- The held scratchpad of a context in steps of 4 KiB, by core and then offset (R430). -/
def State.scratchSteps (s : State) (d : DieId) (ctx : Nat) : List (Nat × Nat) :=
  ((s.coves.filter fun e => e.1.die == d && e.2.ctx == ctx).flatMap fun e =>
    (List.range (e.2.scratchSize / 4096)).map fun i => (e.1.core, e.2.scratchBase + 4096 * i)).mergeSort
      fun a b => decide (a.1 < b.1 ∨ (a.1 = b.1 ∧ a.2 ≤ b.2))

/-- The frames of a context that the scrub zeroes, in its order (R430). -/
def State.scrubFrames (s : State) (d : DieId) (ctx : Nat) : List Nat :=
  ((s.mapped d ctx).filterMap fun g => if s.dirOf d g.2.1 = .home then some (granuleOf g.2.1) else none)
    ++ s.tableGranules d ctx

/-- The cores of a die without a context's L1 copies and decoded clauses. -/
def State.dropCached (s : State) (d : DieId) (ctx : Nat) : State :=
  s.modDie d fun x => { x with cores := x.cores.map fun k => (k.1, { k.2 with
    l1 := k.2.l1.filter fun e => e.ctx != ctx
    dop := k.2.dop.filter fun e => e.ctx != ctx }) }

/-- A frame zeroed through the home slice, with its tags and its errors, and in the clear from now on. -/
def State.scrubFrame (s : State) (d : DieId) (g : Nat) : State :=
  ((s.healSectors d (g * granuleSize) granuleSize).modDie d fun x => { x with
    dram := memZero x.dram (g * granuleSize) granuleSize
    tags := tagClear x.tags (g * granuleSize) granuleSize
    cipher := adel x.cipher g }).wakeDram d (g * granuleSize) granuleSize

/-- The end of a teardown (R430, stage 4): the slot is free, and all that was held is released. -/
def State.endScrub (s : State) (d : DieId) (j : ScrubJob) : State :=
  let s1 := s.dropTlbs d fun e => e.ctx == j.ctx
  let s2 : State := { s1 with
    coves := s1.coves.filter fun e => !(e.1.die == d && e.2.ctx == j.ctx)
    contexts := adel s1.contexts j.ctx }
  s2.modDie d fun x => { x with
    cores := x.cores.map fun k => (k.1, { k.2 with slots := k.2.slots.filter fun v => bindCtx v.2 != j.ctx })
    slots := aput x.slots j.slot ⟨0, 0, none, .free⟩
    scrub := none
    scrubPos := scrubWord 4 j.done
    scrubDone := 1
    scrubWait := [] }

/-- The key slots in use of the protected contexts of an interface, in rising order. -/
def State.slotsOf (s : State) (d : DieId) (vi : Nat) : List Nat :=
  ((s.die d).slots.filterMap fun k =>
    if k.2.state = .active ∧ (k.2.owner.bind s.ctx?).any (fun c => c.die == d && c.vi == vi) then some k.1
    else none).mergeSort fun a b => decide (a ≤ b)

/-- An interface reset goes on (R435): the next protected context is torn down, or, with none left, its
queues and its granularity table are emptied. -/
def State.resetInterface (s : State) (d : DieId) (vi : Nat) : State :=
  if (s.die d).scrub.isSome then s
  else
    match s.slotsOf d vi with
    | k :: _ => s.startScrub d k
    | [] => s.modVi d vi fun i => { i with
        queues := List.replicate 8 Queue.reset
        faults := Queue.reset
        granularity := [0, 0, 0, 0]
        resetting := false }

/-- Interface resets that waited for a teardown go on (R433). -/
def State.resumeResets (s : State) (d : DieId) : State :=
  ((s.die d).vis.filter fun e => e.2.resetting).foldl (fun s e => s.resetInterface d e.1) s

/-- The sectors of the scratchpad of a context's coves, once all of it is zeroed, hold no error. -/
def State.healCoves (s : State) (d : DieId) (ctx : Nat) : State :=
  (s.coves.filter fun e => e.1.die == d && e.2.ctx == ctx).foldl
    (fun s e => (s.freshScratch d e.1.core e.2.scratchBase e.2.scratchSize).modCore d e.1.core fun k =>
      k.heal e.2.scratchBase e.2.scratchSize) s

/-- One step of the scrub engine, or its move to the next stage (R430). -/
def State.scrubStep (s : State) (d : DieId) : State :=
  match (s.die d).scrub with
  | none => s
  | some j =>
    match j.stage with
    | 0 =>
      let s1 := s.setScrub d { j with stage := 1 }
      (((s1.die d).entries.filter fun e => e.2.ctx == j.ctx).map Prod.fst).foldl (fun s e => s.cancelEntry d e) s1
    | 1 =>
      let s1 := s.finishCoves d
      if (s1.coves.filter fun e => e.1.die == d && e.2.ctx == j.ctx).all fun e => e.2.complete then
        s1.setScrub d { j with stage := 2, scratch := s1.scratchSteps d j.ctx }
      else s1
    | 2 =>
      match j.scratch with
      | (c, a) :: rest =>
        (s.zeroScratch d c a 4096).setScrub d { j with scratch := rest, done := j.done + 4096 }
      | [] => ((s.healCoves d j.ctx).dropCached d j.ctx).setScrub d { j with stage := 3, granules := s.scrubFrames d j.ctx }
    | _ =>
      match j.granules with
      | g :: rest => (s.scrubFrame d g).setScrub d { j with granules := rest, done := j.done + granuleSize }
      | [] => (s.endScrub d j).resumeResets d

/-- SCRUB_STEP (R430). -/
def execScrubStep (die : DieId) (s : State) : Host.Outcome State Fault Refusal := .next (s.scrubStep die)

/-- VIRTUAL_INTERFACE_RESET (R435): it waits for a teardown in progress (R433). -/
def execVirtualInterfaceReset (die : DieId) (vi : Nat) (s : State) : Host.Outcome State Fault Refusal :=
  .next ((s.modVi die vi fun i => { i with resetting := true }).resetInterface die vi)

/-! Wipes. -/

/-- The contexts after the wipe of a die: a context keeps only what it has on the other die. -/
def wipedContexts (d : DieId) (l : Assoc Nat Context) : Assoc Nat Context :=
  (l.map fun e => (e.1, { e.2 with
    rootCraren := if d = .craren then none else e.2.rootCraren
    rootDukor := if d = .dukor then none else e.2.rootDukor })).filter fun e =>
      (e.2.rootCraren.isSome || e.2.rootDukor.isSome) && (e.2.die != d || e.2.status == .suspended)

/-- The wipe of a die (R434): all it holds is at its reset value; its fuses keep its life-cycle state, and
the partner sees the link go down. -/
def State.wipe (s : State) (d : DieId) (power : Power) : State :=
  let s1 := s.removeLink
  let x := s1.die d
  let s2 := s1.setDie d { Die.reset with
    lifeCycle := x.lifeCycle
    power := power
    entropy := x.entropy
    flash := x.flash }
  { s2 with
    contexts := wipedContexts d s2.contexts
    coves := s2.coves.filter fun e => e.1.die != d
    crews := s2.crews.filter fun e => e.1.1.die != d
    threads := s2.threads.filter fun e => e.1.die != d
    reports := s2.reports.filter fun e => e.die != d
    upsets := s2.upsets.filter fun u => match u with
      | .reg e _ _ _ _ => e != d
      | .strand cv _ _ _ => cv.die != d
      | .sector e _ _ => e != d
      | .scratch e _ _ _ => e != d
    issue := s2.issue.filter fun i => i.die != d
    link := { s2.link with reqs := s2.link.reqs.filter fun q => q.die != d } }

/-- The order of the life-cycle states (R436). -/
def lifeOrder : LifeCycle → Nat
  | .manufacture => 0
  | .development => 1
  | .production => 2
  | .retired => 3

/-! Bring-up. -/

/-- A measurement register extended (R439). -/
def extend (m : BitVec 512) (component : List Byte) : BitVec 512 :=
  sha3 (digestBytes m ++ digestBytes (sha3 component))

/-- The failure code of a firmware image, 0 where it is accepted (R438): the number of the step that
fails. -/
def bootFailure (d : DieId) (l : LifeCycle) (image signature : List Byte) (version : Nat) : Nat :=
  if image = [] then 4
  else if l = .retired ∨ !Config.verifySignature d (lifeOrder l) (sha3 image) signature then 6
  else if version < Config.minSecurityVersion d then 7
  else 0

/-- The boot of a die by its ROM (R438, steps 3 to 8): the wipe, the checks of the firmware image in the board's
flash, and with it in control its measurement, the identity key pair and the certificate of its public key (R439,
R440). A failure, or a flash without an image, holds the die in the ROM. -/
def State.boot (s : State) (d : DieId) : State :=
  let (image, signature, version) := (s.die d).flash.getD ([], [], 0)
  let f := bootFailure d (s.die d).lifeCycle image signature version
  if f ≠ 0 then s.wipe d (.rom f)
  else
    let seed := Config.identitySeed d (extend 0 image)
    (s.wipe d .d0).modDie d fun x => { x with
      measures := x.measures.set 0 (extend 0 image)
      identity := seed
      publicKey := Config.publicKey seed
      certificate := Config.certify d (Config.publicKey seed)
      version := version }

/-- POWER_GOOD (R438): the die boots the image that the board's flash holds. -/
def execPowerGood (die : DieId) (image signature : List Byte) (secVersion : Nat) (s : State) :
    Host.Outcome State Fault Refusal :=
  .next ((s.modDie die fun x => { x with flash := some (image, signature, secVersion) }).boot die)

/-- DEVICE_RESET (R434, R438). -/
def execDeviceReset (die : DieId) (s : State) : Host.Outcome State Fault Refusal := .next (s.boot die)

/-- LIFE_CYCLE_CHANGE (R434, R436): only forward, with a wipe; the die then boots an image that the new state
accepts, if its flash has one. -/
def execLifeCycleChange (die : DieId) (state : LifeCycle) (s : State) : Host.Outcome State Fault Refusal :=
  if lifeOrder (s.die die).lifeCycle < lifeOrder state then
    .next ((s.modDie die fun x => { x with lifeCycle := state }).boot die)
  else .next s

/-- DEVICE_DESCRIPTION_PUBLISH (R12, R405): firmware publishes the counts of R11, what its interfaces
report and the contexts lost. -/
def execDeviceDescriptionPublish (die : DieId) (s : State) : Host.Outcome State Fault Refusal :=
  if (s.die die).power = .d0 then
    .next (s.modDie die fun x => { x with description := some (s.describe die) })
  else .next s

/-- MEASUREMENT_EXTEND (R439): firmware in control extends registers 1 to 7; register 0 is the ROM's. -/
def execMeasurementExtend (die : DieId) (reg : Fin 8) (component : List Byte) (s : State) :
    Host.Outcome State Fault Refusal :=
  if reg = 0 ∨ (s.die die).power ≠ .d0 then .next s
  else .next (s.modDie die fun x => { x with
    measures := x.measures.set reg.val (extend (x.measures.getD reg.val 0) component) })

/-- The name of a die in a report. -/
def dieName : DieId → List Byte
  | .craren => [67, 114, 97, 114, 101, 110]
  | .dukor => [68, 117, 107, 111, 114]

/-- What an attestation report holds (R440), before its signature. -/
def Die.reportBytes (x : Die) (d : DieId) (nonce : BitVec 512) : List Byte :=
  digestBytes nonce ++ dieName d ++ [BitVec.ofNat 8 (lifeOrder x.lifeCycle)] ++ leBytes 8 x.version
    ++ x.measures.flatMap digestBytes

/-- ATTESTATION_REQUEST (R440): a report for the interface that asked, signed with the identity key. -/
def execAttestationRequest (die : DieId) (vi : Nat) (nonce : BitVec 512) (s : State) :
    Host.Outcome State Fault Refusal :=
  if (s.die die).power = .d0 ∧ (s.vi die vi).created then
    .next (s.modDie die fun x => { x with
      report := some (vi, x.reportBytes die nonce ++ Config.signReport x.identity (x.reportBytes die nonce)) })
  else .next s

/-! Snapshot registers (R437). -/

/-- SNAPSHOT_TRIGGER (R437). -/
def execSnapshotTrigger (die : DieId) (seq : BitVec 16) (s : State) : Host.Outcome State Fault Refusal :=
  .next (s.trigger die seq)

/-- SNAPSHOT_REARM (R437). -/
def execSnapshotRearm (die : DieId) (block : Block) (s : State) : Host.Outcome State Fault Refusal :=
  .next (s.modDie die fun x => { x with spent := x.spent.erase block })

/-! Power states and clocks (R441). -/

/-- Every context of a die pre-empted. -/
def State.stopContexts (s : State) (d : DieId) : Except Stop State :=
  (s.contexts.filter fun e => e.2.die == d).foldl (fun acc e =>
    match acc with
    | .error x => .error x
    | .ok s =>
      match (s.beginStop e.1 true false).finishStop e.1 with
      | .error (.halt f) => .error (.halt f)
      | .error _ => .ok (s.beginStop e.1 true false)
      | .ok s1 => .ok s1) (.ok s)

/-- No context of a die runs or is about to stop. -/
def State.contextsQuiet (s : State) (d : DieId) : Bool :=
  s.contexts.all fun e => e.2.die != d || (e.2.status != .live && e.2.status != .stopping)

/-- The next part of an entry to D3 (R441): every head stops as clearing its enable does; once they have, every
other context is pre-empted; once they are, the die is in D3hot, or D3cold loses all state. -/
def State.enterD3 (s : State) (d : DieId) (cold : Bool) : Except Stop State :=
  let on := (s.die d).heads.filter fun h => h.2.enabled
  if !on.isEmpty then .ok (on.foldl (fun s h => s.modHead d h.1 fun h => { h with stopping := true }) s)
  else
    match s.stopContexts d with
    | .error e => .error e
    | .ok s1 =>
      if !s1.contextsQuiet d then .ok s1
      else .ok (if cold then s1.wipe d .off else s1.modDie d fun x => { x with power := .d3 })

/-- D3_ENTRY (R441): firmware goes on with the entry, as often as it takes. -/
def execD3Entry (die : DieId) (cold : Bool) (s : State) : Host.Outcome State Fault Refusal :=
  if (s.die die).power != .d0 then .next s else attempt s (s.enterD3 die cold)

/-- D0_RETURN (R441): after D3cold, with the wipe and the boot that follows it (R438). -/
def execD0Return (die : DieId) (s : State) : Host.Outcome State Fault Refusal :=
  match (s.die die).power with
  | .d3 => .next (s.modDie die fun x => { x with power := .d0 })
  | .off => .next (s.boot die)
  | _ => .next s

/-- CLOCK_CHANGE (R441): a block's clock changes, and with it duration only. -/
def execClockChange (die : DieId) (block : Block) (kilohertz : Nat) (s : State) :
    Host.Outcome State Fault Refusal :=
  .next (s.modDie die fun x => { x with clocks := aput x.clocks block kilohertz })

end Sys2Proof.Machine
end

