-- ==== Sys2Proof/Machine/MemInstr.lean ====
section
/-! DEFINITION. The memory instructions (R237 to R250). -/

namespace Sys2Proof.Machine

/-- The L1 invalidation of an acquire at .bay or wider (R212, R218). -/
def State.acquireL1 (s : State) (c : Cur) (scope : Scope) : State :=
  match scope with
  | .thr | .cove => s
  | _ => s.clearL1 c.r.die c.r.core c.ctx

/-- The value of an acquire operation (R214, R218): what it invalidates, and its destination. -/
def State.acquired (s : State) (c : Cur) (scope : Scope) (d : Opnd) (v : Quad) : State :=
  (s.acquireL1 c scope).deliverReg c d .w64 v false

/-- acq on an object of space 0 (R218): an object homed on the peer is read over the link, and the lane is
held until its value is there (R247). -/
def State.acquireGlobal (s : State) (c : Cur) (scope : Scope) (sys : Bool) (d : Opnd) (a : Nat) :
    Except (State × Stop) State :=
  let g := c.agent sys
  match s.locate g .read a 8 with
  | .error e => .error (s, e)
  | .ok l =>
    if s.owes c.r a 8 then .error (s, .hold)
    else
      afterParts c true (fun s1 =>
        let s2 := (s1.dropBound c.r.die c.r.core c.ctx a).dropL1 c.r.die c.r.core c.ctx a 8
        if s2.farRead { g with core := none } [l] then .error (s2.askWait c 0 a 8 sys .acquire, .hold)
        else
          match s2.readLocs g [l] with
          | (s3, _, some x) => .ok (s3.deferFault c .uncorrectable (dw x) (s3.errorAt c.ctx x))
          | (s3, bs, none) => .ok (s3.acquired c scope d (quadOf bs)))
        (s.cleanBound (some c) sys c.t.cove c.ctx a true)

/-- acq (R218, R247). -/
def acqOp (s : State) (gd : Guard) (scope : Scope) (d a b : Opnd) : Host.Outcome State Fault Refusal :=
  onceComparing s gd [(a, .w128), (b, .w32)] id fun s c vs =>
    s.afterOwn c true (fun s v _ => s.acquired c scope d v) fun s =>
      let cap := nth vs 0
      match checkCap cap.1 cap.2 permRead (lo32 (nth vs 1)) 8 with
      | .error e => .error (s, e)
      | .ok x =>
        if x % 8 ≠ 0 then .error (s, .trap .align (dw x))
        else
          match capSpace cap.1 with
          | 0 => s.acquireGlobal c scope (capSystem cap.1) d x
          | 2 =>
            match s.readSpace c 2 x 8 false with
            | .error e => .error (s, e)
            | .ok (s1, v) =>
              match v.bad with
              | some (y, loc) => .ok (s1.deferFault c .uncorrectable y loc)
              | none => .ok (s1.acquired c scope d (quadOf v.bytes))
          | 6 =>
            if s.spaceUp c.r.die c.ctx 6 then
              .error (s.askWait c 6 x 8 (capSystem cap.1) .acquire, .hold)
            else .error (s, .trap .loadFault (dw x))
          | _ => .error (s, .trap .loadFault (dw x))

/-- The write of a rel's object (R219, step 3). -/
def State.releaseWrite (s : State) (c : Cur) (cap : Quad) (a : Nat) (bs : List Byte) :
    Except (State × Stop) State :=
  match capSpace cap with
  | 0 => s.storeGlobal c (capSystem cap) (.release ·) a bs false
  | 6 => s.ask c 6 a 8 (capSystem cap) (.release bs) false
  | _ =>
    match s.scratchOf c 2 a 8 with
    | .error e => .error (s, e)
    | .ok (core, p) => .ok (s.scratchPut c.r.die core p bs)

/-- The checks of rel's object that come before its first effect (R235, R247). -/
def State.releaseCheck (s : State) (c : Cur) (cap : Quad) (a : Nat) : Except (State × Stop) State :=
  if a % 8 ≠ 0 then .error (s, .trap .align (dw a))
  else
    match capSpace cap with
    | 0 =>
      match s.locate (c.agent (capSystem cap)) .write a 8 with
      | .error e => .error (s, e)
      | .ok l =>
        match s.askOwnership (c.agent (capSystem cap)) [l] with
        | some s1 => .error (s1, .hold)
        | none => .ok s
    | 2 =>
      match s.scratchOf c 2 a 8 with
      | .error e => .error (s, e)
      | .ok _ => .ok s
    | 6 => if s.spaceUp c.r.die c.ctx 6 then .ok s else .error (s, .trap .storeFault (dw a))
    | _ => .error (s, .trap .storeFault (dw a))

/-- rel (R219, R247): it waits as the fence at its scope does, writes back the bound stash sectors,
and writes the object. -/
def relOp (s : State) (gd : Guard) (scope : Scope) (a b x : Opnd) : Host.Outcome State Fault Refusal :=
  onceComparing s gd [(a, .w128), (b, .w32), (x, .w64)] (seenStore 8 false) fun s c vs =>
    s.afterOwn c true (fun s _ _ => s) fun s =>
      let cap := nth vs 0
      match checkCap cap.1 cap.2 permWrite (lo32 (nth vs 1)) 8 with
      | .error e => .error (s, e)
      | .ok y =>
        match s.releaseCheck c cap.1 y with
        | .error e => .error e
        | .ok s1 =>
          match s1.fenceAt c scope with
          | .error e => .error e
          | .ok s2 =>
            afterParts c true (fun s3 => s3.releaseWrite c cap.1 y (quadBytes 8 (nth vs 2).1))
              (if capSpace cap.1 = 0 then s2.cleanBound (some c) (capSystem cap.1) c.t.cove c.ctx y false
               else (s2, none))

/-- fence (R212, R248). -/
def fenceOp (s : State) (gd : Guard) (scope : Scope) : Host.Outcome State Fault Refusal :=
  onceComparing s gd [] id fun s c _ => s.fenceAt c scope

/-- icinv (R248): the lines of the byte instruction cache are coherent with memory and hold nothing
of their own (R226). -/
def icinvOp (s : State) (gd : Guard) (scope : Scope) : Host.Outcome State Fault Refusal :=
  onceComparing s gd [] id fun s c _ =>
    .ok ((s.scopeCores c scope).foldl (fun s k => s.dropDop k.1 k.2 c.ctx) s)

/-- One part of a line brought into the L1 where it can be (R249). -/
def State.prefetchPart (s : State) (g : Agent) (core a : Nat) : State :=
  match s.locate g .read a 1 with
  | .ok l => ((s.noteLoc g false l).loadPart g core l (partStart a)).1
  | .error _ => s

/-- pf (R249): nothing where the address itself cannot be read. -/
def State.prefetch (s : State) (c : Cur) (cap : Quad) (a : Nat) : State :=
  match capSpace cap with
  | 0 | 7 =>
    match s.locate (c.agent (capSystem cap)) .read a 1 with
    | .error _ => s
    | .ok _ => (rangeParts (a / 192 * 192) 192).foldl
        (fun s p => s.prefetchPart (c.agent (capSystem cap)) c.r.core p) s
  | 1 => (s.stashOpen none c (capSystem cap) .loadFault [.read] a 1).1
  | _ => s

/-- A hint: once for a protected pair, whose difference traps (R256); a poisoned operand ends it with
nothing raised (R249; log 105). -/
def hinting (s : State) (gd : Guard) (srcs : List (Opnd × Width))
    (k : State → Cur → List (Quad × Bool) → State) : Host.Outcome State Fault Refusal :=
  withCur s fun c0 =>
    if !guardHolds gd c0.t || isShadow c0.cv c0.r then .next s
    else
      let s1 := s.touch c0.r (srcs.flatMap fun x => x.1.names x.2)
      withCur s1 fun c =>
        match readPair s1 c srcs id with
        | .error (.trap .uncorrectable _) => .next s1
        | .error e => concludePair s1 c (.error e)
        | .ok vs => .next (k s1 c vs)

/-- pf over either offset. -/
def pfOp (s : State) (gd : Guard) (a b : Opnd) : Host.Outcome State Fault Refusal :=
  hinting s gd [(a, .w128), (b, .w32)] fun s c vs =>
    match checkCap (nth vs 0).1 (nth vs 0).2 permRead (lo32 (nth vs 1)) 1 with
    | .ok x => s.prefetch c (nth vs 0).1 x
    | .error _ => s

/-- The clause that pfi asks for, brought into the decoded-op cache where it can be (R249). -/
def State.prefetchCode (s : State) (c : Cur) (a : Nat) : State :=
  match s.fetchClause (c.agent c.cv.system) a with
  | .ok (s1, ws) => s1.fillDop c.r.die c.r.core ⟨c.ctx, c.cv.key, dw a, ws⟩
  | .error _ => s

/-- pfi over either offset (R249). -/
def pfiOp (s : State) (gd : Guard) (a b : Opnd) : Host.Outcome State Fault Refusal :=
  hinting s gd [(a, .w128), (b, .w32)] fun s c vs =>
    let cap := (nth vs 0).1
    match checkCap cap (nth vs 0).2 permFetch (lo32 (nth vs 1)) 1 with
    | .error _ => s
    | .ok x =>
      if capSpace cap ≠ 7 ∨ x % 8 ≠ 0 ∨ ((s.core c.r.die c.r.core).dopAt c.ctx c.cv.key (dw x)).isSome
      then s
      else s.prefetchCode c x

/-- stash.wb and stash.inv (R250): the capability names global memory, in space 1 by its windows (R198). -/
def stashOp (s : State) (gd : Guard) (inval : Bool) (a b x : Opnd) : Host.Outcome State Fault Refusal :=
  onceComparing s gd [(a, .w128), (b, .w32), (x, .w32)] id fun s c vs =>
    s.afterOwn c true (fun s _ _ => s) fun s =>
      let cap := nth vs 0
      let n := if x = .none then 1 else (lo32 (nth vs 2)).toNat
      let sys := capSystem cap.1
      match checkCap cap.1 cap.2 permRead (lo32 (nth vs 1)) n with
      | .error e => .error (s, e)
      | .ok y =>
        if capSpace cap.1 ≠ 0 ∧ capSpace cap.1 ≠ 1 then .error (s, .trap .storeFault (dw y))
        else
          match (if capSpace cap.1 = 1 then c.cv.outside y n else none) with
          | some z => .error (s, .trap .storeFault (dw z))
          | none =>
            afterParts c true .ok
              (if x = .none then s.cleanAll (some c) sys c.t.cove inval
               else s.cleanRange (some c) sys c.t.cove y n inval)

/-- ld (R242); the hint changes only duration. -/
def execLd (gd : Guard) (t : Ty) (_hint : Fin 3) (d a b : Opnd) (s : State) :
    Host.Outcome State Fault Refusal :=
  loadOp s gd t d a b

/-- The immediate twin of ld. -/
def execLdImm (gd : Guard) (t : Ty) (_hint : Fin 3) (d a : Opnd) (imm : BitVec 20) (s : State) :
    Host.Outcome State Fault Refusal :=
  loadOp s gd t d a (immInt imm)

/-- ld.k (R243): ld over key values. -/
def execLdK (gd : Guard) (t : Ty) (_hint : Fin 3) (d a b : Opnd) (s : State) :
    Host.Outcome State Fault Refusal :=
  loadOp s gd t d a b

/-- The immediate twin of ld.k. -/
def execLdKImm (gd : Guard) (t : Ty) (_hint : Fin 3) (d a : Opnd) (imm : BitVec 20) (s : State) :
    Host.Outcome State Fault Refusal :=
  loadOp s gd t d a (immInt imm)

/-- st (R244). -/
def execSt (gd : Guard) (t : Ty) (_hint : Fin 3) (a b c : Opnd) (s : State) :
    Host.Outcome State Fault Refusal :=
  storeOp s gd t a b c

/-- atom (R245, R246). -/
def execAtom (gd : Guard) (t : Ty) (scope : Scope) (aop : Fin 10) (d a b c : Opnd) (s : State) :
    Host.Outcome State Fault Refusal :=
  atomOp s gd t scope aop d a b c

/-- acq (R247). -/
def execAcq (gd : Guard) (scope : Scope) (d a b : Opnd) (s : State) :
    Host.Outcome State Fault Refusal :=
  acqOp s gd scope d a b

/-- rel (R247). -/
def execRel (gd : Guard) (scope : Scope) (a b c : Opnd) (s : State) :
    Host.Outcome State Fault Refusal :=
  relOp s gd scope a b c

/-- fence (R248). -/
def execFence (gd : Guard) (scope : Scope) (s : State) :
    Host.Outcome State Fault Refusal :=
  fenceOp s gd scope

/-- icinv (R248). -/
def execIcinv (gd : Guard) (scope : Scope) (s : State) :
    Host.Outcome State Fault Refusal :=
  icinvOp s gd scope

/-- pf (R249). -/
def execPf (gd : Guard) (a b : Opnd) (s : State) :
    Host.Outcome State Fault Refusal :=
  pfOp s gd a b

/-- The immediate twin of pf. -/
def execPfImm (gd : Guard) (a : Opnd) (imm : BitVec 20) (s : State) :
    Host.Outcome State Fault Refusal :=
  pfOp s gd a (immInt imm)

/-- pfi (R249). -/
def execPfi (gd : Guard) (a b : Opnd) (s : State) :
    Host.Outcome State Fault Refusal :=
  pfiOp s gd a b

/-- The immediate twin of pfi. -/
def execPfiImm (gd : Guard) (a : Opnd) (imm : BitVec 20) (s : State) :
    Host.Outcome State Fault Refusal :=
  pfiOp s gd a (immInt imm)

/-- stash.wb (R250). -/
def execStashWb (gd : Guard) (a b c : Opnd) (s : State) :
    Host.Outcome State Fault Refusal :=
  stashOp s gd false a b c

/-- stash.inv (R250). -/
def execStashInv (gd : Guard) (a b c : Opnd) (s : State) :
    Host.Outcome State Fault Refusal :=
  stashOp s gd true a b c

end Sys2Proof.Machine
end

