-- ==== Sys2Proof/Machine/TrapSys.lean ====
section
/-! DEFINITION. The system and trap instructions (R356 to R360) over the system registers of R99. -/

namespace Sys2Proof.Machine

/-- A system register of R99: its value, and whether it has 64 bits; none where reading is refused. -/
def State.sysReg (s : State) (c : Cur) (n : Nat) : Option (DWord × Bool) :=
  let w (v : Word) : DWord := v.setWidth 64
  match n with
  | 0x000 => some (w (c.t.fstat &&& 31), false)
  | 0x010 => some (w c.t.tcause, false)
  | 0x011 => some (c.t.tpc, true)
  | 0x012 => some (c.t.tval, true)
  | 0x013 => some (w c.t.tstat, false)
  | 0x014 => some (c.t.thandler, true)
  | 0x020 => some ((s.core c.r.die c.r.core).counters? c.ctx |>.slips, true)
  | 0x021 => some (w (s.vi c.r.die c.cv.vi).xretry, false)
  | 0x030 => if c.cv.system then some ((s.die c.r.die).scrubPos, true) else none
  | 0x031 => if c.cv.system then some (w (s.die c.r.die).scrubDone, false) else none
  | _ => none

/-- A refusal of R100: ILLEGAL_OP with the number as TVAL. -/
def refuseNumber (n : Nat) : Stop := .trap .illegalOp (dw n)

/-- sysr over either number (R357). -/
def sysrOp (s : State) (gd : Guard) (t : Ty) (d b : Opnd) : Host.Outcome State Fault Refusal :=
  readingIf s gd [(b, .w32)] fun s c vs =>
    let n := (lo32 (nth vs 0)).toNat
    match s.sysReg c n with
    | none => .error (refuseNumber n)
    | some (v, _) =>
      .ok ((s.touch c.r (d.names t.width)).modThread c.r fun th =>
        th.writeOpnd d t.width (wmask t.width (v.setWidth 128)) false)

/-- A system register written by sysw (R97, R357); none where writing is refused. -/
def Thread.sysWrite (t : Thread) (n : Nat) (wide : Bool) (v : DWord) : Option Thread :=
  match n with
  | 0x000 => some { t with fstat := v.setWidth 32 &&& 31 }
  | 0x010 => some { t with tcause := v.setWidth 32 &&& 0xFFFF }
  | 0x011 => if wide then some { t with tpc := v, tstat := t.tstat ||| 128 } else none
  | 0x012 => if wide then some { t with tval := v } else none
  | 0x013 => some { t with tstat := v.setWidth 32 &&& 0x00FF00FF }
  | _ => none

/-- sysw over either number (R357). -/
def syswOp (s : State) (gd : Guard) (t : Ty) (a b : Opnd) : Host.Outcome State Fault Refusal :=
  readingIf s gd [(a, t.width), (b, .w32)] fun s c vs =>
    let n := (lo32 (nth vs 1)).toNat
    match c.t.sysWrite n (t.width == .w64) (lo64 (nth vs 0)) with
    | none => .error (refuseNumber n)
    | some th => .ok (s.modThread c.r fun _ => th)

/-- trap over either code (R358). -/
def trapOp (s : State) (gd : Guard) (b : Opnd) : Host.Outcome State Fault Refusal :=
  readingIf s gd [(b, .w32)] fun _ _ vs => .error (.trap .software ((lo32 (nth vs 0)).setWidth 64))

/-- The words of the clause that a trap named, from the decoded-op cache or fetched again. -/
def State.namedClause (s : State) (c : Cur) (a : DWord) : State × List DWord :=
  match (s.core c.r.die c.r.core).dopAt c.ctx c.cv.key a with
  | some e => (s, e.words)
  | none =>
    match s.fetchClause (c.agent c.cv.system) a.toNat with
    | .ok (s1, ws) => (s1, ws)
    | .error _ => (s, [])

/-- The clause address and slot that TPC names (R350). -/
def tpcClause (v : DWord) : DWord := BitVec.ofNat 64 (bitsOf v 0 55)
def tpcSlot (v : DWord) : Nat := bitsOf v 60 4

/-- The sequential successor of a clause by its words. -/
def successorOf (a : DWord) (words : List DWord) : DWord := a + dw (clauseBytes (words.headD 0))

/-- The resume point of tret (R353), with the state after the clause has been read again. -/
def State.resumePoint (s : State) (c : Cur) : State × DWord × Nat :=
  let a := tpcClause c.t.tpc
  let slot := tpcSlot c.t.tpc
  if tstatW c.t.tstat then (s, a, slot)
  else
    match tstatKind c.t.tstat, tstatN c.t.tstat with
    | 0, false => (s, a, slot)
    | 0, true =>
      match s.namedClause c a with
      | (s1, []) => (s1, a, slot)
      | (s1, h :: ws) =>
        let next := slot + 1 + literalCount (ws.getD slot 0)
        if next < ws.length then (s1, a, next) else (s1, successorOf a (h :: ws), 0)
    | 1, _ => (s, c.t.cont, c.t.contSlot)
    | 2, _ => (s, a, 0)
    | _, false => (s, a, 0)
    | _, true =>
      match s.namedClause c a with
      | (s1, []) => (s1, a, 0)
      | (s1, ws) => (s1, successorOf a ws, 0)

/-- The thread after tret has written its resume point: H, W, N and X clear, and a pending fault is due
at the boundary (R351, R353). -/
def Thread.resumed (t : Thread) (a : DWord) (slot : Nat) : Thread :=
  { t.resumeAt a slot with
    due := t.due ++ t.pending.toList
    pending := none }

/-- tret's effect (R353, R359), and the end of the stops its thread caused (R355). -/
def State.tretAt (s : State) (c : Cur) : Except (State × Stop) State :=
  if !tstatH c.t.tstat then .error (s, .trap .illegalOp 0)
  else
    let (s1, a, slot) := s.resumePoint c
    let s2 := (s1.modThread c.r fun t => t.resumed a slot).endStop c.r
    if a.toNat % 8 ≠ 0 then .error (s2, .trap .align a) else .ok s2

/-- sysr (R357). -/
def execSysr (gd : Guard) (t : Ty) (d b : Opnd) (s : State) : Host.Outcome State Fault Refusal :=
  sysrOp s gd t d b

/-- The immediate twin of sysr. -/
def execSysrImm (gd : Guard) (t : Ty) (d : Opnd) (imm : BitVec 20) (s : State) :
    Host.Outcome State Fault Refusal :=
  sysrOp s gd t d (immInt imm)

/-- sysw (R357). -/
def execSysw (gd : Guard) (t : Ty) (a b : Opnd) (s : State) : Host.Outcome State Fault Refusal :=
  syswOp s gd t a b

/-- The immediate twin of sysw. -/
def execSyswImm (gd : Guard) (t : Ty) (a : Opnd) (imm : BitVec 20) (s : State) :
    Host.Outcome State Fault Refusal :=
  syswOp s gd t a (immInt imm)

/-- trap (R358). -/
def execTrap (gd : Guard) (b : Opnd) (s : State) : Host.Outcome State Fault Refusal := trapOp s gd b

/-- The immediate twin of trap. -/
def execTrapImm (gd : Guard) (imm : BitVec 20) (s : State) : Host.Outcome State Fault Refusal :=
  trapOp s gd (immInt imm)

/-- tret (R353, R359). -/
def execTret (gd : Guard) (s : State) : Host.Outcome State Fault Refusal :=
  guarded s gd fun c =>
    match s.tretAt c with
    | .ok s1 => .next s1
    | .error (s1, e) => conclude s1 c (.error e)

/-- ckpt (R360): its request is made at the end of its clause. -/
def execCkpt (gd : Guard) (d : Opnd) (s : State) : Host.Outcome State Fault Refusal :=
  guarded s gd fun c => .next (s.modThread c.r fun t =>
    let u := t.hideDest (destOf d .w32)
    { u with defer := u.defer ++ [.ckpt ((destOf d .w32).map Prod.fst)] })

end Sys2Proof.Machine
end

