-- ==== Sys2Proof/Machine/Dispatch.lean ====
section
/-! DEFINITION. One arm per constructor of `Instr`: its meaning, or its rejection by name. -/

namespace Sys2Proof.Machine

def exec (i : Instr) (s : State) : Host.Outcome State Fault Refusal :=
  match i with
  | .add gd t sat d a b => Sys2Proof.Machine.execAdd gd t sat d a b s
  | .addImm gd t sat d a imm => Sys2Proof.Machine.execAddImm gd t sat d a imm s
  | .sub gd t sat d a b => Sys2Proof.Machine.execSub gd t sat d a b s
  | .subImm gd t sat d a imm => Sys2Proof.Machine.execSubImm gd t sat d a imm s
  | .addc gd t pc d a b => Sys2Proof.Machine.execAddc gd t pc d a b s
  | .addcImm gd t pc d a imm => Sys2Proof.Machine.execAddcImm gd t pc d a imm s
  | .subb gd t pc d a b => Sys2Proof.Machine.execSubb gd t pc d a b s
  | .subbImm gd t pc d a imm => Sys2Proof.Machine.execSubbImm gd t pc d a imm s
  | .mul gd t sat d a b => Sys2Proof.Machine.execMul gd t sat d a b s
  | .mulImm gd t sat d a imm => Sys2Proof.Machine.execMulImm gd t sat d a imm s
  | .mulh gd t d a b => Sys2Proof.Machine.execMulh gd t d a b s
  | .mulhImm gd t d a imm => Sys2Proof.Machine.execMulhImm gd t d a imm s
  | .mad gd t sat d a b c => Sys2Proof.Machine.execMad gd t sat d a b c s
  | .div gd t d a b => Sys2Proof.Machine.execDiv gd t d a b s
  | .divImm gd t d a imm => Sys2Proof.Machine.execDivImm gd t d a imm s
  | .rem gd t d a b => Sys2Proof.Machine.execRem gd t d a b s
  | .remImm gd t d a imm => Sys2Proof.Machine.execRemImm gd t d a imm s
  | .neg gd t sat d a => Sys2Proof.Machine.execNeg gd t sat d a s
  | .abs gd t sat d a => Sys2Proof.Machine.execAbs gd t sat d a s
  | .min gd t d a b => Sys2Proof.Machine.execMin gd t d a b s
  | .minImm gd t d a imm => Sys2Proof.Machine.execMinImm gd t d a imm s
  | .max gd t d a b => Sys2Proof.Machine.execMax gd t d a b s
  | .maxImm gd t d a imm => Sys2Proof.Machine.execMaxImm gd t d a imm s
  | .lea gd t sh d a b => Sys2Proof.Machine.execLea gd t sh d a b s
  | .leaImm gd t sh d a imm => Sys2Proof.Machine.execLeaImm gd t sh d a imm s
  | .sel gd t inv pn d a b => Sys2Proof.Machine.execSel gd t inv pn d a b s
  | .selImm gd t inv pn d a imm => Sys2Proof.Machine.execSelImm gd t inv pn d a imm s
  | .and gd t d a b => Sys2Proof.Machine.execAnd gd t d a b s
  | .andImm gd t d a imm => Sys2Proof.Machine.execAndImm gd t d a imm s
  | .or gd t d a b => Sys2Proof.Machine.execOr gd t d a b s
  | .orImm gd t d a imm => Sys2Proof.Machine.execOrImm gd t d a imm s
  | .xor gd t d a b => Sys2Proof.Machine.execXor gd t d a b s
  | .xorImm gd t d a imm => Sys2Proof.Machine.execXorImm gd t d a imm s
  | .andn gd t d a b => Sys2Proof.Machine.execAndn gd t d a b s
  | .andnImm gd t d a imm => Sys2Proof.Machine.execAndnImm gd t d a imm s
  | .not gd t d a => Sys2Proof.Machine.execNot gd t d a s
  | .shl gd t d a b => Sys2Proof.Machine.execShl gd t d a b s
  | .shlImm gd t d a imm => Sys2Proof.Machine.execShlImm gd t d a imm s
  | .shr gd t d a b => Sys2Proof.Machine.execShr gd t d a b s
  | .shrImm gd t d a imm => Sys2Proof.Machine.execShrImm gd t d a imm s
  | .sar gd t d a b => Sys2Proof.Machine.execSar gd t d a b s
  | .sarImm gd t d a imm => Sys2Proof.Machine.execSarImm gd t d a imm s
  | .rol gd t d a b => Sys2Proof.Machine.execRol gd t d a b s
  | .rolImm gd t d a imm => Sys2Proof.Machine.execRolImm gd t d a imm s
  | .bfx gd t d a b => Sys2Proof.Machine.execBfx gd t d a b s
  | .bfxImm gd t d a imm => Sys2Proof.Machine.execBfxImm gd t d a imm s
  | .bfi gd t d a b c => Sys2Proof.Machine.execBfi gd t d a b c s
  | .bfr gd t d a => Sys2Proof.Machine.execBfr gd t d a s
  | .popc gd t d a => Sys2Proof.Machine.execPopc gd t d a s
  | .clz gd t d a => Sys2Proof.Machine.execClz gd t d a s
  | .ctz gd t d a => Sys2Proof.Machine.execCtz gd t d a s
  | .cmp gd t pd cond d a b => Sys2Proof.Machine.execCmp gd t pd cond d a b s
  | .cmpImm gd t pd cond d a imm => Sys2Proof.Machine.execCmpImm gd t pd cond d a imm s
  | .mov gd t d a => Sys2Proof.Machine.execMov gd t d a s
  | .movi gd t pos d b => Sys2Proof.Machine.execMovi gd t pos d b s
  | .moviImm gd t pos d imm => Sys2Proof.Machine.execMoviImm gd t pos d imm s
  | .pand gd pd pa pb d => Sys2Proof.Machine.execPand gd pd pa pb d s
  | .por gd pd pa pb d => Sys2Proof.Machine.execPor gd pd pa pb d s
  | .pxor gd pd pa pb d => Sys2Proof.Machine.execPxor gd pd pa pb d s
  | .pnot gd pd pa d => Sys2Proof.Machine.execPnot gd pd pa d s
  | .fadd gd t rnd d a b => Sys2Proof.Machine.execFadd gd t rnd d a b s
  | .faddImm gd t rnd d a imm => Sys2Proof.Machine.execFaddImm gd t rnd d a imm s
  | .fsub gd t rnd d a b => Sys2Proof.Machine.execFsub gd t rnd d a b s
  | .fsubImm gd t rnd d a imm => Sys2Proof.Machine.execFsubImm gd t rnd d a imm s
  | .fmul gd t rnd d a b => Sys2Proof.Machine.execFmul gd t rnd d a b s
  | .fmulImm gd t rnd d a imm => Sys2Proof.Machine.execFmulImm gd t rnd d a imm s
  | .fma gd t rnd d a b c => Sys2Proof.Machine.execFma gd t rnd d a b c s
  | .fmin gd t d a b => Sys2Proof.Machine.execFmin gd t d a b s
  | .fminImm gd t d a imm => Sys2Proof.Machine.execFminImm gd t d a imm s
  | .fmax gd t d a b => Sys2Proof.Machine.execFmax gd t d a b s
  | .fmaxImm gd t d a imm => Sys2Proof.Machine.execFmaxImm gd t d a imm s
  | .fminm gd t d a b => Sys2Proof.Machine.execFminm gd t d a b s
  | .fminmImm gd t d a imm => Sys2Proof.Machine.execFminmImm gd t d a imm s
  | .fmaxm gd t d a b => Sys2Proof.Machine.execFmaxm gd t d a b s
  | .fmaxmImm gd t d a imm => Sys2Proof.Machine.execFmaxmImm gd t d a imm s
  | .fcmp gd t pd cond d a b => Sys2Proof.Machine.execFcmp gd t pd cond d a b s
  | .fcmpImm gd t pd cond d a imm => Sys2Proof.Machine.execFcmpImm gd t pd cond d a imm s
  | .fsgn gd t sop d a b => Sys2Proof.Machine.execFsgn gd t sop d a b s
  | .fclass gd t d a => Sys2Proof.Machine.execFclass gd t d a s
  | .frnd gd t rnd d a => Sys2Proof.Machine.execFrnd gd t rnd d a s
  | .fcvt gd sat rnd t ts d a => Sys2Proof.Machine.execFcvt gd sat rnd t ts d a s
  | .f2i gd sat rnd t ts d a => Sys2Proof.Machine.execF2i gd sat rnd t ts d a s
  | .i2f gd sat rnd t ts d a => Sys2Proof.Machine.execI2f gd sat rnd t ts d a s
  | .rcp gd t rnd d a => Sys2Proof.Machine.execRcp gd t rnd d a s
  | .rsq gd t d a => Sys2Proof.Machine.execRsq gd t d a s
  | .sqrt gd t rnd d a => Sys2Proof.Machine.execSqrt gd t rnd d a s
  | .ex2 gd t d a => Sys2Proof.Machine.execEx2 gd t d a s
  | .lg2 gd t d a => Sys2Proof.Machine.execLg2 gd t d a s
  | .sin gd t d a => Sys2Proof.Machine.execSin gd t d a s
  | .cos gd t d a => Sys2Proof.Machine.execCos gd t d a s
  | .hadd2 gd t rnd d a b => Sys2Proof.Machine.execHadd2 gd t rnd d a b s
  | .hmul2 gd t rnd d a b => Sys2Proof.Machine.execHmul2 gd t rnd d a b s
  | .hfma2 gd t rnd d a b c => Sys2Proof.Machine.execHfma2 gd t rnd d a b c s
  | .qpack gd t rnd d a b => Sys2Proof.Machine.execQpack gd t rnd d a b s
  | .qunpk gd t d a b => Sys2Proof.Machine.execQunpk gd t d a b s
  | .qscale gd t d a b => Sys2Proof.Machine.execQscale gd t d a b s
  | .spcmp gd t n d a b c => Sys2Proof.Machine.execSpcmp gd t n d a b c s
  | .spexp gd t n d a b c => Sys2Proof.Machine.execSpexp gd t n d a b c s
  | .br gd b => Sys2Proof.Machine.execBr gd b s
  | .brImm gd imm => Sys2Proof.Machine.execBrImm gd imm s
  | .brx gd a => Sys2Proof.Machine.execBrx gd a s
  | .call gd d b => Sys2Proof.Machine.execCall gd d b s
  | .callImm gd d imm => Sys2Proof.Machine.execCallImm gd d imm s
  | .callx gd d a => Sys2Proof.Machine.execCallx gd d a s
  | .ret gd a => Sys2Proof.Machine.execRet gd a s
  | .exit gd => Sys2Proof.Machine.execExit gd s
  | .yield gd => Sys2Proof.Machine.execYield gd s
  | .nap gd a b => Sys2Proof.Machine.execNap gd a b s
  | .brk gd => Sys2Proof.Machine.execBrk gd s
  | .kadd d a b => Sys2Proof.Machine.execKadd d a b s
  | .kaddImm d a imm => Sys2Proof.Machine.execKaddImm d a imm s
  | .ksub d a b => Sys2Proof.Machine.execKsub d a b s
  | .ksubImm d a imm => Sys2Proof.Machine.execKsubImm d a imm s
  | .kmul d a b => Sys2Proof.Machine.execKmul d a b s
  | .kmulImm d a imm => Sys2Proof.Machine.execKmulImm d a imm s
  | .kand d a b => Sys2Proof.Machine.execKand d a b s
  | .kandImm d a imm => Sys2Proof.Machine.execKandImm d a imm s
  | .kor d a b => Sys2Proof.Machine.execKor d a b s
  | .korImm d a imm => Sys2Proof.Machine.execKorImm d a imm s
  | .kxor d a b => Sys2Proof.Machine.execKxor d a b s
  | .kxorImm d a imm => Sys2Proof.Machine.execKxorImm d a imm s
  | .kshl d a b => Sys2Proof.Machine.execKshl d a b s
  | .kshlImm d a imm => Sys2Proof.Machine.execKshlImm d a imm s
  | .kshr d a b => Sys2Proof.Machine.execKshr d a b s
  | .kshrImm d a imm => Sys2Proof.Machine.execKshrImm d a imm s
  | .kmov d a => Sys2Proof.Machine.execKmov d a s
  | .kmovi pos d b => Sys2Proof.Machine.execKmovi pos d b s
  | .kmoviImm pos d imm => Sys2Proof.Machine.execKmoviImm pos d imm s
  | .kcmp t cond d a b => Sys2Proof.Machine.execKcmp t cond d a b s
  | .kcmpImm t cond d a imm => Sys2Proof.Machine.execKcmpImm t cond d a imm s
  | .klea sh d a b => Sys2Proof.Machine.execKlea sh d a b s
  | .kleaImm sh d a imm => Sys2Proof.Machine.execKleaImm sh d a imm s
  | .kmerge => Sys2Proof.Machine.execKmerge s
  | .xpull gd t d a b c => Sys2Proof.Machine.execXpull gd t d a b c s
  | .xpullImm gd t d a imm => Sys2Proof.Machine.execXpullImm gd t d a imm s
  | .xpush gd t cm d a b c => Sys2Proof.Machine.execXpush gd t cm d a b c s
  | .xvote gd vop d a c => Sys2Proof.Machine.execXvote gd vop d a c s
  | .xfirst gd t d a c => Sys2Proof.Machine.execXfirst gd t d a c s
  | .xred gd t rop d a c => Sys2Proof.Machine.execXred gd t rop d a c s
  | .xscan gd t exc rop d a c => Sys2Proof.Machine.execXscan gd t exc rop d a c s
  | .xmatch gd t d a c => Sys2Proof.Machine.execXmatch gd t d a c s
  | .rdv gd c => Sys2Proof.Machine.execRdv gd c s
  | .rast gd d a b c => Sys2Proof.Machine.execRast gd d a b c s
  | .mma gd d a b c => Sys2Proof.Machine.execMma gd d a b c s
  | .mmaSp gd d a b c => Sys2Proof.Machine.execMmaSp gd d a b c s
  | .mmaSc gd d a b c => Sys2Proof.Machine.execMmaSc gd d a b c s
  | .mzero gd d a => Sys2Proof.Machine.execMzero gd d a s
  | .chdef gd ch a b => Sys2Proof.Machine.execChdef gd ch a b s
  | .chrun gd ch d a => Sys2Proof.Machine.execChrun gd ch d a s
  | .perfRd gd d b => Sys2Proof.Machine.execPerfRd gd d b s
  | .ld gd t hint d a b => Sys2Proof.Machine.execLd gd t hint d a b s
  | .ldImm gd t hint d a imm => Sys2Proof.Machine.execLdImm gd t hint d a imm s
  | .st gd t hint a b c => Sys2Proof.Machine.execSt gd t hint a b c s
  | .ldK gd t hint d a b => Sys2Proof.Machine.execLdK gd t hint d a b s
  | .ldKImm gd t hint d a imm => Sys2Proof.Machine.execLdKImm gd t hint d a imm s
  | .atom gd t scope aop d a b c => Sys2Proof.Machine.execAtom gd t scope aop d a b c s
  | .acq gd scope d a b => Sys2Proof.Machine.execAcq gd scope d a b s
  | .rel gd scope a b c => Sys2Proof.Machine.execRel gd scope a b c s
  | .fence gd scope => Sys2Proof.Machine.execFence gd scope s
  | .icinv gd scope => Sys2Proof.Machine.execIcinv gd scope s
  | .pf gd a b => Sys2Proof.Machine.execPf gd a b s
  | .pfImm gd a imm => Sys2Proof.Machine.execPfImm gd a imm s
  | .pfi gd a b => Sys2Proof.Machine.execPfi gd a b s
  | .pfiImm gd a imm => Sys2Proof.Machine.execPfiImm gd a imm s
  | .stashWb gd a b c => Sys2Proof.Machine.execStashWb gd a b c s
  | .stashInv gd a b c => Sys2Proof.Machine.execStashInv gd a b c s
  | .capNew gd d a b c => Sys2Proof.Machine.execCapNew gd d a b c s
  | .capSet gd d a b => Sys2Proof.Machine.execCapSet gd d a b s
  | .capAdd gd d a b => Sys2Proof.Machine.execCapAdd gd d a b s
  | .capBnd gd d a b => Sys2Proof.Machine.execCapBnd gd d a b s
  | .capPrm gd d a b => Sys2Proof.Machine.execCapPrm gd d a b s
  | .capChk gd d a b c => Sys2Proof.Machine.execCapChk gd d a b c s
  | .capGet gd d a b => Sys2Proof.Machine.execCapGet gd d a b s
  | .cpBlk gd d a b c => Sys2Proof.Machine.execCpBlk gd d a b c s
  | .cpTile gd d a b c => Sys2Proof.Machine.execCpTile gd d a b c s
  | .cpGat gd d a b c => Sys2Proof.Machine.execCpGat gd d a b c s
  | .cpSct gd d a b c => Sys2Proof.Machine.execCpSct gd d a b c s
  | .cpMc gd d a b c => Sys2Proof.Machine.execCpMc gd d a b c s
  | .cpFill gd d a c => Sys2Proof.Machine.execCpFill gd d a c s
  | .hwait gd a => Sys2Proof.Machine.execHwait gd a s
  | .htest gd d a => Sys2Proof.Machine.execHtest gd d a s
  | .hcancel gd a => Sys2Proof.Machine.execHcancel gd a s
  | .hmov gd d a => Sys2Proof.Machine.execHmov gd d a s
  | .rayGo gd d a b => Sys2Proof.Machine.execRayGo gd d a b s
  | .rayNext gd d a => Sys2Proof.Machine.execRayNext gd d a s
  | .rayEnd gd a => Sys2Proof.Machine.execRayEnd gd a s
  | .meSrch gd d a b c => Sys2Proof.Machine.execMeSrch gd d a b c s
  | .smp gd t d a b c => Sys2Proof.Machine.execSmp gd t d a b c s
  | .smpG gd t d a b c => Sys2Proof.Machine.execSmpG gd t d a b c s
  | .imgSt gd t d a b c => Sys2Proof.Machine.execImgSt gd t d a b c s
  | .bind gd a b c => Sys2Proof.Machine.execBind gd a b c s
  | .unbind gd a => Sys2Proof.Machine.execUnbind gd a s
  | .tlbinv gd a b c => Sys2Proof.Machine.execTlbinv gd a b c s
  | .keyz gd a => Sys2Proof.Machine.execKeyz gd a s
  | .ptsync gd => Sys2Proof.Machine.execPtsync gd s
  | .sysr gd t d b => Sys2Proof.Machine.execSysr gd t d b s
  | .sysrImm gd t d imm => Sys2Proof.Machine.execSysrImm gd t d imm s
  | .sysw gd t a b => Sys2Proof.Machine.execSysw gd t a b s
  | .syswImm gd t a imm => Sys2Proof.Machine.execSyswImm gd t a imm s
  | .trap gd b => Sys2Proof.Machine.execTrap gd b s
  | .trapImm gd imm => Sys2Proof.Machine.execTrapImm gd imm s
  | .tret gd => Sys2Proof.Machine.execTret gd s
  | .ckpt gd d => Sys2Proof.Machine.execCkpt gd d s
  | .barIni gd a b => Sys2Proof.Machine.execBarIni gd a b s
  | .barIniImm gd a imm => Sys2Proof.Machine.execBarIniImm gd a imm s
  | .barArr gd d a b => Sys2Proof.Machine.execBarArr gd d a b s
  | .barArrImm gd d a imm => Sys2Proof.Machine.execBarArrImm gd d a imm s
  | .barWt gd a b => Sys2Proof.Machine.execBarWt gd a b s
  | .barWtImm gd a imm => Sys2Proof.Machine.execBarWtImm gd a imm s
  | .barArw gd d a b => Sys2Proof.Machine.execBarArw gd d a b s
  | .barArwImm gd d a imm => Sys2Proof.Machine.execBarArwImm gd d a imm s
  | .cntAdd gd a b => Sys2Proof.Machine.execCntAdd gd a b s
  | .cntRd gd lv d a => Sys2Proof.Machine.execCntRd gd lv d a s
  | .cntWt gd lv a => Sys2Proof.Machine.execCntWt gd lv a s
  | .launch gd d a b => Sys2Proof.Machine.execLaunch gd d a b s
  | .nodePut gd d a b => Sys2Proof.Machine.execNodePut gd d a b s
  | .nodeFl gd a => Sys2Proof.Machine.execNodeFl gd a s
  | .cancel gd lv a => Sys2Proof.Machine.execCancel gd lv a s
  | .clauseIssue die core pipe => Sys2Proof.Machine.execClauseIssue die core pipe s
  | .decodedOpMissFill die core => Sys2Proof.Machine.execDecodedOpMissFill die core s
  | .faultReportArrival die => Sys2Proof.Machine.execFaultReportArrival die s
  | .replayRestore die entry => Sys2Proof.Machine.execReplayRestore die entry s
  | .napCountExpiry r => Sys2Proof.Machine.execNapCountExpiry r s
  | .napEarlyEnd r => Sys2Proof.Machine.execNapEarlyEnd r s
  | .stashEviction cv window sector => Sys2Proof.Machine.execStashEviction cv window sector s
  | .l1Eviction die core idx => Sys2Proof.Machine.execL1Eviction die core idx s
  | .decodedOpEviction die core idx => Sys2Proof.Machine.execDecodedOpEviction die core idx s
  | .copyComplete die core idx => Sys2Proof.Machine.execCopyComplete die core idx s
  | .rayRoundComplete die core idx => Sys2Proof.Machine.execRayRoundComplete die core idx s
  | .meSrchComplete die core idx => Sys2Proof.Machine.execMeSrchComplete die core idx s
  | .smpComplete die core idx => Sys2Proof.Machine.execSmpComplete die core idx s
  | .imgStComplete die core idx => Sys2Proof.Machine.execImgStComplete die core idx s
  | .arrayOpComplete die core => Sys2Proof.Machine.execArrayOpComplete die core s
  | .chdefApply die core => Sys2Proof.Machine.execChdefApply die core s
  | .chrunComplete die core => Sys2Proof.Machine.execChrunComplete die core s
  | .launchQueueWriteIndex die vi q index => Sys2Proof.Machine.execLaunchQueueWriteIndex die vi q index s
  | .frontEndRecordRead die vi q => Sys2Proof.Machine.execFrontEndRecordRead die vi q s
  | .placementPass die core idx record => Sys2Proof.Machine.execPlacementPass die core idx record s
  | .launchRetire die entry => Sys2Proof.Machine.execLaunchRetire die entry s
  | .coalesceFire die entry => Sys2Proof.Machine.execCoalesceFire die entry s
  | .preemption ctx => Sys2Proof.Machine.execPreemption ctx s
  | .preemptAckComplete cv => Sys2Proof.Machine.execPreemptAckComplete cv s
  | .restore ctx die places => Sys2Proof.Machine.execRestore ctx die places s
  | .migration ctx places => Sys2Proof.Machine.execMigration ctx places s
  | .checkpoint ctx => Sys2Proof.Machine.execCheckpoint ctx s
  | .checkpointStream ctx => Sys2Proof.Machine.execCheckpointStream ctx s
  | .commitRecordWrite ctx => Sys2Proof.Machine.execCommitRecordWrite ctx s
  | .commitAck ctx => Sys2Proof.Machine.execCommitAck ctx s
  | .transferRequest die ctx va => Sys2Proof.Machine.execTransferRequest die ctx va s
  | .transferData die ctx va => Sys2Proof.Machine.execTransferData die ctx va s
  | .transferAck die ctx va => Sys2Proof.Machine.execTransferAck die ctx va s
  | .forwardedAccess id => Sys2Proof.Machine.execForwardedAccess id s
  | .linkReceipt id => Sys2Proof.Machine.execLinkReceipt id s
  | .nonpostedCompletion id failed data => Sys2Proof.Machine.execNonpostedCompletion id failed data s
  | .hostWriteAck id failed => Sys2Proof.Machine.execHostWriteAck id failed s
  | .packetReceive die pa lines payload => Sys2Proof.Machine.execPacketReceive die pa lines payload s
  | .linkUp partner => Sys2Proof.Machine.execLinkUp partner s
  | .requestedUndock places => Sys2Proof.Machine.execRequestedUndock places s
  | .undockDrainComplete => Sys2Proof.Machine.execUndockDrainComplete s
  | .surpriseRemoval => Sys2Proof.Machine.execSurpriseRemoval s
  | .surpriseRecovery ctx places => Sys2Proof.Machine.execSurpriseRecovery ctx places s
  | .lineAdvance die head => Sys2Proof.Machine.execLineAdvance die head s
  | .bandLaunch die head => Sys2Proof.Machine.execBandLaunch die head s
  | .guardLine die head => Sys2Proof.Machine.execGuardLine die head s
  | .fallbackFill die head => Sys2Proof.Machine.execFallbackFill die head s
  | .relayBandSend die head => Sys2Proof.Machine.execRelayBandSend die head s
  | .relayBandArrival die head => Sys2Proof.Machine.execRelayBandArrival die head s
  | .hctlWrite die head v => Sys2Proof.Machine.execHctlWrite die head v s
  | .hstatWrite die head v => Sys2Proof.Machine.execHstatWrite die head v s
  | .hqueueRead die head => Sys2Proof.Machine.execHqueueRead die head s
  | .registerWrite die reg v => Sys2Proof.Machine.execRegisterWrite die reg v s
  | .scrubStep die => Sys2Proof.Machine.execScrubStep die s
  | .virtualInterfaceReset die vi => Sys2Proof.Machine.execVirtualInterfaceReset die vi s
  | .deviceReset die => Sys2Proof.Machine.execDeviceReset die s
  | .lifeCycleChange die state => Sys2Proof.Machine.execLifeCycleChange die state s
  | .powerGood die image signature secVersion => Sys2Proof.Machine.execPowerGood die image signature secVersion s
  | .deviceDescriptionPublish die => Sys2Proof.Machine.execDeviceDescriptionPublish die s
  | .measurementExtend die reg component => Sys2Proof.Machine.execMeasurementExtend die reg component s
  | .attestationRequest die vi nonce => Sys2Proof.Machine.execAttestationRequest die vi nonce s
  | .snapshotTrigger die seq => Sys2Proof.Machine.execSnapshotTrigger die seq s
  | .d3Entry die cold => Sys2Proof.Machine.execD3Entry die cold s
  | .d0Return die => Sys2Proof.Machine.execD0Return die s
  | .clockChange die block kilohertz => Sys2Proof.Machine.execClockChange die block kilohertz s
  | .contextCreate die ctx spec => Sys2Proof.Machine.execContextCreate die ctx spec s
  | .granularityTableWrite die vi p v => Sys2Proof.Machine.execGranularityTableWrite die vi p v s
  | .tlbEviction die core idx => Sys2Proof.Machine.execTlbEviction die core idx s
  | .snapshotRearm die block => Sys2Proof.Machine.execSnapshotRearm die block s
  | .peerWriteAcknowledgement id => Sys2Proof.Machine.execPeerWriteAcknowledgement id s
  | .replicaInvalidation die idx => Sys2Proof.Machine.execReplicaInvalidation die idx s
  | .hostAccess die pa data => Sys2Proof.Machine.execHostAccess die pa data s
  | .virtualInterfaceCreate die vi system => Sys2Proof.Machine.execVirtualInterfaceCreate die vi system s

end Sys2Proof.Machine
end

