-- ==== Sys2Proof/Machine/Turn.lean ====
section
/-! DEFINITION. The events that the machine brings about by itself, and whose turn the next one is; and
a thread with one instruction before it. -/

namespace Sys2Proof.Machine

/-- What an event does. -/
abbrev Act := State → Host.Outcome State Fault Refusal

/-- The events of the engines and pipes of one core that have work. -/
def State.coreEvents (s : State) (d : DieId) (n : Nat) : List Act :=
  let k := s.core d n
  let work := s.threads.any fun e => e.1.die == d && e.1.core == n && e.2.active
  (if work then [execClauseIssue d n 0, execClauseIssue d n 1] else [])
    ++ (if k.dopMisses.isEmpty then [] else [execDecodedOpMissFill d n])
    ++ ((List.range k.copies.length).map fun i => execCopyComplete d n i)
    ++ ((List.range k.rays.length).map fun i => execRayRoundComplete d n i)
    ++ ((List.range k.searches.length).map fun i => execMeSrchComplete d n i)
    ++ ((List.range k.samples.length).map fun i => execSmpComplete d n i)
    ++ ((List.range k.images.length).map fun i => execImgStComplete d n i)
    ++ (match k.array with
      | [] => []
      | x :: _ => match x.kind with
        | .mma _ _ => [execArrayOpComplete d n]
        | .mzero => [execArrayOpComplete d n]
        | .chdef _ _ => [execChdefApply d n]
        | .chrun _ => [execChrunComplete d n])

/-- A fault record that waits for its place in the ring is written (R395). -/
def flushAct (d : DieId) (vi : Nat) : Act := fun s => .next (s.flushRecord d vi)

/-- The events of the front end of a die. -/
def State.frontEvents (s : State) (d : DieId) : List Act :=
  let x := s.die d
  (x.vis.flatMap fun v => (List.range 8).filterMap fun q =>
      if 0 < (s.queue d v.1 q).held then some (execFrontEndRecordRead d v.1 q) else none)
    ++ (x.vis.filterMap fun v => if v.2.records.isEmpty then none else some (flushAct d v.1))
    ++ x.entries.flatMap fun e => match e.2.state with
      | .replaying => [execReplayRestore d e.1]
      | .retiring => [execLaunchRetire d e.1]
      | .parked => if e.2.flush then [execCoalesceFire d e.1] else []
      | _ => []

/-- The events of the scan-out engine and of the scrub engine of a die. -/
def State.headEvents (s : State) (d : DieId) : List Act :=
  ((s.die d).heads.flatMap fun h =>
    (if h.2.enabled then [execLineAdvance d h.1] else [])
      ++ (if h.2.fills.isEmpty then [] else [execFallbackFill d h.1])
      ++ (if h.2.sends.isEmpty then [] else [execRelayBandSend d h.1])
      ++ (if h.2.inbound.isEmpty then [] else [execRelayBandArrival d h.1]))
    ++ (if (s.die d).scrub.isSome then [execScrubStep d] else [])
    ++ (if s.reports.any fun y => y.die == d then [execFaultReportArrival d] else [])

/-- The events of one request on the link: what the host answers comes from outside. -/
def Req.events (q : Req) : List Act :=
  match q.phase with
  | .queued => if q.space = 5 then (if q.posted && q.die == .dukor then [execLinkReceipt q.id] else [])
               else [execForwardedAccess q.id]
  | .performed => if q.posted then [execPeerWriteAcknowledgement q.id] else [execNonpostedCompletion q.id false 0]
  | _ => []

/-- The events of the link. -/
def State.linkEvents (s : State) : List Act :=
  s.link.reqs.flatMap Req.events
    ++ s.link.transfers.map (fun t =>
      if t.step = 0 then execTransferData t.requester t.ctx t.va else execTransferAck t.requester t.ctx t.va)
    ++ (if s.link.draining then [execUndockDrainComplete] else [])

/-- The events of contexts that stop, or whose checkpoint is due or on its way. -/
def State.contextEvents (s : State) : List Act :=
  s.contexts.flatMap fun c =>
    (if c.2.status = .stopping then ((s.covesIn c.1).map fun e => execPreemptAckComplete e.1) ++ [execPreemption c.1]
     else [])
      ++ (if c.2.asked && c.2.stream.isNone then [execCheckpoint c.1] else [])
      ++ (if c.2.stream.isSome then [execCheckpointStream c.1, execCommitRecordWrite c.1, execCommitAck c.1] else [])

/-- The naps that end once no clause is left to issue (R171). -/
def State.napEvents (s : State) : List Act :=
  s.threads.filterMap fun e => match e.2.status with
    | .napping _ _ _ => some (execNapCountExpiry e.1)
    | _ => none

/-- All events that are due. -/
def State.dueEvents (s : State) : List Act :=
  [DieId.craren, .dukor].flatMap (fun d =>
      ((s.die d).cores.flatMap fun k => s.coreEvents d k.1) ++ s.frontEvents d ++ s.headEvents d)
    ++ s.linkEvents ++ s.contextEvents ++ s.napEvents

/-- The event whose turn it is: they go round. -/
def State.dueEvent (s : State) : Option Act :=
  let es := s.dueEvents
  es[s.turn % max 1 es.length]?

/-! A thread with one instruction before it. -/

/-- The thread that runs it: lane 0 of slot 0 of core 0 of the Craren. -/
def firstThread : TRef := ⟨.craren, 0, 0, 0⟩

/-- Its cove. -/
def firstCove : CoveRef := ⟨.craren, 0, 0⟩

/-- A kernel header of ISA 2 with every register and key (R64). -/
def firstHeader : DWord := BitVec.ofNat 64 (2 + 2 * 2 ^ 4 + 23 * 2 ^ 11 + 63 * 2 ^ 16)

/-- Its launch: one cove of one crew. -/
def firstEntry : Entry :=
  { newEntry 0 0 0 [0, 0x100000001, 0, 0, 0, 0, 0, 0] 0 0 false with
    state := .running
    header := firstHeader
    placed := 1 }

/-- Its context, which maps nothing. -/
def firstContext : Context := { newContext .craren ⟨0, 0, 0, 0, 0, none, false, 0, 0, 0⟩ with started := true }

/-- The clause that holds an instruction: a header for any class, its word and its literal slots. -/
def firstWords (w : Nat) : List DWord :=
  let word : DWord := BitVec.ofNat 64 w
  let n := literalCount word
  openHeader (n + 1) :: word :: (List.range n).map fun i => BitVec.ofNat 64 (w / 2 ^ (64 * (i + 1)))

/-- The clause in issue to that thread. -/
def firstIssue (w : Nat) : Issue where
  die := .craren
  core := 0
  pipe := 0
  tide := false
  addr := 8
  key := DecodeKey.widest
  words := firstWords w
  slot := 0
  members := [firstThread]
  todo := [firstThread]

/-- A machine with a launch resident and the clause of one instruction in issue to its thread. -/
def State.withWord (s : State) (w : Nat) : State :=
  let c := coveOf firstEntry (ofNatQ 0) []
  let s1 := s.putEntry .craren 0 (some firstEntry)
  { s1 with
    contexts := aput s1.contexts 0 firstContext
    coves := aput s1.coves firstCove c
    crews := aput s1.crews (firstCove, 0) (newCrew c Strand.zero)
    threads := aput s1.threads firstThread { newThread firstCove c 0 0 0 with pc := 8 }
    issue := some (firstIssue w) }

end Sys2Proof.Machine
end

