-- ==== Sys2Proof/Machine/Step.lean ====
section
/-! DEFINITION. One step: the instruction that the clause in issue holds at the current slot, for the
thread whose turn it is; else the next event of the agenda; else an event that the machine brings about
by itself. And where an instruction is put so that the next step runs it. -/

namespace Sys2Proof.Machine

/-- A step of the clause in issue: its current instruction for its current thread. -/
def stepIssue (i : Issue) (s : State) : Host.Outcome State Fault Refusal :=
  match i.todo, i.current with
  | r :: _, some instr =>
    match exec instr s with
    | .next s1 => .next (s1.advance r)
    | .fault f => .fault f
    | .refused x => .refused x
  | _, _ => .next (s.endIssue i)

/-- A step between clauses. -/
def stepEvent (s : State) : Host.Outcome State Fault Refusal :=
  match s.agenda with
  | e :: rest => exec e { s with agenda := rest }
  | [] =>
    let s1 := { s with turn := s.turn + 1 }
    match s.dueEvent with
    | some act => act s1
    | none => .next s1

/-- One step of the machine. -/
def step (s : State) : Host.Outcome State Fault Refusal :=
  match s.issue with
  | some i => stepIssue i s
  | none => stepEvent s

/-- The machine with one instruction fetched, decoded and issued to one thread. -/
def State.withFetchWord (s : State) (nbits w : Nat) : State := s.withWord (w % 2 ^ nbits)

end Sys2Proof.Machine
end

