-- ==== Sys2Proof/Safety.lean ====
section
/-! DEFINITION. What counts as a safe run, in the terms that statements use: which thread an instruction
finds and what it reads, what it leaves behind, and the properties that every step keeps. -/

namespace Sys2Proof

/-- The destination and its width, for an instruction that computes a value for a general register or
for a predicate at its slot (R58, R60). -/
def Instr.computes : Instr → Option (Opnd × Width)
  | .add _ t _ d _ _ => some (d, t.width)
  | .addImm _ t _ d _ _ => some (d, t.width)
  | .sub _ t _ d _ _ => some (d, t.width)
  | .subImm _ t _ d _ _ => some (d, t.width)
  | .addc _ t _ d _ _ => some (d, t.width)
  | .addcImm _ t _ d _ _ => some (d, t.width)
  | .subb _ t _ d _ _ => some (d, t.width)
  | .subbImm _ t _ d _ _ => some (d, t.width)
  | .mul _ t _ d _ _ => some (d, t.width)
  | .mulImm _ t _ d _ _ => some (d, t.width)
  | .mulh _ t d _ _ => some (d, t.width)
  | .mulhImm _ t d _ _ => some (d, t.width)
  | .mad _ t _ d _ _ _ => some (d, t.width)
  | .div _ t d _ _ => some (d, t.width)
  | .divImm _ t d _ _ => some (d, t.width)
  | .rem _ t d _ _ => some (d, t.width)
  | .remImm _ t d _ _ => some (d, t.width)
  | .neg _ t _ d _ => some (d, t.width)
  | .abs _ t _ d _ => some (d, t.width)
  | .min _ t d _ _ => some (d, t.width)
  | .minImm _ t d _ _ => some (d, t.width)
  | .max _ t d _ _ => some (d, t.width)
  | .maxImm _ t d _ _ => some (d, t.width)
  | .lea _ t _ d _ _ => some (d, t.width)
  | .leaImm _ t _ d _ _ => some (d, t.width)
  | .sel _ t _ _ d _ _ => some (d, t.width)
  | .selImm _ t _ _ d _ _ => some (d, t.width)
  | .and _ t d _ _ => some (d, t.width)
  | .andImm _ t d _ _ => some (d, t.width)
  | .or _ t d _ _ => some (d, t.width)
  | .orImm _ t d _ _ => some (d, t.width)
  | .xor _ t d _ _ => some (d, t.width)
  | .xorImm _ t d _ _ => some (d, t.width)
  | .andn _ t d _ _ => some (d, t.width)
  | .andnImm _ t d _ _ => some (d, t.width)
  | .not _ t d _ => some (d, t.width)
  | .shl _ t d _ _ => some (d, t.width)
  | .shlImm _ t d _ _ => some (d, t.width)
  | .shr _ t d _ _ => some (d, t.width)
  | .shrImm _ t d _ _ => some (d, t.width)
  | .sar _ t d _ _ => some (d, t.width)
  | .sarImm _ t d _ _ => some (d, t.width)
  | .rol _ t d _ _ => some (d, t.width)
  | .rolImm _ t d _ _ => some (d, t.width)
  | .bfx _ t d _ _ => some (d, t.width)
  | .bfxImm _ t d _ _ => some (d, t.width)
  | .bfi _ t d _ _ _ => some (d, t.width)
  | .bfr _ t d _ => some (d, t.width)
  | .popc _ _ d _ => some (d, .w32)
  | .clz _ _ d _ => some (d, .w32)
  | .ctz _ _ d _ => some (d, .w32)
  | .cmp _ _ _ _ d _ _ => some (d, .w32)
  | .cmpImm _ _ _ _ d _ _ => some (d, .w32)
  | .mov _ t d _ => some (d, t.width)
  | .movi _ t _ d _ => some (d, t.width)
  | .moviImm _ t _ d _ => some (d, t.width)
  | .pand _ _ _ _ d => some (d, .w32)
  | .por _ _ _ _ d => some (d, .w32)
  | .pxor _ _ _ _ d => some (d, .w32)
  | .pnot _ _ _ d => some (d, .w32)
  | .fadd _ t _ d _ _ => some (d, t.width)
  | .faddImm _ t _ d _ _ => some (d, t.width)
  | .fsub _ t _ d _ _ => some (d, t.width)
  | .fsubImm _ t _ d _ _ => some (d, t.width)
  | .fmul _ t _ d _ _ => some (d, t.width)
  | .fmulImm _ t _ d _ _ => some (d, t.width)
  | .fma _ t _ d _ _ _ => some (d, t.width)
  | .fmin _ t d _ _ => some (d, t.width)
  | .fminImm _ t d _ _ => some (d, t.width)
  | .fmax _ t d _ _ => some (d, t.width)
  | .fmaxImm _ t d _ _ => some (d, t.width)
  | .fminm _ t d _ _ => some (d, t.width)
  | .fminmImm _ t d _ _ => some (d, t.width)
  | .fmaxm _ t d _ _ => some (d, t.width)
  | .fmaxmImm _ t d _ _ => some (d, t.width)
  | .fcmp _ _ _ _ d _ _ => some (d, .w32)
  | .fcmpImm _ _ _ _ d _ _ => some (d, .w32)
  | .fsgn _ t _ d _ _ => some (d, t.width)
  | .fclass _ t d _ => some (d, t.width)
  | .frnd _ t _ d _ => some (d, t.width)
  | .fcvt _ _ _ t _ d _ => some (d, t.width)
  | .f2i _ _ _ t _ d _ => some (d, t.width)
  | .i2f _ _ _ t _ d _ => some (d, t.width)
  | .rcp _ t _ d _ => some (d, t.width)
  | .rsq _ t d _ => some (d, t.width)
  | .sqrt _ t _ d _ => some (d, t.width)
  | .ex2 _ t d _ => some (d, t.width)
  | .lg2 _ t d _ => some (d, t.width)
  | .sin _ t d _ => some (d, t.width)
  | .cos _ t d _ => some (d, t.width)
  | .hadd2 _ _ _ d _ _ => some (d, .w32)
  | .hmul2 _ _ _ d _ _ => some (d, .w32)
  | .hfma2 _ _ _ d _ _ _ => some (d, .w32)
  | .qpack _ _ _ d _ _ => some (d, .w32)
  | .qunpk _ _ d _ _ => some (d, .w128)
  | .qscale _ _ d _ _ => some (d, .w64)
  | .spcmp _ _ _ d _ _ c => some (d, (if c = .none then .w32 else .w128))
  | .spexp _ _ _ d _ _ _ => some (d, .w128)
  | _ => none

/-- The predicate that an instruction writes (R110, R120, R121, R138). -/
def Instr.predicate : Instr → Option (Fin 7)
  | .addc _ _ pc _ _ _ => some pc
  | .addcImm _ _ pc _ _ _ => some pc
  | .subb _ _ pc _ _ _ => some pc
  | .subbImm _ _ pc _ _ _ => some pc
  | .cmp _ _ pd _ _ _ _ => some pd
  | .cmpImm _ _ pd _ _ _ _ => some pd
  | .fcmp _ _ pd _ _ _ _ => some pd
  | .fcmpImm _ _ pd _ _ _ _ => some pd
  | .pand _ pd _ _ _ => some pd
  | .por _ pd _ _ _ => some pd
  | .pxor _ pd _ _ _ => some pd
  | .pnot _ pd _ _ => some pd
  | _ => none

/-- An instruction that a thread predicated off still arrives at (R174, R265). -/
def Instr.collective : Instr → Bool
  | .xpull _ _ _ _ _ _ => true
  | .xpullImm _ _ _ _ _ => true
  | .xpush _ _ _ _ _ _ _ => true
  | .xvote _ _ _ _ _ => true
  | .xfirst _ _ _ _ _ => true
  | .xred _ _ _ _ _ _ => true
  | .xscan _ _ _ _ _ _ _ => true
  | .xmatch _ _ _ _ _ => true
  | .rdv _ _ => true
  | .rast _ _ _ _ _ => true
  | .mma _ _ _ _ _ => true
  | .mmaSp _ _ _ _ _ => true
  | .mmaSc _ _ _ _ _ => true
  | _ => false

end Sys2Proof

namespace Sys2Proof.Machine

/-- A guarded instruction with these sources and destinations executes: `c` is the thread whose turn it
is, after the latent errors of its registers are found (`s1`), and the sources read as `vs`. -/
structure Reads (s : State) (gd : Guard) (srcs dsts : List (Opnd × Width)) (s1 : State) (c : Cur)
    (vs : List (Quad × Bool)) : Prop where
  runs : ∃ c0, s.cur = some c0 ∧ guardHolds gd c0.t = true
    ∧ s1 = s.touch c0.r ((srcs ++ dsts).flatMap fun x => x.1.names x.2)
  cur : s1.cur = some c
  values : readAll s1 c srcs = .ok vs

/-- An instruction that a protected pair performs once executes (R42): it is the turn of a thread that
is no shadow, its sources read as `vs`, and in a protected launch those of its shadow read the same. -/
structure ReadsOnce (s : State) (gd : Guard) (srcs : List (Opnd × Width)) (s1 : State) (c : Cur)
    (vs : List (Quad × Bool)) : Prop where
  runs : ∃ c0, s.cur = some c0 ∧ guardHolds gd c0.t = true ∧ isShadow c0.cv c0.r = false
    ∧ s1 = s.touch c0.r (srcs.flatMap fun x => x.1.names x.2)
  cur : s1.cur = some c
  values : readAll s1 c srcs = .ok vs
  pair : c.cv.isProtected = true → ∀ t', s1.thread? (shadowOf c.r) = some t' →
    readAll s1 { c with r := shadowOf c.r, t := t' } srcs = .ok vs

/-- The next state of a class-A instruction: its result at the destination, the predicate, the flags and
the producer value of the current thread, and nothing else (R57 to R60). -/
def Cur.result (c : Cur) (s1 : State) (d : Opnd) (w : Width) (r : ARes) :
    Host.Outcome State Fault Refusal :=
  .next (s1.modThread c.r fun t => t.applyA d w r)

/-- It is the turn of a thread with no poisoned register on a strand that is not poisoned, and no code
word holds a latent error. -/
structure Clean (s : State) (c : Cur) : Prop where
  cur : s.cur = some c
  upsets : s.upsets = []
  regs : c.t.poison = 0
  keys : ∀ k, s.strand? c = some k → k.poison = false

/-- Every byte and tag of DRAM and of the scratchpads reads the same. -/
def sameMemory (s t : State) : Prop :=
  (∀ d a, memRead (t.die d).dram a = memRead (s.die d).dram a)
    ∧ (∀ d, (t.die d).tags = (s.die d).tags)
    ∧ (∀ d n a, memRead (t.core d n).scratch a = memRead (s.core d n).scratch a)
    ∧ ∀ d n, (t.core d n).scratchTags = (s.core d n).scratchTags

/-- The members of the current thread's crew that have a key-class instruction before them, and what its
sources read for each. -/
structure KeyReads (s : State) (c : Cur) (srcs : List Opnd) (vals : List (TRef × List Word)) : Prop where
  cur : s.cur = some c
  upsets : s.upsets = []
  members : vals.map Prod.fst = (s.issuedCrew c).map Prod.fst
  values : (s.issuedCrew c).map (s.keySources c srcs) = vals.map fun v => .ok v.2

/-- The next state of a key-class instruction: one key write of all its members, the producer value of
each, and the slot done for all of them (R124). -/
def Cur.keyResult (c : Cur) (s : State) (d : Opnd) (vals : List (TRef × Word)) :
    Host.Outcome State Fault Refusal :=
  .next ((s.keyResults c d vals).skipRest (vals.map Prod.fst) c.r)

end Sys2Proof.Machine
end

