-- ==== Sys2Proof/Certificates/Slice0/Obligations.lean ====
section
/-! DEFINITION. The statements for the provers. -/

open Sys2Proof Sys2Proof.Machine

/-- R109: add, sub, mul, mad, neg and abs compute an exact result, and then wrap it or saturate it. -/
def Obligations.IntegerArithmetic : Prop :=
  ∀ (s s1 : State) (cu : Cur) (gd : Guard) (t : Ty) (sat : Bool) (d a b c : Opnd) (imm : BitVec 20)
    (va vb vc : Quad × Bool),
    let w := t.width
    let x := asInt t va
    let y := asInt t vb
    let z := asInt t vc
    let put (v : Int) := cu.result s1 d w
      { value := putInt t (if sat then min (max v (tyLo t)) (tyHi t) else v) }
    (Reads s gd [(a, w), (b, w)] [(d, w)] s1 cu [va, vb] →
      exec (.add gd t sat d a b) s = put (x + y)
      ∧ exec (.sub gd t sat d a b) s = put (x - y)
      ∧ exec (.mul gd t sat d a b) s = put (x * y)
      ∧ (b = immInt imm →
          exec (.addImm gd t sat d a imm) s = put (x + y)
          ∧ exec (.subImm gd t sat d a imm) s = put (x - y)
          ∧ exec (.mulImm gd t sat d a imm) s = put (x * y)))
    ∧ (Reads s gd [(a, w), (b, w), (c, w)] [(d, w)] s1 cu [va, vb, vc] →
      exec (.mad gd t sat d a b c) s = put (x * y + z))
    ∧ (Reads s gd [(a, w)] [(d, w)] s1 cu [va] →
      exec (.neg gd t sat d a) s = put (-x)
      ∧ exec (.abs gd t sat d a) s = put (if x < 0 then -x else x))

/-- R110: addc and subb take the carry predicate as both carry in and carry out. -/
def Obligations.CarryChains : Prop :=
  ∀ (s s1 : State) (cu : Cur) (gd : Guard) (t : Ty) (pc : Fin 7) (d a b : Opnd) (imm : BitVec 20)
    (va vb : Quad × Bool),
    let w := t.width
    let cin : Int := if cu.t.preds.getLsbD pc.val then 1 else 0
    let put (v : Int) := cu.result s1 d w
      { value := putInt t v
        pred := some (pc.val, if tySigned t then decide (v > tyHi t) || decide (v < tyLo t)
          else decide (v > tyHi t) || decide (v < 0)) }
    Reads s gd [(a, w), (b, w)] [(d, w)] s1 cu [va, vb] →
      exec (.addc gd t pc d a b) s = put (asInt t va + asInt t vb + cin)
      ∧ exec (.subb gd t pc d a b) s = put (asInt t va - asInt t vb - cin)
      ∧ (b = immInt imm →
          exec (.addcImm gd t pc d a imm) s = put (asInt t va + asInt t vb + cin)
          ∧ exec (.subbImm gd t pc d a imm) s = put (asInt t va - asInt t vb - cin))

/-- R111 to R113: the upper half of a product; division and remainder with the four cases of their
table; the lesser and the greater. -/
def Obligations.ProductsQuotientsOrder : Prop :=
  ∀ (s s1 : State) (cu : Cur) (gd : Guard) (t : Ty) (d a b : Opnd) (imm : BitVec 20)
    (va vb : Quad × Bool),
    let w := t.width
    let x := asInt t va
    let y := asInt t vb
    let put (v : Int) := cu.result s1 d w { value := putInt t v }
    let corner := tySigned t = true ∧ x = tyLo t ∧ y = -1
    Reads s gd [(a, w), (b, w)] [(d, w)] s1 cu [va, vb] →
      exec (.mulh gd t d a b) s = put (x * y / 2 ^ tyBits t)
      ∧ (y = 0 → exec (.div gd t d a b) s = put (if tySigned t then -1 else tyHi t)
          ∧ exec (.rem gd t d a b) s = put x)
      ∧ (corner → exec (.div gd t d a b) s = put (tyLo t) ∧ exec (.rem gd t d a b) s = put 0)
      ∧ (y ≠ 0 → ¬ corner → exec (.div gd t d a b) s = put (Int.tdiv x y)
          ∧ exec (.rem gd t d a b) s = put (x - y * Int.tdiv x y))
      ∧ exec (.min gd t d a b) s = put (min x y)
      ∧ exec (.max gd t d a b) s = put (max x y)
      ∧ (b = immInt imm →
          exec (.mulhImm gd t d a imm) s = exec (.mulh gd t d a b) s
          ∧ exec (.divImm gd t d a imm) s = exec (.div gd t d a b) s
          ∧ exec (.remImm gd t d a imm) s = exec (.rem gd t d a b) s
          ∧ exec (.minImm gd t d a imm) s = put (min x y)
          ∧ exec (.maxImm gd t d a imm) s = put (max x y))

/-- R114: each bitwise and shift instruction, as the operation on bit vectors of its type's width. -/
def Obligations.BitInstructions : Prop :=
  ∀ (s s1 : State) (cu : Cur) (gd : Guard) (t : Ty) (d a b : Opnd) (imm : BitVec 20)
    (va vb : Quad × Bool), t ∈ bitTys →
    let w := t.width
    let x : BitVec (tyBits t) := va.1.setWidth (tyBits t)
    let y : BitVec (tyBits t) := vb.1.setWidth (tyBits t)
    let n := (lo32 vb).toNat
    let put (v : BitVec (tyBits t)) := cu.result s1 d w { value := v.setWidth 128 }
    (Reads s gd [(a, w), (b, w)] [(d, w)] s1 cu [va, vb] →
      exec (.and gd t d a b) s = put (x &&& y)
      ∧ exec (.or gd t d a b) s = put (x ||| y)
      ∧ exec (.xor gd t d a b) s = put (x ^^^ y)
      ∧ exec (.andn gd t d a b) s = put (x &&& ~~~ y)
      ∧ (b = immInt imm →
          exec (.andImm gd t d a imm) s = put (x &&& y)
          ∧ exec (.orImm gd t d a imm) s = put (x ||| y)
          ∧ exec (.xorImm gd t d a imm) s = put (x ^^^ y)
          ∧ exec (.andnImm gd t d a imm) s = put (x &&& ~~~ y)))
    ∧ (Reads s gd [(a, w), (b, .w32)] [(d, w)] s1 cu [va, vb] →
      exec (.shl gd t d a b) s = put (x <<< n)
      ∧ exec (.shr gd t d a b) s = put (x >>> n)
      ∧ exec (.sar gd t d a b) s = put (x.sshiftRight n)
      ∧ exec (.rol gd t d a b) s = put (x.rotateLeft n)
      ∧ (b = immInt imm →
          exec (.shlImm gd t d a imm) s = put (x <<< n)
          ∧ exec (.shrImm gd t d a imm) s = put (x >>> n)
          ∧ exec (.sarImm gd t d a imm) s = put (x.sshiftRight n)
          ∧ exec (.rolImm gd t d a imm) s = put (x.rotateLeft n)))
    ∧ (Reads s gd [(a, w)] [(d, w)] s1 cu [va] →
      exec (.not gd t d a) s = put (~~~ x)
      ∧ exec (.bfr gd t d a) s = put x.reverse)
    ∧ (Reads s gd [(a, w)] [(d, .w32)] s1 cu [va] →
      exec (.popc gd t d a) s = cu.result s1 d .w32 { value := x.cpop.setWidth 128 }
      ∧ exec (.clz gd t d a) s = cu.result s1 d .w32 { value := x.clz.setWidth 128 }
      ∧ exec (.ctz gd t d a) s = cu.result s1 d .w32 { value := x.ctz.setWidth 128 })

/-- R115: bfx and bfi with their clamped field. -/
def Obligations.FieldInstructions : Prop :=
  ∀ (s s1 : State) (cu : Cur) (gd : Guard) (t : Ty) (d a b c : Opnd) (imm : BitVec 20)
    (va vb vc : Quad × Bool),
    let w := t.width
    let bits := tyBits t
    let x : BitVec bits := va.1.setWidth bits
    let pos (k : Word) := min (k.extractLsb' 0 8).toNat bits
    let len (k : Word) := min (k.extractLsb' 8 8).toNat (bits - pos k)
    (t ∈ wordTys → Reads s gd [(a, w), (b, .w32)] [(d, w)] s1 cu [va, vb] →
      let k := lo32 vb
      let field : BitVec (len k) := x.extractLsb' (pos k) (len k)
      let put := cu.result s1 d w
        { value := putInt t (if tySigned t then field.toInt else (field.toNat : Int)) }
      exec (.bfx gd t d a b) s = put
      ∧ (b = immInt imm → exec (.bfxImm gd t d a imm) s = put))
    ∧ (t ∈ bitTys → Reads s gd [(a, w), (b, w), (c, .w32)] [(d, w)] s1 cu [va, vb, vc] →
      let k := lo32 vc
      let mask : BitVec bits := BitVec.ofNat bits ((2 ^ len k - 1) * 2 ^ pos k)
      exec (.bfi gd t d a b c) s = cu.result s1 d w
        { value := ((x &&& ~~~ mask) ||| ((vb.1.setWidth bits <<< pos k) &&& mask)).setWidth 128 })

/-- R116 to R119: lea, sel, mov and movi. That a movi which keeps bits of D reads 0 for them where D is none is
the model's choice (log 95). -/
def Obligations.AddressesAndMoves : Prop :=
  ∀ (s s1 : State) (cu : Cur) (gd : Guard) (t : Ty) (sh : Fin 8) (inv : Bool) (pn : Fin 8) (pos : Pos)
    (d a b : Opnd) (imm : BitVec 20) (va vb vd : Quad × Bool),
    let w := t.width
    (t ∈ [Ty.n32, .n64] → Reads s gd [(a, w), (b, .w32)] [(d, w)] s1 cu [va, vb] →
      let put := cu.result s1 d w
        { value := (va.1.setWidth (tyBits t) + (lo32 vb).signExtend (tyBits t) <<< sh.val).setWidth 128 }
      exec (.lea gd t sh d a b) s = put
      ∧ (b = immInt imm → exec (.leaImm gd t sh d a imm) s = put))
    ∧ (Reads s gd [(a, w), (b, w)] [(d, w)] s1 cu [va, vb] →
      let p := (if pn.val = 7 then true else cu.t.preds.getLsbD pn.val) ^^ inv
      let v := if p then va else vb
      exec (.sel gd t inv pn d a b) s = cu.result s1 d w { value := v.1, tag := v.2 }
      ∧ (b = immInt imm →
          exec (.selImm gd t inv pn d a imm) s = cu.result s1 d w { value := v.1, tag := v.2 }))
    ∧ (Reads s gd [(a, w)] [(d, w)] s1 cu [va] →
      exec (.mov gd t d a) s = cu.result s1 d w { value := va.1, tag := va.2 })
    ∧ (t ∈ bitTys → (32 ≤ pos.shift → t = .b64) →
      Reads s gd [(if pos = .s0 then .none else d, w), (b, w)] [(d, w)] s1 cu [vd, vb] →
      let y : BitVec (tyBits t) := vb.1.setWidth (tyBits t)
      let mask : BitVec (tyBits t) := (0xFFFFF : BitVec (tyBits t)) <<< pos.shift
      let put := cu.result s1 d w
        { value := if pos = .s0 then y.setWidth 128
            else ((vd.1.setWidth (tyBits t) &&& ~~~ mask) ||| ((y <<< pos.shift) &&& mask)).setWidth 128 }
      exec (.movi gd t pos d b) s = put
      ∧ (b = immInt imm → exec (.moviImm gd t pos d imm) s = put))

/-- R120, R121: cmp and the predicate group. -/
def Obligations.ComparesAndPredicates : Prop :=
  ∀ (s s1 : State) (cu : Cur) (gd : Guard) (t : Ty) (cond : Cond) (pd : Fin 7) (pa pb : Fin 8)
    (d a b : Opnd) (imm : BitVec 20) (va vb : Quad × Bool),
    let put (v : Bool) := cu.result s1 d .w32 { value := if v then 1 else 0, pred := some (pd.val, v) }
    let p (n : Fin 8) := if n.val = 7 then true else cu.t.preds.getLsbD n.val
    (Reads s gd [(a, t.width), (b, t.width)] [(d, .w32)] s1 cu [va, vb] →
      let x := asInt t va
      let y := asInt t vb
      let holds := match cond with
        | .eq => decide (x = y) | .ne => decide (x ≠ y) | .lt => decide (x < y)
        | .le => decide (x ≤ y) | .gt => decide (x > y) | .ge => decide (x ≥ y) | _ => false
      exec (.cmp gd t pd cond d a b) s = put holds
      ∧ (b = immInt imm → exec (.cmpImm gd t pd cond d a imm) s = put holds))
    ∧ (Reads s gd [] [(d, .w32)] s1 cu [] →
      exec (.pand gd pd pa pb d) s = put (p pa && p pb)
      ∧ exec (.por gd pd pa pb d) s = put (p pa || p pb)
      ∧ exec (.pxor gd pd pa pb d) s = put (p pa ^^ p pb)
      ∧ exec (.pnot gd pd pa d) s = put (!p pa))

/-- R130: how an exact value m times 2^e is rounded to a multiple of 2^q under each mode; and what an
overflow writes under each mode, in a format that has infinities and in E4M3, and with .sat; and what the
rounding to each format is: the unit of the last bit kept, no finer than that of the subnormals, the overflow
past the largest finite value, and the flags, tininess after rounding with an unlimited exponent. -/
def Obligations.Rounding : Prop :=
  (∀ (r : Rnd) (neg : Bool) (m : Nat) (e q : Int), e < q →
    let unit := 2 ^ (q - e).toNat
    let k := (roundAt r neg m e q).1
    ((roundAt r neg m e q).2 = true ↔ k * unit ≠ m)
    ∧ k * unit < m + unit ∧ m < k * unit + unit
    ∧ (r = .rn → 2 * (k * unit) ≤ 2 * m + unit ∧ 2 * m ≤ 2 * (k * unit) + unit
        ∧ (2 * (k * unit) = 2 * m + unit ∨ 2 * m = 2 * (k * unit) + unit → k % 2 = 0))
    ∧ (r = .rz ∨ r = .ru ∧ neg = true ∨ r = .rd ∧ neg = false → k * unit ≤ m)
    ∧ (r = .ru ∧ neg = false ∨ r = .rd ∧ neg = true → m ≤ k * unit))
  ∧ (∀ (f : Fmt) (neg : Bool),
    let inf := if f.hasInf then f.signed neg f.infBits else f.nan
    let largest := f.signed neg f.maxFinite
    f.overflow .rn false neg = inf
    ∧ f.overflow .rz false neg = largest
    ∧ f.overflow .ru false neg = (if neg then largest else inf)
    ∧ f.overflow .rd false neg = (if neg then inf else largest)
    ∧ ∀ r, f.overflow r true neg = largest)
  ∧ (∀ (f : Fmt) (r : Rnd) (sat neg : Bool) (m : Nat) (e : Int),
    f ∈ [fp64, fp32, fp16, bfp16, fpE4M3, fpE5M2] → m ≠ 0 →
    let below (a : Nat) (p : Int) (b : Nat) (q : Int) :=
      a * 2 ^ (p - min p q).toNat < b * 2 ^ (q - min p q).toNat
    let leastNormal : Int := 2 - 2 ^ (f.ebits - 1)
    let free := e + m.log2 - f.fbits
    let unit := max free (leastNormal - f.fbits)
    let k := roundAt r neg m e unit
    ∃ largest top, f.read f.maxFinite = .num false largest top
      ∧ (below largest top k.1 unit → f.roundNum r sat neg m e = (f.overflow r sat neg, flOF ||| flNX))
      ∧ (¬ below largest top k.1 unit →
        let v := f.roundNum r sat neg m e
        v.1 < 2 ^ f.width
        ∧ (∃ m' e', f.read v.1 = .num neg m' e' ∧ ¬ below m' e' k.1 unit ∧ ¬ below k.1 unit m' e')
        ∧ v.2 = (if k.2 then
            flNX ||| (if below (roundAt r neg m e free).1 free 1 leastNormal then flUF else 0) else 0)))

/-- R135 to R137: the floating sums, products and fused products, their packed pairs, and the minimum
and maximum group; that group by the class of its operands, with −0 below +0; and the sums, products and fused
products (R131, R132): of finite values the exact one, rounded once, with the sign of an exact zero; of
infinities and NaNs by their table. -/
def Obligations.FloatArithmetic : Prop :=
  (∀ (s s1 : State) (cu : Cur) (gd : Guard) (t : Ty) (rnd : Rnd) (d a b c : Opnd) (imm : BitVec 20)
    (va vb vc : Quad × Bool),
    let w := t.width
    let f := fmtOf t
    let x := fbitsOf t va
    let y := fbitsOf t vb
    let z := fbitsOf t vc
    let put (v : Nat × Word) := cu.result s1 d w { value := ofNatQ v.1, flags := v.2 }
    let pair (lo hi : Nat × Word) := cu.result s1 d .w32
      { value := ofNatQ (lo.1 + 2 ^ 16 * hi.1), flags := lo.2 ||| hi.2 }
    let lower (v : Quad × Bool) := (lo32 v).toNat % 2 ^ 16
    let upper (v : Quad × Bool) := (lo32 v).toNat / 2 ^ 16
    (Reads s gd [(a, w), (b, w)] [(d, w)] s1 cu [va, vb] →
      exec (.fadd gd t rnd d a b) s = put (f.add rnd x y)
      ∧ exec (.fsub gd t rnd d a b) s = put (f.sub rnd x y)
      ∧ exec (.fmul gd t rnd d a b) s = put (f.mul rnd x y)
      ∧ exec (.fmin gd t d a b) s = put (f.pick false false x y)
      ∧ exec (.fmax gd t d a b) s = put (f.pick true false x y)
      ∧ exec (.fminm gd t d a b) s = put (f.pick false true x y)
      ∧ exec (.fmaxm gd t d a b) s = put (f.pick true true x y)
      ∧ (b = immFloat t imm →
          exec (.faddImm gd t rnd d a imm) s = put (f.add rnd x y)
          ∧ exec (.fsubImm gd t rnd d a imm) s = put (f.sub rnd x y)
          ∧ exec (.fmulImm gd t rnd d a imm) s = put (f.mul rnd x y)
          ∧ exec (.fminImm gd t d a imm) s = put (f.pick false false x y)
          ∧ exec (.fmaxImm gd t d a imm) s = put (f.pick true false x y)
          ∧ exec (.fminmImm gd t d a imm) s = put (f.pick false true x y)
          ∧ exec (.fmaxmImm gd t d a imm) s = put (f.pick true true x y)))
    ∧ (Reads s gd [(a, w), (b, w), (c, w)] [(d, w)] s1 cu [va, vb, vc] →
      exec (.fma gd t rnd d a b c) s = put (f.fma rnd x y z))
    ∧ (Reads s gd [(a, .w32), (b, .w32)] [(d, .w32)] s1 cu [va, vb] →
      exec (.hadd2 gd t rnd d a b) s
        = pair (f.add rnd (lower va) (lower vb)) (f.add rnd (upper va) (upper vb))
      ∧ exec (.hmul2 gd t rnd d a b) s
        = pair (f.mul rnd (lower va) (lower vb)) (f.mul rnd (upper va) (upper vb)))
    ∧ (Reads s gd [(a, .w32), (b, .w32), (c, .w32)] [(d, .w32)] s1 cu [va, vb, vc] →
      exec (.hfma2 gd t rnd d a b c) s
        = pair (f.fma rnd (lower va) (lower vb) (lower vc)) (f.fma rnd (upper va) (upper vb) (upper vc))))
  ∧ (∀ (f : Fmt) (greater number : Bool) (a b : Nat),
    let x := f.read a
    let y := f.read b
    let below (p q : FVal) := if p.isZero && q.isZero then p.neg || !q.neg else p.le q
    f.pick greater number a b =
      (if x.isNan && y.isNan then f.nan
        else if x.isNan then (if number then b else f.nan)
        else if y.isNan then (if number then a else f.nan)
        else if below x y then (if greater then b else a) else if greater then a else b,
       if x.isSignalling || y.isSignalling then flNV else 0))
  ∧ (∀ (f : Fmt) (r : Rnd) (a b c : Nat),
    let x := f.read a
    let y := f.read b
    let z := f.read c
    let units (n : Bool) (m : Nat) (e u : Int) : Int := (if n then -1 else 1) * (m * 2 ^ (e - u).toNat : Nat)
    let once (v u : Int) (zero : Bool) :=
      if v = 0 then (f.signed zero 0, 0) else f.roundNum r false (decide (v < 0)) v.natAbs u
    let zero (p q : Bool) := if p = q then p else r == .rd
    let inf (n : Bool) : Nat × Word := (f.signed n f.infBits, 0)
    let nan (invalid : Bool) := (f.nan, if invalid then flNV else 0)
    let product := x.neg != y.neg
    let undefined := x.isZero && y.isInf || x.isInf && y.isZero
    (∀ n m e n' m' e', x = .num n m e → y = .num n' m' e' →
      let u := min e e'
      f.add r a b = once (units n m e u + units n' m' e' u) u (zero n n')
      ∧ f.sub r a b = once (units n m e u - units n' m' e' u) u (zero n (!n'))
      ∧ f.mul r a b = once (units (n != n') (m * m') 0 0) (e + e') (n != n')
      ∧ (∀ n3 m3 e3, z = .num n3 m3 e3 → let u := min (e + e') e3
        f.fma r a b c = once (units (n != n') (m * m') (e + e') u + units n3 m3 e3 u) u (zero (n != n') n3))
      ∧ ∀ n3, z = .inf n3 → f.fma r a b c = inf n3)
    ∧ (x.isNan || y.isNan →
      f.add r a b = nan (x.isSignalling || y.isSignalling)
      ∧ f.sub r a b = nan (x.isSignalling || y.isSignalling)
      ∧ f.mul r a b = nan (x.isSignalling || y.isSignalling))
    ∧ (x.isNan || y.isNan || z.isNan →
      f.fma r a b c = nan (x.isSignalling || y.isSignalling || z.isSignalling || undefined))
    ∧ (∀ n, x = .inf n → y.isNan = false →
      f.add r a b = (if y = .inf (!n) then nan true else inf n)
      ∧ f.sub r a b = (if y = .inf n then nan true else inf n))
    ∧ (∀ n m e n', x = .num n m e → y = .inf n' → f.add r a b = inf n' ∧ f.sub r a b = inf (!n'))
    ∧ (x.isNan = false → y.isNan = false → x.isInf || y.isInf →
      f.mul r a b = (if undefined then nan true else inf product)
      ∧ (z.isNan = false →
        f.fma r a b c = if undefined || z == .inf (!product) then nan true else inf product)))

/-- R138 to R141: fcmp, fsgn, fclass and frnd; and the class mask: which one bit is set. -/
def Obligations.FloatCompareSignClass : Prop :=
  (∀ (s s1 : State) (cu : Cur) (gd : Guard) (t : Ty) (rnd : Rnd) (cond : Cond) (pd : Fin 7) (sop : Fin 3)
    (d a b : Opnd) (imm : BitVec 20) (va vb : Quad × Bool), t ∈ float3Tys →
    let f := fmtOf t
    let x := f.read (fbitsOf t va)
    let y := f.read (fbitsOf t vb)
    (Reads s gd [(a, t.width), (b, t.width)] [(d, .w32)] s1 cu [va, vb] →
      let holds := condFloat cond x y
      let r : ARes :=
        { value := if holds then 1 else 0
          pred := some (pd.val, holds)
          flags := if (if cond ∈ [Cond.lt, .le, .gt, .ge] then x.isNan || y.isNan
            else x.isSignalling || y.isSignalling) then flNV else 0 }
      exec (.fcmp gd t pd cond d a b) s = cu.result s1 d .w32 r
      ∧ (b = immFloat t imm → exec (.fcmpImm gd t pd cond d a imm) s = cu.result s1 d .w32 r))
    ∧ (Reads s gd [(a, t.width), (b, t.width)] [(d, t.width)] s1 cu [va, vb] →
      let sa := f.neg (fbitsOf t va)
      let sb := f.neg (fbitsOf t vb)
      let sign := if sop.val = 0 then sb else if sop.val = 1 then !sb else sa ^^ sb
      exec (.fsgn gd t sop d a b) s = cu.result s1 d t.width
        { value := ofNatQ (fbitsOf t va % f.signBit + if sign then f.signBit else 0) })
    ∧ (Reads s gd [(a, t.width)] [(d, t.width)] s1 cu [va] →
      exec (.fclass gd t d a) s = cu.result s1 d t.width { value := ofNatQ (f.classOf (fbitsOf t va)) }
      ∧ exec (.frnd gd t rnd d a) s = cu.result s1 d t.width
        { value := ofNatQ (f.toIntegral rnd (fbitsOf t va)).1
          flags := if x.isSignalling then flNV else 0 }))
  ∧ (∀ (t : Ty) (bits : Nat), t ∈ float3Tys → bits < 2 ^ tyBits t →
    let f := fmtOf t
    let e := bits / 2 ^ f.fbits % 2 ^ f.ebits
    let m := bits % 2 ^ f.fbits
    let top := 2 ^ f.ebits - 1
    f.classOf bits =
      if e = top then
        (if m = 0 then (if f.neg bits then 2 ^ 0 else 2 ^ 7)
          else if m < 2 ^ (f.fbits - 1) then 2 ^ 8 else 2 ^ 9)
      else if e = 0 then
        (if m = 0 then (if f.neg bits then 2 ^ 3 else 2 ^ 4) else if f.neg bits then 2 ^ 2 else 2 ^ 5)
      else if f.neg bits then 2 ^ 1 else 2 ^ 6)

/-- R142 to R147: the special functions and the conversions write what their tables give; and what fcvt and
i2f give: a number rounded once under the mode, an infinity and a NaN by the destination format and .sat. -/
def Obligations.SpecialFunctionsAndConversions : Prop :=
  (∀ (s s1 : State) (cu : Cur) (gd : Guard) (t ts : Ty) (rnd : Rnd) (sat : Bool) (d a : Opnd)
    (va : Quad × Bool),
    let f := fmtOf t
    let x := fbitsOf t va
    let put (v : Nat × Word) := cu.result s1 d t.width { value := ofNatQ v.1, flags := v.2 }
    (Reads s gd [(a, t.width)] [(d, t.width)] s1 cu [va] →
      exec (.rcp gd t rnd d a) s = put (rcpOp f rnd x)
      ∧ exec (.rsq gd t d a) s = put (rsqOp f x)
      ∧ exec (.sqrt gd t rnd d a) s = put (sqrtOp f rnd x)
      ∧ exec (.ex2 gd t d a) s = put (ex2Op f x)
      ∧ exec (.lg2 gd t d a) s = put (lg2Op f x)
      ∧ exec (.sin gd t d a) s = put (sinOp f x)
      ∧ exec (.cos gd t d a) s = put (cosOp f x))
    ∧ (Reads s gd [(a, ts.width)] [(d, t.width)] s1 cu [va] →
      exec (.fcvt gd sat rnd t ts d a) s = put (convertFloat f (fmtOf ts) rnd sat (fbitsOf ts va))
      ∧ (let r := floatToInt t (fmtOf ts) rnd sat (fbitsOf ts va)
        exec (.f2i gd sat rnd t ts d a) s
          = cu.result s1 d t.width { value := putInt t r.1, flags := r.2 })
      ∧ exec (.i2f gd sat rnd t ts d a) s = put (intToFloat f rnd sat (asInt ts va))))
  ∧ (∀ (fd fs : Fmt) (rnd : Rnd) (sat : Bool) (x : Nat),
    convertFloat fd fs rnd sat x = match fs.read x with
      | .nan sig => (fd.nan, if sig then flNV else 0)
      | .inf n => if sat then (fd.signed n fd.maxFinite, 0)
        else if fd.hasInf then (fd.signed n fd.infBits, 0) else (fd.nan, flNV)
      | .num n m e => if m = 0 then (fd.signed n 0, 0) else fd.roundNum rnd sat n m e)
  ∧ (∀ (fd : Fmt) (rnd : Rnd) (sat : Bool) (v : Int),
    intToFloat fd rnd sat v = if v = 0 then (0, 0) else fd.roundNum rnd sat (decide (v < 0)) v.natAbs 0)

/-- R142, R146: each special function at the inputs its table names a result for; f2i by the source and
the destination's range; and R143: rcp and sqrt are the exact value rounded once, and rsq the rounding of its
own, where an inexact value stands for the open interval between two neighbours with two bits to spare; ex2
and lg2 are exact where their result is a power of two or an integer, and elsewhere, as sin and cos always,
inexact; the four are rounded from their digits, to nearest with .f16 and with .f32 as far off as the rule
bounds, which is a free value of the model (log 3). -/
def Obligations.SpecialFunctionClasses : Prop :=
  (∀ (f : Fmt) (rnd : Rnd) (x : Nat), f ∈ [fp16, fp32] →
    let inf (n : Bool) := f.signed n f.infBits
    let nanNV := (f.nan, flNV)
    let one := f.bias * 2 ^ f.fbits
    (∀ sig, f.read x = .nan sig →
      rcpOp f rnd x = (f.nan, if sig then flNV else 0)
      ∧ rsqOp f x = (f.nan, if sig then flNV else 0) ∧ sqrtOp f rnd x = (f.nan, if sig then flNV else 0)
      ∧ ex2Op f x = (f.nan, if sig then flNV else 0) ∧ lg2Op f x = (f.nan, if sig then flNV else 0)
      ∧ sinOp f x = (f.nan, if sig then flNV else 0) ∧ cosOp f x = (f.nan, if sig then flNV else 0))
    ∧ (x = inf true →
      rcpOp f rnd x = (f.signed true 0, 0) ∧ rsqOp f x = nanNV ∧ sqrtOp f rnd x = nanNV
      ∧ ex2Op f x = (0, 0) ∧ lg2Op f x = nanNV ∧ sinOp f x = nanNV ∧ cosOp f x = nanNV)
    ∧ (x = inf false →
      rcpOp f rnd x = (0, 0) ∧ rsqOp f x = (0, 0) ∧ sqrtOp f rnd x = (inf false, 0)
      ∧ ex2Op f x = (inf false, 0) ∧ lg2Op f x = (inf false, 0) ∧ sinOp f x = nanNV ∧ cosOp f x = nanNV)
    ∧ (∀ n, x = f.signed n 0 →
      rcpOp f rnd x = (inf n, flDZ) ∧ rsqOp f x = (inf n, flDZ) ∧ sqrtOp f rnd x = (x, 0)
      ∧ ex2Op f x = (one, 0) ∧ lg2Op f x = (inf true, flDZ) ∧ sinOp f x = (x, 0) ∧ cosOp f x = (one, 0))
    ∧ (∀ m e, f.read x = .num true m e → m ≠ 0 →
      rsqOp f x = nanNV ∧ sqrtOp f rnd x = nanNV ∧ lg2Op f x = nanNV))
  ∧ (∀ (t : Ty) (f : Fmt) (rnd : Rnd) (sat : Bool) (x : Nat),
    (∀ sig, f.read x = .nan sig → floatToInt t f rnd sat x = (0, flNV))
    ∧ (∀ n, f.read x = .inf n →
      floatToInt t f rnd sat x = (if sat then (if n then tyLo t else tyHi t) else 0, flNV))
    ∧ ∀ n m e, f.read x = .num n m e →
      let k := roundAt rnd n m e 0
      let v : Int := if n then -(k.1 : Int) else k.1
      floatToInt t f rnd sat x =
        if tyLo t ≤ v ∧ v ≤ tyHi t then (v, if k.2 then flNX else 0)
        else (if sat then (if v < tyLo t then tyLo t else tyHi t) else v, flNV))
  ∧ (∀ (f : Fmt) (rnd : Rnd) (x : Nat) (n : Bool) (m : Nat) (e : Int), f ∈ [fp16, fp32] →
    f.read x = .num n m e → m ≠ 0 →
    let below (a : Nat) (p : Int) (b : Nat) (q : Int) :=
      a * 2 ^ (p - min p q).toNat < b * 2 ^ (q - min p q).toNat
    let same (a : Nat) (p : Int) (b : Nat) (q : Int) := ¬ below a p b q ∧ ¬ below b q a p
    let stands (d : Nat) (p : Int) (at' : Nat → Int → Prop) (under above : Nat → Int → Prop) :=
      at' d p ∨ ∃ j, d = 2 * j + 1 ∧ 2 ^ (f.fbits + 2) ≤ j ∧ under j (p + 1) ∧ above (j + 1) (p + 1)
    (∃ d p, rcpOp f rnd x = f.roundNum rnd false n d p
      ∧ stands d p (fun d p => same (d * m) (p + e) 1 0) (fun j q => below (j * m) (q + e) 1 0)
        (fun j q => below 1 0 (j * m) (q + e)))
    ∧ (n = false → ∃ d p, sqrtOp f rnd x = f.roundNum rnd false false d p
      ∧ stands d p (fun d p => same (d * d) (2 * p) m e) (fun j q => below (j * j) (2 * q) m e)
        (fun j q => below m e (j * j) (2 * q)))
    ∧ (n = false → ∃ d p, rsqOp f x = bounded f 1 x (.ulps 1) false (false, d, p)
      ∧ stands d p (fun d p => same (d * d * m) (2 * p + e) 1 0)
        (fun j q => below (j * j * m) (2 * q + e) 1 0) (fun j q => below 1 0 (j * j * m) (2 * q + e)))
    ∧ ex2Op f x = bounded f 3 x (.ulps 2) true (false, ex2Num n m e)
    ∧ (n = false → lg2Op f x = bounded f 4 x
      (if below m e 1 (-1) ∨ below 1 1 m e then .ulps 2 else .absolute 22) false (lg2Num m e))
    ∧ sinOp f x = bounded f 5 x (.absolute 21) false (sinNum n m e)
    ∧ cosOp f x = bounded f 6 x (.absolute 21) false (cosNum n m e)
    ∧ (sinNum true m e).2 = (sinNum false m e).2 ∧ cosNum true m e = cosNum false m e
    ∧ (∀ k : Int, same m e k.natAbs 0 → decide (k < 0) = n → f.qmin ≤ k → k ≤ f.bias →
      ∃ m' e', f.read (ex2Op f x).1 = .num false m' e' ∧ same m' e' 1 k ∧ (ex2Op f x).2 = 0)
    ∧ ((∀ k, ¬ same m e k 0) → (ex2Op f x).2 &&& flNX = flNX)
    ∧ (∀ k : Int, n = false → same m e 1 k →
      ∃ m' e', f.read (lg2Op f x).1 = .num (decide (k < 0)) m' e' ∧ same m' e' k.natAbs 0
        ∧ (lg2Op f x).2 = 0)
    ∧ (n = false → (∀ k, ¬ same m e 1 k) → (lg2Op f x).2 &&& flNX = flNX)
    ∧ (sinOp f x).2 &&& flNX = flNX ∧ (cosOp f x).2 &&& flNX = flNX)
  ∧ (∀ (fn x : Nat) (b : Bound) (keep neg : Bool) (m : Nat) (e : Int), m ≠ 0 →
    let units (n : Bool) (m : Nat) (e u : Int) : Int := (if n then -1 else 1) * (m * 2 ^ (e - u).toNat : Nat)
    let near := fp32.roundNum .rn false neg m e
    let v := bounded fp32 fn x b keep (neg, m, e)
    bounded fp16 fn x b keep (neg, m, e) = fp16.roundNum .rn false neg m e
    ∧ v.2 = near.2
    ∧ (near.2 &&& flNX = 0 → v = near)
    ∧ (keep = true → near.1 % 2 ^ 31 < 2 ^ 23 → v = near)
    ∧ (v = near ∨ ∃ n' m' e', fp32.read v.1 = .num n' m' e' ∧
      let most : Nat × Int := match b with
        | .ulps k => (k, max (e + m.log2) (-126) - 23)
        | .absolute k => (1, -(k : Int))
      let u := min (min e e') most.2
      (units n' m' e' u - units neg m e u).natAbs ≤ most.1 * 2 ^ (most.2 - u).toNat))

/-- R159 to R164: qpack, qunpk, qscale, spcmp in both forms and spexp answer a next state; and what their
parts are: the code of an element, with the grid of R149 and the scale of R150; the value of a code; the least
scale that saturates nothing, in its slot of the triple; and the chosen indices. That qscale reads zero where D
is none is the model's choice (log 97). -/
def Obligations.NarrowAndSparse : Prop :=
  (∀ (s s1 : State) (cu : Cur) (gd : Guard) (t : Ty) (rnd : Rnd) (n : Fin 3) (d a b c : Opnd)
    (va vb vc vd : Quad × Bool),
    let f := fmtOf t
    let word (v : Quad × Bool) := (lo32 v).toNat
    let bits := tyBits t
    let stored := 2 ^ (n.val + 1)
    let index (v : Quad × Bool) (j : Nat) := word v / 2 ^ (4 * j) % 16
    let misfit (v : Quad × Bool) : Word :=
      if (List.range stored).any fun j => decide (12 ≤ index v j) then flNV else 0
    let at' (i : Nat) := if bits = 8 then elem va.1 8 i else if i < 8 then elem va.1 16 i else elem vb.1 16 (i - 8)
    (Reads s gd [(a, .w128), (b, .w32)] [(d, .w32)] s1 cu [va, vb] →
      exec (.qpack gd t rnd d a b) s = cu.result s1 d .w32 (joinRes 4 ((List.range (packCount t)).map fun i =>
        encodeQ4 (word vb) rnd (f.read (elem va.1 bits i)))))
    ∧ (Reads s gd [(a, .w32), (b, .w32)] [(d, .w128)] s1 cu [va, vb] →
      exec (.qunpk gd t d a b) s = cu.result s1 d .w128 (joinRes bits ((List.range (packCount t)).map fun i =>
        decodeQ4 f (word vb) (elem va.1 4 i))))
    ∧ (Reads s gd [(d, .w64), (a, .w32), (b, .w32)] [(d, .w64)] s1 cu [vd, va, vb] →
      let k := scaleFor (word vb % 4) (f.read (fbitsOf t va))
      exec (.qscale gd t d a b) s = cu.result s1 d .w64
        { value := ofNatQ (placeScale (lo64 vd).toNat (word vb / 4 % 4) k.1), flags := k.2 })
    ∧ (c = .none → Reads s gd [(a, .w128), (b, .w64)] [(d, .w32)] s1 cu [va, vb] →
      exec (.spcmp gd t n d a b c) s = cu.result s1 d .w32
        { value := ofNatQ (joinElems 4 (chosen t stored ((List.range 12).map at'))) })
    ∧ (c ≠ .none → Reads s gd [(a, .w128), (b, .w64), (c, .w32)] [(d, .w128)] s1 cu [va, vb, vc] →
      exec (.spcmp gd t n d a b c) s = cu.result s1 d .w128
        { value := ofNatQ (joinElems bits ((List.range stored).map fun j =>
            if index vc j < 12 then at' (index vc j) else 0))
          flags := misfit vc })
    ∧ (Reads s gd [(a, .w128), (b, .w32), (c, .w32)] [(d, .w128)] s1 cu [va, vb, vc] →
      let put (p : Nat) := (((List.range stored).reverse.find? fun j => index vb j == p).map
        (elem va.1 bits)).getD 0
      exec (.spexp gd t n d a b c) s = cu.result s1 d .w128
        { value := ofNatQ (joinElems bits ((if bits = 8 then List.range 12
            else if word vc % 2 = 0 then List.range 8 else [8, 9, 10, 11]).map put))
          flags := misfit vb }))
  ∧ (∀ (w : Nat) (r : Rnd) (neg : Bool) (m : Nat) (e : Int), let kind := w / 2 ^ 18 % 4
    let grid (i : Nat) := ([[0, 8, 16, 24, 32, 40, 48, 56], [0, 4, 8, 12, 16, 24, 32, 48],
      [0, 1, 2, 4, 8, 16, 32, 64], [0, 8, 16, 24, 32, 48, 64, 96]].getD kind []).getD i 0
    let exponent := w / 2 ^ 10 % 256
    let significand := w % 2 ^ 10 + if exponent = 0 then 0 else 2 ^ 10
    let power : Int := (max exponent 1 : Nat) - 137
    let code (i : Nat) := if i = 0 then 0 else if neg = false then i else if kind = 0 then 16 - i else 8 + i
    let unit := min e power
    let x := 8 * m * 2 ^ (e - unit).toNat
    let s := significand * 2 ^ (power - unit).toNat
    (exponent = 255 → ∀ v, encodeQ4 w r v = (8, flNV))
    ∧ (∀ sig, encodeQ4 w r (.nan sig) = (8, flNV))
    ∧ (exponent ≠ 255 → s = 0 → encodeQ4 w r (.num neg m e) = (0, if m = 0 then 0 else flNV)
      ∧ encodeQ4 w r (.inf neg) = (0, flNV))
    ∧ (exponent ≠ 255 → s ≠ 0 → encodeQ4 w r (.inf neg) = (code 7, flOF ||| flNX)
      ∧ (grid 7 * s < x → encodeQ4 w r (.num neg m e) = (code 7, flOF ||| flNX))
      ∧ (x ≤ grid 7 * s → ∃ i, i ≤ 7
        ∧ encodeQ4 w r (.num neg m e) = (code i, if grid i * s = x then 0 else flNX)
        ∧ (r = .rz ∨ r = .ru ∧ neg = true ∨ r = .rd ∧ neg = false →
          grid i * s ≤ x ∧ (i < 7 → x < grid (i + 1) * s))
        ∧ (r = .ru ∧ neg = false ∨ r = .rd ∧ neg = true → x ≤ grid i * s ∧ (0 < i → grid (i - 1) * s < x))
        ∧ (r = .rn → ∀ j, j ≤ 7 →
          let off (k : Nat) := (x - grid k * s) + (grid k * s - x)
          off i ≤ off j ∧ (off i = off j → i ≠ j → i % 2 = 0))))
    ∧ (∀ (t : Ty) (c : Nat), let f := fmtOf t
      (exponent = 255 ∨ c = 8 → decodeQ4 f w c = (f.nan, flNV))
      ∧ (exponent ≠ 255 → c = 0 → decodeQ4 f w c = (0, 0))
      ∧ ∀ i, exponent ≠ 255 → s ≠ 0 → 1 ≤ i → i ≤ 7 → c = code i →
        decodeQ4 f w c = f.putVal .rn (.num neg (grid i * significand) (power - 3))))
  ∧ (∀ (kind : Nat) (t : Ty) (x : Nat), kind < 4 → t ∈ float3Tys →
    let top := [7, 6, 8, 12].getD kind 0
    let value (p : Nat) : Nat × Int :=
      (p % 2 ^ 10 + if p / 2 ^ 10 = 0 then 0 else 2 ^ 10, (max (p / 2 ^ 10) 1 : Nat) - 137)
    (match (fmtOf t).read x with
      | .num _ 0 _ => scaleFor kind ((fmtOf t).read x) = (kind * 2 ^ 18 + 127 * 2 ^ 10, 0)
      | .num _ m e => ∃ p, p < 255 * 2 ^ 10
        ∧ (let unit := min e (-136)
          let mag := m * 2 ^ (e - unit).toNat
          let most (p : Nat) := top * (value p).1 * 2 ^ ((value p).2 - unit).toNat
          mag ≤ most p ∧ (∀ q, q < p → most q < mag)
          ∧ scaleFor kind ((fmtOf t).read x) = (kind * 2 ^ 18 + p, if most p = mag then 0 else flNX))
      | _ => scaleFor kind ((fmtOf t).read x) = (kind * 2 ^ 18 + 255 * 2 ^ 10, flNV)))
  ∧ (∀ old slot w, w < 2 ^ 20 →
    placeScale old 3 w = w
    ∧ (slot < 3 → placeScale old slot w < 2 ^ 60 ∧ placeScale old slot w / 2 ^ (20 * slot) % 2 ^ 20 = w
      ∧ ∀ k, k < 3 → k ≠ slot →
        placeScale old slot w / 2 ^ (20 * k) % 2 ^ 20 = old / 2 ^ (20 * k) % 2 ^ 20))
  ∧ (∀ (t : Ty) (n : Fin 3) (xs : List Nat), t ∈ sparseTys → xs.length = 12 →
    (∀ x, x ∈ xs → x < 2 ^ tyBits t) →
    let size (i : Nat) : Nat :=
      let x := xs.getD i 0
      if t = .i8 then (if x < 128 then x else 256 - x) else if t = .n8 then x
      else if ((fmtOf t).read x).isNan then 2 ^ 16 else x % 2 ^ (tyBits t - 1)
    let out := chosen t (2 ^ (n.val + 1)) xs
    out.length = 2 ^ (n.val + 1) ∧ out.Pairwise (· < ·)
    ∧ ∀ i, i ∈ out → i < 12 ∧ ∀ j, j < 12 → ¬ j ∈ out →
      size j < size i ∨ size j = size i ∧ i < j)

/-- R59: predicated off, an instruction that is no collective changes nothing but the list of producer
values, where a class-A instruction adds what its destination holds. -/
def Obligations.PredicatedOff : Prop :=
  ∀ (s : State) (c : Cur) (i : Instr) (f : Fields), i.fields = some f → i.collective = false →
    s.cur = some c → guardHolds f.gd c.t = false →
    match i.computes with
    | some (d, w) => exec i s = .next (s.modThread c.r fun t => t.produce w (t.held? d w).1 (t.held? d w).2)
    | none => exec i s = .next s

/-- What a class-A instruction leaves as it was: every byte of memory, every other thread, and of its own
thread every register outside its destination, every predicate but its own, the upper bits of FSTAT, the
pc, the handles and the trap registers; FSTAT's flags only gain. -/
def Obligations.ClassAFrame : Prop :=
  ∀ (s : State) (c : Cur) (i : Instr) (f : Fields) (d : Opnd) (w : Width), i.fields = some f →
    i.computes = some (d, w) → Clean s c → guardHolds f.gd c.t = true →
    ∃ g : Thread → Thread, exec i s = .next (s.modThread c.r g)
      ∧ sameMemory s (s.modThread c.r g)
      ∧ (∀ r, r ≠ c.r → (s.modThread c.r g).thread? r = s.thread? r) ∧
      let t' := g c.t
      t' = { c.t with
          regs := t'.regs, tags := t'.tags, poison := t'.poison, preds := t'.preds, fstat := t'.fstat,
          prods := t'.prods }
      ∧ (∀ n, (∀ k : Fin 768, d = .g k → n < k.val ∨ k.val + w.regs ≤ n) → t'.reg n = c.t.reg n)
      ∧ (∀ q, (∀ k : Fin 768, d = .g k → q ≠ k.val / 4) → t'.tags.getLsbD q = c.t.tags.getLsbD q)
      ∧ (∀ p : Nat, (∀ q : Fin 7, i.predicate = some q → p ≠ q.val) →
          t'.preds.getLsbD p = c.t.preds.getLsbD p)
      ∧ t'.poison = 0
      ∧ t'.fstat ||| c.t.fstat = t'.fstat
      ∧ t'.fstat >>> 5 = c.t.fstat >>> 5

/-- R22, R55 to R57, R88, R89, R97: what a class-A result leaves in its thread; and an instruction that reads a
poisoned general register traps UNCORRECTABLE at its slot and writes nothing. -/
def Obligations.ResultsAndPoison : Prop :=
  (∀ (t : Thread) (n : Fin 768) (w : Width) (r : ARes), t.regs.length = 768 → n.val % w.regs = 0 →
    let t' := t.applyA (.g n) w r
    t'.group n.val w = wmask w r.value
    ∧ (t'.tagOf n.val = (r.tag && w == .w128))
    ∧ t'.poisoned n.val w = false
    ∧ (∀ p b, r.pred = some (p, b) → p < 7 → t'.preds.getLsbD p = b)
    ∧ t'.fstat = t.fstat ||| (r.flags &&& 31)
    ∧ t'.prods.head? = some ⟨w, wmask w r.value, r.tag && w == .w128⟩)
  ∧ (∀ (s : State) (c : Cur) (gd : Guard) (t : Ty) (sat : Bool) (d b : Opnd) (n : Fin 768),
    s.cur = some c → s.upsets = [] → guardHolds gd c.t = true → c.t.poisoned n.val t.width = true →
    ∃ tval, exec (.mov gd t d (.g n)) s = .next (s.trapAt c .uncorrectable tval)
      ∧ exec (.add gd t sat d (.g n) b) s = .next (s.trapAt c .uncorrectable tval))

/-- R122, R123: what every key-class instruction computes for each member of the crew that issues it. That
kmovi.s12 reads 0 for the bits that it keeps where D is none is the model's choice (log 95). -/
def Obligations.KeyInstructions : Prop :=
  ∀ (s : State) (c : Cur) (t : Ty) (cond : Cond) (sh : Fin 8) (pos : Bool) (d a b : Opnd)
    (imm : BitVec 20) (vals : List (TRef × List Word)),
    let first (v : TRef × List Word) : Word := v.2.getD 0 0
    let second (v : TRef × List Word) : Word := v.2.getD 1 0
    let put (f : TRef × List Word → Word) := c.keyResult s d (vals.map fun v => (v.1, f v))
    let sum v := first v + second v
    let difference v := first v - second v
    let product v := first v * second v
    let conj v := first v &&& second v
    let disj v := first v ||| second v
    let excl v := first v ^^^ second v
    let left v := first v <<< (second v).toNat
    let right v := first v >>> (second v).toNat
    let scaled v := first v + second v <<< sh.val
    let compared (v : TRef × List Word) : Word :=
      let x : Int := if tySigned t then (first v).toInt else ((first v).toNat : Int)
      let y : Int := if tySigned t then (second v).toInt else ((second v).toNat : Int)
      if (match cond with
        | .eq => decide (x = y) | .ne => decide (x ≠ y) | .lt => decide (x < y)
        | .le => decide (x ≤ y) | .gt => decide (x > y) | .ge => decide (x ≥ y) | _ => false) then 1 else 0
    (KeyReads s c [a, b] vals →
      exec (.kadd d a b) s = put sum ∧ exec (.ksub d a b) s = put difference
      ∧ exec (.kmul d a b) s = put product ∧ exec (.kand d a b) s = put conj
      ∧ exec (.kor d a b) s = put disj ∧ exec (.kxor d a b) s = put excl
      ∧ exec (.kshl d a b) s = put left ∧ exec (.kshr d a b) s = put right
      ∧ exec (.klea sh d a b) s = put scaled ∧ exec (.kcmp t cond d a b) s = put compared
      ∧ (b = immInt imm →
          exec (.kaddImm d a imm) s = put sum ∧ exec (.ksubImm d a imm) s = put difference
          ∧ exec (.kmulImm d a imm) s = put product ∧ exec (.kandImm d a imm) s = put conj
          ∧ exec (.korImm d a imm) s = put disj ∧ exec (.kxorImm d a imm) s = put excl
          ∧ exec (.kshlImm d a imm) s = put left ∧ exec (.kshrImm d a imm) s = put right
          ∧ exec (.kleaImm sh d a imm) s = put scaled ∧ exec (.kcmpImm t cond d a imm) s = put compared))
    ∧ (KeyReads s c [a] vals → exec (.kmov d a) s = put first)
    ∧ (KeyReads s c [if pos then d else .none, b] vals →
      let placed v := if pos then (first v &&& (0xFFF : Word)) ||| (second v <<< 12) else second v
      exec (.kmovi pos d b) s = put placed
      ∧ (b = immInt imm → exec (.kmoviImm pos d imm) s = put placed))

/-- R34, R37, R124, R126: a key write in place, one that splits its strand, one that joins the child that the
same write split off before, one whose fifth strand puts the half into serial key mode, a key write in that
mode, and what kmerge gives the members of a half: the strand of one of them, without the tags in which a
member's differed (R90). -/
def Obligations.KeyWriteOnStrand : Prop :=
  ∀ (cr : Crew) (l : Lanes) (lane : Nat) (rest : List Nat) (split : DWord × Nat) (f : Strand → Strand)
    (k : Strand),
    let i := cr.ptr.getD lane 0
    let group := lane :: rest
    let childless := ∀ j : Nat, ∀ x, cr.strands.getD j none = some x → x.parent ≠ some i
    let parallel := ∀ h, cr.serial.getD h false = false
    cr.strands.getD i none = some k →
    (∀ x ∈ group, x < 32 ∧ cr.ptr.getD x 0 = i) →
    (childless → (∀ x ∈ cr.pointing l i, x ∈ group) →
      let cr' := cr.writeGroup l group split f
      cr'.ptr = cr.ptr ∧ cr'.strands.getD i none = some (f k).alone
      ∧ ∀ j, j ≠ i → cr'.strands.getD j none = cr.strands.getD j none)
    ∧ (childless → (∃ x ∈ cr.pointing l i, x ∉ group) → cr.ptr.length = 32 → (∀ x ∈ group, x ∈ l.act) →
      parallel → cr.live < 4 →
      let cr' := cr.writeGroup l group split f
      (∀ x ∈ group, cr'.strands.getD (cr'.ptr.getD x 0) none
        = some { f k with parent := some i, split := some split })
      ∧ (∀ x, x < 32 → x ∉ group → cr'.ptr.getD x 0 = cr.ptr.getD x 0)
      ∧ (cr'.strands.getD i none).map Strand.alone = some k.alone)
    ∧ (∀ j y, cr.strands.getD j none = some y → y.parent = some i → y.split = some split →
      (∀ j' : Nat, ∀ x, cr.strands.getD j' none = some x → x.parent = some i → x.split = some split → j' = j) →
      j ≠ i → (∀ x ∈ l.act, x < 32) → (∀ x ∈ group, x ∈ l.act) → parallel →
      let cr' := cr.writeGroup l group split f
      (∀ x ∈ group, cr'.ptr.getD x 0 = j) ∧ (∀ x, x < 32 → x ∉ group → cr'.ptr.getD x 0 = cr.ptr.getD x 0)
      ∧ (cr'.strands.getD j none).map Strand.alone = some y.alone
      ∧ ((∀ x ∈ cr.pointing l i, x ∈ group) → cr'.strands.getD i none = none))
    ∧ (childless → parallel → cr.live = 4 → (∀ x ∈ l.act, x < 32 ∧ (cr.strands.getD (cr.ptr.getD x 0) none).isSome) →
      (∀ x ∈ group, x ∈ l.act) →
      (∀ j : Nat, (cr.strands.getD j none).isSome → ∃ x ∈ l.act, x ∉ group ∧ cr.ptr.getD x 0 = j) →
      let cr' := cr.writeGroup l group split f
      cr'.serial.getD (l.half lane) false = true
      ∧ (∀ h, h ≠ l.half lane → cr'.serial.getD h false = false)
      ∧ ∀ x ∈ l.ofHalf (l.half lane), (cr'.spilled.getD x Strand.zero).alone
        = (if x ∈ group then f k else cr.strandAt x).alone)
    ∧ (∀ (lanes : List Nat) (g : Nat → Strand → Strand), lanes.Nodup → lanes.length < 33 →
      (∀ x ∈ lanes, x < 32 ∧ cr.serial.getD (l.half x) false = true) →
      let cr' := Crew.writeKeys l split g 33 lanes cr
      cr'.strands = cr.strands ∧ cr'.ptr = cr.ptr ∧ cr'.serial = cr.serial
      ∧ ∀ x, x < 32 → cr'.spilled.getD x Strand.zero
        = if x ∈ lanes then g x (cr.spilled.getD x Strand.zero) else cr.spilled.getD x Strand.zero)
    ∧ (∀ h, (∀ x ∈ l.act, x < 32) → lane ∈ l.ofHalf h → parallel →
      let cr' := cr.adopt l h lane
      ∀ x ∈ l.ofHalf h, cr'.ptr.getD x 0 = i
        ∧ (cr'.strandAt x).keys = k.keys ∧ (cr'.strandAt x).poison = k.poison
        ∧ (cr'.strandAt x).parent = none ∧ (cr'.strandAt x).split = none
        ∧ ∀ q, (cr'.strandAt x).tags.getLsbD q = (k.tags.getLsbD q
          && decide (∀ y ∈ l.ofHalf h, (cr.strandAt y).tags.getLsbD q = k.tags.getLsbD q)))

/-- R173, R174, R179, R126: at a cross-lane instruction a thread that its own mask names arrives with its
latched operands, one predicated off without them; a thread outside its mask does nothing, and none of its
other operands is read. And R175, R176, R126: what the core does next with the arrivals of a cove that wait at
these instructions: GANG_MISMATCH in every arrived member of a group whose masks differ; else the release of a
group all of whose active members have arrived and ended their clause; else GANG_MISMATCH in two groups each of
which waits for a member held at the other, and nothing where a missing member is held by anything else. A
member's GANG_MISMATCH is the deferred trap of its clause and slot with its mask as TVAL, and its arrival is
withdrawn. What counts as held at a group and by nothing else is the model's reading (log 88). -/
def Obligations.CrossLaneArrival : Prop :=
  ∀ (s s0 s1 : State) (c0 cu : Cur) (gd : Guard) (t : Ty) (cm exc : Bool) (vop : Fin 3) (rop : Fin 6)
    (d a b c : Opnd) (imm : BitVec 20) (va vb vc : Quad × Bool),
    let lanes (o : Opnd) := if o = .none then 2 ^ c0.cv.width - 1 else (lo32 vc).toNat % 2 ^ c0.cv.width
    let forms : List Instr := [.xpull gd t d a b c, .xpush gd t cm d a b c, .xvote gd vop d a c,
      .xfirst gd t d a c, .xred gd t rop d a c, .xscan gd t exc rop d a c, .xmatch gd t d a c, .rdv gd c]
    let arrived (s : State) (x : Cur) (o : Opnd) (i : Instr) (off : Bool) (vals : List Quad) :
        Host.Outcome State Fault Refusal :=
      .next (s.modThread x.r fun y =>
        { (if off then y else y.hideCross i) with
          latches := y.latches ++ [⟨x.iss.addr, x.iss.slot, lanes o, off, i, vals, []⟩] })
    (Reads s always [(c, .w32)] [] s0 c0 [vc] →
      ((lanes c).testBit c0.lane = false → (∀ i ∈ forms, exec i s = .next s0)
        ∧ (c = .none → exec (.xpullImm gd t d a imm) s = .next s0))
      ∧ ((lanes c).testBit c0.lane = true → guardHolds gd c0.t = false →
        (∀ i ∈ forms, exec i s = arrived s0 c0 c i true [])
        ∧ (c = .none → exec (.xpullImm gd t d a imm) s
          = arrived s0 c0 .none (.xpullImm gd t d a imm) true []))
      ∧ ((lanes c).testBit c0.lane = true → guardHolds gd c0.t = true →
        (Reads s0 gd [(a, t.width), (b, .w32)] [] s1 cu [va, vb] →
          exec (.xpull gd t d a b c) s = arrived s1 cu c (.xpull gd t d a b c) false [va.1, vb.1]
          ∧ exec (.xpush gd t cm d a b c) s = arrived s1 cu c (.xpush gd t cm d a b c) false [va.1, vb.1]
          ∧ (c = .none → b = immInt imm → exec (.xpullImm gd t d a imm) s
            = arrived s1 cu .none (.xpullImm gd t d a imm) false [va.1, vb.1]))
        ∧ (Reads s0 gd [(a, .w32)] [] s1 cu [va] →
          exec (.xvote gd vop d a c) s = arrived s1 cu c (.xvote gd vop d a c) false [va.1]
          ∧ exec (.xred gd t rop d a c) s = arrived s1 cu c (.xred gd t rop d a c) false [va.1]
          ∧ exec (.xscan gd t exc rop d a c) s = arrived s1 cu c (.xscan gd t exc rop d a c) false [va.1])
        ∧ (Reads s0 gd [(a, t.width)] [] s1 cu [va] →
          exec (.xfirst gd t d a c) s = arrived s1 cu c (.xfirst gd t d a c) false [va.1]
          ∧ exec (.xmatch gd t d a c) s = arrived s1 cu c (.xmatch gd t d a c) false [va.1])
        ∧ exec (.rdv gd c) s = arrived s0 c0 c (.rdv gd c) false []))
    ∧ (s.cur = some cu →
      exec .kmerge s = .next (s.modThread cu.r fun x =>
        { x with latches := x.latches ++ [⟨cu.iss.addr, cu.iss.slot, 0, false, .kmerge, [], []⟩] }))
    ∧ (∀ (cr : CoveRef) (cv : Cove), let all := s.arrivals cr
      let crewOf (x : Arr) (r : TRef) (y : Thread) :=
        y.crew = x.t.crew ∧ logicalHalf cv r.lane = logicalHalf cv x.r.lane
      let parity (r : TRef) := if cv.isProtected then r.lane % 2 else 0
      let together (x y : Arr) := y.l.kind = x.l.kind ∧ crewOf x y.r y.t
        ∧ (x.l.kind = .cross → parity y.r = parity x.r ∧ y.l.clause = x.l.clause ∧ y.l.slot = x.l.slot)
      let member (x : Arr) (e : TRef × Thread) := e ∈ s.coveThreads cr ∧ e.2.active ∧ crewOf x e.1 e.2
        ∧ (x.l.kind = .cross → parity e.1 = parity x.r ∧ x.l.mask.testBit e.2.vlane)
      let group (x : Arr) := all.filter (sameGroup cv x)
      let complete (x : Arr) := (∀ y ∈ group x, y.t.atLatch) ∧ ∀ e, member x e → ∃ y ∈ group x, y.r = e.1
      (∀ x ∈ all, x.l.kind ≠ .gang) →
      (∀ x ∈ all, ∀ y ∈ all, y ∈ group x ↔ together x y)
      ∧ (∀ x ∈ all, ∀ y ∈ group x, x.l.kind = .cross → y.l.mask ≠ x.l.mask →
        ∃ z ∈ all, z.l.kind = .cross ∧ (∃ y ∈ group z, y.l.mask ≠ z.l.mask)
          ∧ s.sweepOne cr cv = some (s.mismatchAll (group z)))
      ∧ ((∀ x ∈ all, ∀ y ∈ group x, x.l.kind = .cross → y.l.mask = x.l.mask) →
        ((∃ x ∈ all, complete x) → ∃ z ∈ all, complete z ∧ s.sweepOne cr cv = some
          (if z.l.kind = .cross then s.crossRelease cv z (group z) else s.mergeRelease cv z (group z)))
        ∧ (∀ x y, all = [x, y] → x.l.kind = .cross → y.l.kind = .cross → ¬ together x y →
          x.t.heldThere → y.t.heldThere →
          (∀ e ∈ s.coveThreads cr, (e.1 = x.r → e.2 = x.t) ∧ (e.1 = y.r → e.2 = y.t)) →
          (∀ e, member x e → e.1 = x.r ∨ e.1 = y.r) → (∃ e, member x e ∧ e.1 = y.r) →
          (∀ e, member y e → e.1 = x.r ∨ e.1 = y.r) → (∃ e, member y e ∧ e.1 = x.r) → x.r ≠ y.r →
          s.sweepOne cr cv = some (s.mismatchAll [x, y]))
        ∧ (∀ x e, all = [x] → member x e → e.1 ≠ x.r → e.2.heldThere = false → s.sweepOne cr cv = none)))
    ∧ (∀ (a : Arr) (y : Thread) (cv : Cove), s.thread? a.r = some y → s.cove? y.cove = some cv →
      a.l.kind ≠ .merge → y.latches = [a.l] → y.status = .latched → y.entry = none → y.due = [] →
      y.stepDue = false → y.stopper = none → y.held = false → y.exiting = false → s.inIssue a.r = false →
      s.stopping y = false → s.link.reqs = [] → (s.core a.r.die a.r.core).rays = [] →
      (s.mismatch a).thread? a.r = some (({ y with
          latches := [], status := .ready, passed := 0 } : Thread).enter
        ⟨.gangMismatch, dw a.l.mask, a.l.clause, a.l.slot, 1, 0, none⟩).stopHere)

/-- R180, R181: what each contributing member of a complete group receives from xpull, xpush, xvote,
xfirst and xmatch. -/
def Obligations.CrossLaneValues : Prop :=
  ∀ (w : Nat) (con : List Con) (me : Con) (gd : Guard) (t : Ty) (d a b c : Opnd)
    (imm : BitVec 20), con.Pairwise (fun x y => x.lane < y.lane) → me ∈ con → (∀ x ∈ con, x.lane < 32) →
    let index (x : Con) := (x.b.setWidth 32).toNat % w
    let one (width : Width) (v : Quad) : XRes := ⟨[(0, width, v)], 0⟩
    (∀ x ∈ con, x.lane = index me →
      crossRes w (.xpull gd t d a b c) con me = one t.width x.a
      ∧ crossRes w (.xpullImm gd t d a imm) con me = one t.width x.a)
    ∧ ((∀ x ∈ con, x.lane ≠ index me) →
      crossRes w (.xpull gd t d a b c) con me = one t.width 0
      ∧ crossRes w (.xpullImm gd t d a imm) con me = one t.width 0)
    ∧ (∀ x ∈ con, index x = me.lane → (∀ y ∈ con, index y = me.lane → y.lane ≤ x.lane) →
      crossRes w (.xpush gd t false d a b c) con me = one t.width x.a
      ∧ ∃ m : Quad, crossRes w (.xpush gd t true d a b c) con me
          = ⟨[(0, t.width, x.a), (t.width.regs, .w32, m)], 0⟩
        ∧ ∀ i, i < 32 → (m.getLsbD i = true ↔ ∃ y ∈ con, y.lane = i ∧ index y = me.lane))
    ∧ ((∀ x ∈ con, index x ≠ me.lane) →
      crossRes w (.xpush gd t false d a b c) con me = ⟨[], 0⟩
      ∧ crossRes w (.xpush gd t true d a b c) con me = ⟨[(t.width.regs, .w32, 0)], 0⟩)
    ∧ crossRes w (.xvote gd 0 d a c) con me = one .w32 (if ∀ x ∈ con, x.a ≠ 0 then 1 else 0)
    ∧ crossRes w (.xvote gd 1 d a c) con me = one .w32 (if ∃ x ∈ con, x.a ≠ 0 then 1 else 0)
    ∧ (∃ m : Quad, crossRes w (.xvote gd 2 d a c) con me = one .w32 m
        ∧ ∀ i, i < 128 → (m.getLsbD i = true ↔ ∃ x ∈ con, x.lane = i ∧ x.a ≠ 0))
    ∧ (∀ x ∈ con, (∀ y ∈ con, x.lane ≤ y.lane) → crossRes w (.xfirst gd t d a c) con me = one t.width x.a)
    ∧ (∃ m : Quad, crossRes w (.xmatch gd t d a c) con me = one .w32 m
        ∧ ∀ i, i < 128 → (m.getLsbD i = true ↔ ∃ x ∈ con, x.lane = i ∧ x.a = me.a))

/-- R182: every form of xred and xscan: over all the contributing members, over those of lanes up to the
member's, and with .exc over those below it. -/
def Obligations.CrossLaneReductions : Prop :=
  (∀ (w : Nat) (con : List Con) (me : Con) (gd : Guard) (t : Ty) (d a c : Opnd), t ∈ [Ty.i32, .n32] →
    let value (x : Con) : Word := x.a.setWidth 32
    let order (v : Word) : Int := if t = .i32 then v.toInt else (v.toNat : Int)
    let one (v : Word) : XRes := ⟨[(0, .w32, v.setWidth 128)], 0⟩
    let upTo := con.filter fun x => decide (x.lane ≤ me.lane)
    let below := con.filter fun x => decide (x.lane < me.lane)
    let sum (l : List Con) : Word := l.foldl (fun acc x => acc + value x) 0
    let least (l : List Con) (v : Word) : Prop :=
      if l = [] then v = (if t = .i32 then 0x7FFFFFFF else 0xFFFFFFFF)
      else (∃ x ∈ l, value x = v) ∧ ∀ x ∈ l, order v ≤ order (value x)
    let greatest (l : List Con) (v : Word) : Prop :=
      if l = [] then v = (if t = .i32 then 0x80000000 else 0)
      else (∃ x ∈ l, value x = v) ∧ ∀ x ∈ l, order (value x) ≤ order v
    crossRes w (.xred gd t 0 d a c) con me = one (sum con)
    ∧ crossRes w (.xscan gd t false 0 d a c) con me = one (sum upTo)
    ∧ crossRes w (.xscan gd t true 0 d a c) con me = one (sum below)
    ∧ (∃ v, least con v ∧ crossRes w (.xred gd t 1 d a c) con me = one v)
    ∧ (∃ v, least below v ∧ crossRes w (.xscan gd t true 1 d a c) con me = one v)
    ∧ (∃ v, greatest con v ∧ crossRes w (.xred gd t 2 d a c) con me = one v)
    ∧ (∃ v, greatest below v ∧ crossRes w (.xscan gd t true 2 d a c) con me = one v)
    ∧ crossRes w (.xred gd .b32 3 d a c) con me = one (con.foldl (fun acc x => acc &&& value x) 0xFFFFFFFF)
    ∧ crossRes w (.xred gd .b32 4 d a c) con me = one (con.foldl (fun acc x => acc ||| value x) 0)
    ∧ crossRes w (.xred gd .b32 5 d a c) con me = one (con.foldl (fun acc x => acc ^^^ value x) 0)
    ∧ (∃ v, least upTo v ∧ crossRes w (.xscan gd t false 1 d a c) con me = one v)
    ∧ (∃ v, greatest upTo v ∧ crossRes w (.xscan gd t false 2 d a c) con me = one v)
    ∧ ∀ exc, let l := if exc then below else upTo
      crossRes w (.xscan gd .b32 exc 3 d a c) con me = one (l.foldl (fun acc x => acc &&& value x) 0xFFFFFFFF)
      ∧ crossRes w (.xscan gd .b32 exc 4 d a c) con me = one (l.foldl (fun acc x => acc ||| value x) 0)
      ∧ crossRes w (.xscan gd .b32 exc 5 d a c) con me = one (l.foldl (fun acc x => acc ^^^ value x) 0))
  ∧ (∀ (w : Nat) (con : List Con) (me : Con) (gd : Guard) (exc : Bool) (d a c : Opnd),
    let bits (x : Con) := (x.a.setWidth 32 : Word).toNat
    let number (x : Con) := fp32.read (bits x)
    let one (v : Nat × Word) : XRes := ⟨[(0, .w32, BitVec.ofNat 128 v.1)], v.2⟩
    let l := con.filter fun x => decide (x.lane < me.lane) || (!exc && x.lane == me.lane)
    let units (x : Con) : Int := match number x with
      | .num n m e => (if n then -1 else 1) * (m * 2 ^ (e + 149).toNat : Nat)
      | _ => 0
    let total (l : List Con) : Int := l.foldr (fun x acc => units x + acc) 0
    let opposed (l : List Con) := (∃ x ∈ l, number x = .inf false) ∧ ∃ x ∈ l, number x = .inf true
    let sum (l : List Con) : Nat × Word :=
      if opposed l ∨ ∃ x ∈ l, (number x).isNan then
        (fp32.nan, if opposed l ∨ ∃ x ∈ l, (number x).isSignalling then flNV else 0)
      else if ∃ x ∈ l, number x = .inf false then (fp32.infBits, 0)
      else if ∃ x ∈ l, number x = .inf true then (fp32.signed true fp32.infBits, 0)
      else if total l = 0 then (fp32.signed (decide (l ≠ [] ∧ ∀ x ∈ l, (number x).neg)) 0, 0)
      else fp32.roundNum .rn false (decide (total l < 0)) (total l).natAbs (-149)
    let pick (greater : Bool) (l : List Con) : Nat × Word :=
      l.foldl (fun acc x => ((fp32.pick greater false acc.1 (bits x)).1,
        acc.2 ||| (fp32.pick greater false acc.1 (bits x)).2)) (fp32.signed greater fp32.infBits, 0)
    crossRes w (.xred gd .f32 0 d a c) con me = one (sum con)
    ∧ crossRes w (.xscan gd .f32 exc 0 d a c) con me = one (sum l)
    ∧ crossRes w (.xred gd .f32 1 d a c) con me = one (pick false con)
    ∧ crossRes w (.xscan gd .f32 exc 1 d a c) con me = one (pick false l)
    ∧ crossRes w (.xred gd .f32 2 d a c) con me = one (pick true con)
    ∧ crossRes w (.xscan gd .f32 exc 2 d a c) con me = one (pick true l))

/-- R184 to R188: a thread arrives at rast with nine key registers and the token; the samples that a
release gives are covered places of the walk at and after the token, no more than are wanted. A sample is inside one edge of the walking order when its edge function is positive, or zero
on a top or left edge. -/
def Obligations.Rasterisation : Prop :=
  ((∀ (s s0 s1 : State) (c0 cu : Cur) (gd : Guard) (d a b c : Opnd) (vc : Quad × Bool)
    (vs : List (Quad × Bool)), Reads s always [(c, .w32)] [] s0 c0 [vc] →
    let lanes := if c = .none then 2 ^ c0.cv.width - 1 else (lo32 vc).toNat % 2 ^ c0.cv.width
    let arrived (s : State) (x : Cur) (off : Bool) (vals : List Quad) : Host.Outcome State Fault Refusal :=
      .next (s.modThread x.r fun y =>
        { (if off then y else y.hideCross (.rast gd d a b c)) with latches := y.latches
            ++ [⟨x.iss.addr, x.iss.slot, lanes, off, .rast gd d a b c, vals, []⟩] })
    (lanes.testBit c0.lane = false → exec (.rast gd d a b c) s = .next s0)
    ∧ (lanes.testBit c0.lane = true → guardHolds gd c0.t = false →
      exec (.rast gd d a b c) s = arrived s0 c0 true [])
    ∧ (lanes.testBit c0.lane = true → Reads s0 gd (rastSources a b) [] s1 cu vs →
      exec (.rast gd d a b c) s = arrived s1 cu false (vs.map Prod.fst)))
  ∧ ∀ (v : List Quad) (want : Nat),
    let t := triOf v
    let token := ((v.getD 9 0).setWidth 32 : Word)
    ((token.getLsbD 31 = true ∨ t.area = 0) → rastGive v want = ([], some (2 ^ 31)))
    ∧ (token.getLsbD 31 = false → t.area ≠ 0 →
      (rastGive v want).1.length ≤ want
      ∧ ∀ p ∈ (rastGive v want).1, ∃ w, token.toNat % 2 ^ 30 ≤ w ∧ p = t.tiles.pixel w
        ∧ t.boxed p.1 p.2 = true ∧ t.covers (sampleOf p) = true))
  ∧ (∀ (t : Tri) (p : Point), t.area ≠ 0 →
    let w1 := if t.area < 0 then t.v2 else t.v1
    let w2 := if t.area < 0 then t.v1 else t.v2
    let e (a b : Point) : Int := (b.x - a.x) * (p.y - a.y) - (b.y - a.y) * (p.x - a.x)
    let isIn (a b : Point) : Prop := 0 < e a b ∨ e a b = 0 ∧ (b.y < a.y ∨ b.y = a.y ∧ a.x < b.x)
    (t.covers p = true ↔ isIn t.v0 w1 ∧ isIn w1 w2 ∧ isIn w2 t.v0))

/-- R167, R168: br, call, brx, callx and ret set the thread's next clause; a misaligned indirect target
traps ALIGN before D is written. -/
def Obligations.ControlTransfers : Prop :=
  ∀ (s s1 : State) (cu : Cur) (gd : Guard) (d a b : Opnd) (imm : BitVec 20) (va vb : Quad × Bool),
    let direct : DWord := cu.iss.addr + 8 * (lo32 vb).signExtend 64
    let back : Quad := cu.iss.successor.setWidth 128
    let x := lo64 va
    let go (land : Bool) : Host.Outcome State Fault Refusal :=
      .next (s1.modThread cu.r fun t =>
        { t with jump := some (x, 0), landFrom := if land then some cu.iss.addr else none })
    (Reads s gd [(b, .w32)] [] s1 cu [vb] →
      let br : Host.Outcome State Fault Refusal :=
        .next (s1.modThread cu.r fun t => { t with jump := some (direct, 0) })
      let call : Host.Outcome State Fault Refusal :=
        .next ((s1.touch cu.r (d.names .w64)).modThread cu.r fun t =>
          { t.writeOpnd d .w64 back false with jump := some (direct, 0) })
      exec (.br gd b) s = br ∧ exec (.call gd d b) s = call
      ∧ (b = immInt imm → exec (.brImm gd imm) s = br ∧ exec (.callImm gd d imm) s = call))
    ∧ (Reads s gd [(a, .w64)] [] s1 cu [va] → x.toNat % 8 = 0 →
      exec (.brx gd a) s = go true ∧ exec (.ret gd a) s = go false
      ∧ exec (.callx gd d a) s = .next ((s1.touch cu.r (d.names .w64)).modThread cu.r fun t =>
          { t.writeOpnd d .w64 back false with jump := some (x, 0), landFrom := some cu.iss.addr }))
    ∧ (Reads s gd [(a, .w64)] [] s1 cu [va] → x.toNat % 8 ≠ 0 →
      exec (.brx gd a) s = .next (s1.trapAt cu .align x)
      ∧ exec (.ret gd a) s = .next (s1.trapAt cu .align x)
      ∧ exec (.callx gd d a) s = .next (s1.trapAt cu .align x))

/-- R169, R170, R172, R358, R360: exit, yield, nap, brk and trap; and ckpt, which leaves its request, with the
destination of its number, to the end of its clause. -/
def Obligations.ThreadEndsAndWaits : Prop :=
  (∀ (s s1 : State) (cu : Cur) (gd : Guard) (a b : Opnd) (imm : BitVec 20) (va vb : Quad × Bool) (x : Nat),
    (s.cur = some cu → guardHolds gd cu.t = true →
      exec (.exit gd) s = .next (s.modThread cu.r fun t => { t with exiting := true })
      ∧ exec (.yield gd) s = .next (s.modThread cu.r fun t => { t with passed := 0, yielded := true })
      ∧ exec (.brk gd) s = .next (s.trapAt cu .breakpoint 0))
    ∧ (Reads s gd [(a, .w128), (b, .w32)] [] s1 cu [va, vb] →
      checkCap va.1 va.2 permRead (lo32 vb) 1 = .ok x →
      let p := s1.napPlace cu va.1 x
      exec (.nap gd a b) s = .next (s1.modThread cu.r fun t =>
        { t with status := .napping p.1 p.2 0, passed := 0 }))
    ∧ (Reads s gd [(b, .w32)] [] s1 cu [vb] →
      exec (.trap gd b) s = .next (s1.trapAt cu .software ((lo32 vb).setWidth 64))
      ∧ (b = immInt imm →
          exec (.trapImm gd imm) s = .next (s1.trapAt cu .software ((lo32 vb).setWidth 64)))))
  ∧ (∀ (s : State) (cu : Cur) (gd : Guard) (d : Opnd), s.cur = some cu → guardHolds gd cu.t = true →
    let dest : Option Nat := match d with | .g n => some n.val | _ => none
    exec (.ckpt gd d) s = .next (s.modThread cu.r fun t =>
      { (match d with
          | .g n => t.hide n.val .w32
          | _ => t) with defer := t.defer ++ [.ckpt dest] }))

/-- R351: what taking a trap leaves in the thread, where its handler takes it; and a precise trap at a slot, in a thread
with nothing of its clause outstanding, which gives them at once: the clause and slot in issue, kind 0
(R63). -/
def Obligations.TrapEntry : Prop :=
  (∀ (t : Thread) (i : TrapInfo), i.kind < 4 → i.slot < 16 →
    let t' := t.enter i
    t'.tcause = BitVec.ofNat 32 i.cause.code
    ∧ t'.tval = i.tval
    ∧ (i.kind < 2 → t'.tpc = BitVec.ofNat 64 (i.slot * 2 ^ 60 + i.clause.toNat % 2 ^ 55))
    ∧ (i.kind = 2 → t'.tpc = BitVec.ofNat 64 (t.pc.toNat % 2 ^ 55))
    ∧ (i.kind = 3 → t'.tpc = BitVec.ofNat 64 (i.clause.toNat % 2 ^ 55))
    ∧ t'.tstat.extractLsb' 16 8 = BitVec.ofNat 8 (min i.discarded 255)
    ∧ t'.tstat.extractLsb' 5 3 = 0 ∧ t'.tstat.getLsbD 4 = t.tstat.getLsbD 2
    ∧ t'.tstat.getLsbD 3 = t.tstat.getLsbD 3 ∧ t'.tstat.getLsbD 2 = true
    ∧ t'.tstat.extractLsb' 0 2 = BitVec.ofNat 2 i.kind
    ∧ (i.kind = 1 → t'.cont = t.pc)
    ∧ (t.thandler = 0 ∨ t.tstat.getLsbD 2 = true → t'.status = .trapWaiting)
    ∧ (t.thandler ≠ 0 → t.tstat.getLsbD 2 = false → t'.status = .ready ∧ t'.pc = t.thandler)
    ∧ t'.regs = t.regs ∧ t'.tags = t.tags ∧ t'.poison = t.poison ∧ t'.handles = t.handles
    ∧ t'.preds = t.preds ∧ t'.fstat = t.fstat)
  ∧ (∀ (s : State) (c : Cur) (cause : Cause) (tval : DWord), s.cur = some c → cause ≠ .uncorrectable →
    cause ≠ .storeMismatch → c.t.exiting = false → c.t.due = [] → c.t.defer = [] → c.t.latches = [] →
    s.link.reqs = [] → (s.core c.r.die c.r.core).rays = [] →
    (s.trapAt c cause tval).thread? c.r = some (({ c.t with
        entry := some ⟨cause, tval, c.iss.addr, c.iss.slot, 0, 0, none⟩
        prods := [], hold := none, status := .ready } : Thread).enter
      ⟨cause, tval, c.iss.addr, c.iss.slot, 0, 0, none⟩).stopHere
    ∧ (s.trapAt c cause tval).issue
      = some { c.iss with members := c.iss.members.erase c.r, todo := c.iss.todo.erase c.r })

/-- R353, R359: tret outside a handler is ILLEGAL_OP; in one it resumes where its table says, clears H, W,
N and X, and traps ALIGN at a resume address that is no multiple of 8. -/
def Obligations.TrapReturn : Prop :=
  ∀ (s : State) (cu : Cur) (gd : Guard), s.cur = some cu → guardHolds gd cu.t = true →
    let t := cu.t
    let kind := t.tstat.extractLsb' 0 2
    let W := t.tstat.getLsbD 7
    let N := t.tstat.getLsbD 6
    let clause : DWord := (t.tpc.extractLsb' 0 55).setWidth 64
    let slot := (t.tpc.extractLsb' 60 4).toNat
    let resume (s1 : State) (a : DWord) (k : Nat) : Host.Outcome State Fault Refusal :=
      let s2 := (s1.modThread cu.r fun t =>
        { t with jump := some (a, k), tstat := t.tstat &&& 0xFFFFFF1B,
                 due := t.due ++ t.pending.toList, pending := none }).endStop cu.r
      if a.toNat % 8 = 0 then .next s2 else .next (s2.trapAt cu .align a)
    (t.tstat.getLsbD 2 = false → exec (.tret gd) s = .next (s.trapAt cu .illegalOp 0))
    ∧ (t.tstat.getLsbD 2 = true →
      (W = true → exec (.tret gd) s = resume s clause slot)
      ∧ (W = false → kind = 0 → N = false → exec (.tret gd) s = resume s clause slot)
      ∧ (W = false → kind = 0 → N = true → ∀ s1 h ws, s.namedClause cu clause = (s1, h :: ws) →
        let next := slot + 1 + literalCount (ws.getD slot 0)
        exec (.tret gd) s = if next < ws.length then resume s1 clause next
          else resume s1 (clause + BitVec.ofNat 64 (clauseBytes h)) 0)
      ∧ (W = false → kind = 1 → exec (.tret gd) s = resume s t.cont t.contSlot)
      ∧ (W = false → kind = 2 → exec (.tret gd) s = resume s clause 0)
      ∧ (W = false → kind = 3 → N = false → exec (.tret gd) s = resume s clause 0)
      ∧ (W = false → kind = 3 → N = true → ∀ s1 h ws, s.namedClause cu clause = (s1, h :: ws) →
        exec (.tret gd) s = resume s1 (clause + BitVec.ofNat 64 (clauseBytes h)) 0))

/-- R99, R100, R357: sysr reads every register that may be read, sysw writes every register that may be
written, and a refused number is ILLEGAL_OP with the number as TVAL. That number as the TVAL of a 32-bit write of
a 64-bit register is the model's reading (log 24). -/
def Obligations.SystemRegisters : Prop :=
  ∀ (s s1 : State) (cu : Cur) (gd : Guard) (t : Ty) (d a b : Opnd) (imm : BitVec 20)
    (va vb : Quad × Bool), t ∈ bitTys →
    let n := (lo32 vb).toNat
    let th := cu.t
    let refused : Host.Outcome State Fault Refusal := .next (s1.trapAt cu .illegalOp (BitVec.ofNat 64 n))
    let readable : List (Nat × DWord) :=
      [(0x000, (th.fstat &&& 31).setWidth 64), (0x010, th.tcause.setWidth 64), (0x011, th.tpc),
        (0x012, th.tval), (0x013, th.tstat.setWidth 64), (0x014, th.thandler),
        (0x020, ((s1.core cu.r.die cu.r.core).counters? cu.ctx).slips),
        (0x021, (s1.vi cu.r.die cu.cv.vi).xretry.setWidth 64)]
      ++ if cu.cv.system then
        [(0x030, (s1.die cu.r.die).scrubPos), (0x031, (s1.die cu.r.die).scrubDone.setWidth 64)] else []
    let writes (f : Thread) : Host.Outcome State Fault Refusal := .next (s1.modThread cu.r fun _ => f)
    (Reads s gd [(b, .w32)] [] s1 cu [vb] →
      (∀ v, (n, v) ∈ readable →
        let out : Host.Outcome State Fault Refusal :=
          .next ((s1.touch cu.r (d.names t.width)).modThread cu.r fun x =>
            x.writeOpnd d t.width (if t = .b32 then (v.setWidth 32).setWidth 128 else v.setWidth 128) false)
        exec (.sysr gd t d b) s = out ∧ (b = immInt imm → exec (.sysrImm gd t d imm) s = out))
      ∧ ((∀ v, (n, v) ∉ readable) →
        exec (.sysr gd t d b) s = refused ∧ (b = immInt imm → exec (.sysrImm gd t d imm) s = refused)))
    ∧ (Reads s gd [(a, t.width), (b, .w32)] [] s1 cu [va, vb] →
      let v := lo64 va
      let lo : Word := v.setWidth 32
      (n = 0x000 → exec (.sysw gd t a b) s = writes { th with fstat := lo &&& 31 })
      ∧ (n = 0x010 → exec (.sysw gd t a b) s = writes { th with tcause := lo &&& 0xFFFF })
      ∧ (n = 0x011 → exec (.sysw gd t a b) s =
        if t = .b64 then writes { th with tpc := v, tstat := th.tstat ||| 128 } else refused)
      ∧ (n = 0x012 → exec (.sysw gd t a b) s = if t = .b64 then writes { th with tval := v } else refused)
      ∧ (n = 0x013 → exec (.sysw gd t a b) s = writes { th with tstat := lo &&& 0x00FF00FF })
      ∧ (n ∉ [0x000, 0x010, 0x011, 0x012, 0x013] → exec (.sysw gd t a b) s = refused)
      ∧ (b = immInt imm → exec (.syswImm gd t a imm) s = exec (.sysw gd t a b) s))

/-- R200, R252, R253: what cap.new and cap.bnd make is exactly the region asked for, inside the authority, with
its space and permissions; they make it where both its ends are multiples of 2^e for the least exponent e that
holds its length, and trap CAP_BOUNDS where they are not; moving the cursor inside the representable window keeps the tag and the
decoded bounds, and moving it out clears the tag; no move changes the space or a permission. -/
def Obligations.CapabilityRegions : Prop :=
  (∀ (v : Quad) (tag : Bool) (lo len : Nat), len < 2 ^ 32 →
    (effTag v tag = false → subCap v tag lo len = .error (.trap .capTag (BitVec.ofNat 64 lo)))
    ∧ (effTag v tag = true → ((lo : Int) < capBase v ∨ capTop v < lo + len ∨ 2 ^ 55 ≤ lo ∨ 2 ^ 55 < lo + len) →
      subCap v tag lo len = .error (.trap .capBounds (BitVec.ofNat 64 lo)))
    ∧ (∀ e, len ≤ (2 ^ 24 - 1) * 2 ^ e → (∀ f, f < e → (2 ^ 24 - 1) * 2 ^ f < len) → effTag v tag = true →
      capBase v ≤ lo → lo + len ≤ capTop v → lo < 2 ^ 55 → lo + len ≤ 2 ^ 55 →
      (lo % 2 ^ e = 0 → (lo + len) % 2 ^ e = 0 → (subCap v tag lo len).isOk = true)
      ∧ (lo % 2 ^ e ≠ 0 ∨ (lo + len) % 2 ^ e ≠ 0 →
        subCap v tag lo len = .error (.trap .capBounds (BitVec.ofNat 64 lo))))
    ∧ ∀ q g, subCap v tag lo len = .ok (q, g) →
      g = true ∧ effTag q g = true ∧ capCursor q = lo ∧ capBase q = lo ∧ capTop q = lo + len
      ∧ capSpace q = capSpace v ∧ capPerms q = capPerms v
      ∧ capBase v ≤ capBase q ∧ capTop q ≤ capTop v)
  ∧ (∀ (v : Quad) (tag : Bool) (c2 : Int), effTag v tag = true →
    capBase v ≤ capCursor v → capCursor v < capBase v + capWindow v →
    let r := moveCap v tag c2
    capSpace r.1 = capSpace v ∧ capPerms r.1 = capPerms v
    ∧ (r.2 = true ↔ 0 ≤ c2 ∧ c2 < 2 ^ 55 ∧ capBase v ≤ c2 ∧ c2 < capBase v + capWindow v)
    ∧ (r.2 = true → capCursor r.1 = c2.toNat ∧ capBase r.1 = capBase v ∧ capTop r.1 = capTop v))

/-- R201, R251 to R255: the order of the checks of an access, and its address where they pass; every
instruction of the cap group leaves its result to the end of its clause; cap.new and cap.bnd trap where
they make no sub-capability. -/
def Obligations.CapabilityInstructions : Prop :=
  (∀ (v : Quad) (tag : Bool) (perm : Nat) (off : Word) (n : Nat),
    let a : Int := capCursor v + off.toInt
    let tval : DWord := BitVec.ofInt 64 a
    let inside := 0 ≤ a ∧ capBase v ≤ a ∧ a + n ≤ capTop v ∧ a + n ≤ 2 ^ 55
    (effTag v tag = false → checkCap v tag perm off n = .error (.trap .capTag tval))
    ∧ (effTag v tag = true → capPerms v &&& perm ≠ perm →
      checkCap v tag perm off n = .error (.trap .capPerm tval))
    ∧ (effTag v tag = true → capPerms v &&& perm = perm → ¬ inside →
      checkCap v tag perm off n = .error (.trap .capBounds tval))
    ∧ (effTag v tag = true → capPerms v &&& perm = perm → inside →
      checkCap v tag perm off n = .ok a.toNat))
  ∧ (∀ (s s1 : State) (cu : Cur) (gd : Guard) (d a b c : Opnd) (va vb vc : Quad × Bool),
    let later (w : Width) (q : Quad) (tag : Bool) : Host.Outcome State Fault Refusal :=
      .next (s1.modThread cu.r fun t => t.deferReg d w q tag)
    let made (r : Except Stop (Quad × Bool)) : Host.Outcome State Fault Refusal → Prop := fun o =>
      (∀ q, r = .ok q → o = later .w128 q.1 q.2)
      ∧ ∀ cause tval, r = .error (.trap cause tval) → o = .next (s1.trapAt cu cause tval)
    (Reads s gd [(a, .w128), (b, .w64), (c, .w32)] [] s1 cu [va, vb, vc] →
      made (subCap va.1 va.2 (lo64 vb).toNat (lo32 vc).toNat) (exec (.capNew gd d a b c) s))
    ∧ (Reads s gd [(a, .w128), (b, .w64)] [] s1 cu [va, vb] →
      let r := moveCap va.1 va.2 (lo64 vb).toNat
      exec (.capSet gd d a b) s = later .w128 r.1 r.2)
    ∧ (Reads s gd [(a, .w128), (b, .w32)] [] s1 cu [va, vb] →
      let r := moveCap va.1 va.2 (capCursor va.1 + (lo32 vb).toInt)
      let narrowed : BitVec 12 := BitVec.ofNat 12 (capPerms va.1) &&& (lo32 vb).setWidth 12
      exec (.capAdd gd d a b) s = later .w128 r.1 r.2
      ∧ made (subCap va.1 va.2 (capCursor va.1) (lo32 vb).toNat) (exec (.capBnd gd d a b) s)
      ∧ exec (.capPrm gd d a b) s = later .w128
          (va.1.extractLsb' 124 4 ++ narrowed ++ va.1.extractLsb' 0 112) (effTag va.1 va.2)
      ∧ exec (.capGet gd d a b) s = later .w64
          ((BitVec.ofInt 64 (getCap va.1 va.2 (lo32 vb).toNat)).setWidth 128) false)
    ∧ (Reads s gd [(a, .w128), (b, .w32), (c, .w32)] [] s1 cu [va, vb, vc] →
      exec (.capChk gd d a b c) s = later .w32
        (match checkCap va.1 va.2 ((lo32 vc).toNat / 2 ^ 16 % 2 ^ 8) (lo32 vb) ((lo32 vc).toNat % 2 ^ 16) with
          | .ok _ => 0
          | .error (.trap .capTag _) => 1
          | .error (.trap .capPerm _) => 2
          | .error _ => 3) false))

/-- R198, R242, R243: a load that passes its checks and whose bytes are clean delivers its value at the
end of the clause, to both threads of a protected pair; from the cove's own scratchpad the bytes are
those at its base plus the address, and from DRAM, where the core has no copy of them, those at their home that
the translation gives, and no byte of memory changes; and the value of each type: a narrow one is extended to
32 bits, a signed one by its sign. -/
def Obligations.Loads : Prop :=
  (∀ t, t ∈ loadTys → ∀ (v : Quad) (i : Nat), i < 128 →
    (loadValue t v).getLsbD i = (if i < 8 * t.bytes then v.getLsbD i
      else if (t = .i8 ∨ t = .i16) ∧ i < 32 then v.getLsbD (8 * t.bytes - 1) else false)) ∧
  ∀ (s s1 : State) (cu : Cur) (gd : Guard) (t : Ty) (hint : Fin 3) (d a b : Opnd) (imm : BitVec 20)
    (va vb : Quad × Bool) (x : Nat), ReadsOnce s gd [(a, .w128), (b, .w32)] s1 cu [va, vb] → cu.t.held = false →
    checkCap va.1 va.2 permRead (lo32 vb) t.bytes = .ok x →
    let all (o : Host.Outcome State Fault Refusal) : Prop :=
      exec (.ld gd t hint d a b) s = o ∧ exec (.ldK gd t hint d a b) s = o
      ∧ (b = immInt imm → exec (.ldImm gd t hint d a imm) s = o ∧ exec (.ldKImm gd t hint d a imm) s = o)
    let whole := t == .b128 && x % 16 == 0 && capHas va.1 permLoadCap
    let sys := capSystem va.1
    let ready := if capSpace va.1 = 1 then s1.stashOpen (some cu) cu sys .loadFault [.read] x t.bytes
      else (s1, none)
    (∀ s2 got, capSpace va.1 ≠ 5 → capSpace va.1 ≠ 6 → s1.loadOwes cu (capSpace va.1) x t.bytes = false →
      s1.farLoad cu (capSpace va.1) x t.bytes sys = false → ready.2 = none →
      ready.1.readSpace cu (capSpace va.1) x t.bytes sys = .ok (s2, got) → got.bad = none →
      all (.next (s2.both cu fun th =>
        th.deferReg d t.width (loadValue t (quadOf got.bytes)) (whole && got.tag))))
    ∧ (capSpace va.1 = 2 → x + t.bytes ≤ cu.cv.declared → s1.upsets = [] →
      (s1.core cu.r.die cu.r.core).badSectors = [] →
      let at' := cu.cv.scratchBase + x
      let bytes := (List.range t.bytes).map fun i => memRead (s1.core cu.r.die cu.r.core).scratch (at' + i)
      let s2 := s1.both cu fun th => th.deferReg d t.width (loadValue t (ofNatQ (leNat bytes)))
        (whole && (s1.core cu.r.die cu.r.core).scratchTags.contains (at' / 16))
      all (.next s2) ∧ sameMemory s1 s2)
    ∧ (∀ l, capSpace va.1 = 0 → t ∈ loadTys → x % 65536 + t.bytes ≤ 65536 →
      s1.locate (cu.agent sys) .read x t.bytes = .ok l → l.y = none → l.pa % 65536 = x % 65536 →
      l.x.leaf.getLsbD 6 = true → l.x.leaf.getLsbD 55 = false →
      aget (s1.die cu.r.die).cipher (l.pa / 65536) = none → s1.upsets = [] → (s1.die cu.r.die).poisoned = [] →
      (s1.core cu.r.die cu.r.core).l1 = [] → s1.loadOwes cu 0 x t.bytes = false →
      let bytes := (List.range t.bytes).map fun i => memRead (s1.die cu.r.die).dram (l.pa + i)
      ∃ s2, sameMemory s1 s2 ∧ (∀ r, s2.thread? r = s1.thread? r)
        ∧ all (.next (s2.both cu fun th => th.deferReg d t.width (loadValue t (ofNatQ (leNat bytes)))
          (whole && (s1.die cu.r.die).tags.contains (l.pa / 16)))))

/-- R198, R202, R244: a store that passes its checks performs its write; spaces 3 and 4 trap CAP_PERM; and st
to the cove's own scratchpad, or to DRAM homed on its die, writes its n bytes there, clears the tags of the
chunks it touches or sets that of a whole tagged quad, and leaves every other byte. That a tagged quad which
every check treats as untagged (R199) is stored tagged where the capability has store-capability permission,
and that none is asked for it, is the model's reading of R202 (log 99). -/
def Obligations.Stores : Prop :=
  (∀ (s s1 : State) (cu : Cur) (gd : Guard) (t : Ty) (hint : Fin 3) (a b c : Opnd) (va vb vc : Quad × Bool),
    ReadsOnce s gd [(a, .w128), (b, .w32), (c, t.width)] s1 cu [va, vb, vc] → cu.t.held = false →
    let perm := if t == .b128 && effTag vc.1 vc.2 then permWrite + permStoreCap else permWrite
    let tag := t == .b128 && vc.2 && capHas va.1 permStoreCap
    (capSpace va.1 = 3 ∨ capSpace va.1 = 4 → effTag va.1 va.2 = true →
      exec (.st gd t hint a b c) s
        = .next (s1.trapPair cu .capPerm (BitVec.ofInt 64 (capCursor va.1 + (lo32 vb).toInt))))
    ∧ (capSpace va.1 ≠ 3 → capSpace va.1 ≠ 4 →
      (∀ cause x, checkCap va.1 va.2 perm (lo32 vb) t.bytes = .error (.trap cause x) →
        exec (.st gd t hint a b c) s = .next (s1.trapPair cu cause x))
      ∧ ∀ x s2, checkCap va.1 va.2 perm (lo32 vb) t.bytes = .ok x →
        s1.storeSpace cu va.1 x (quadBytes t.bytes vc.1) tag = .ok s2 →
        exec (.st gd t hint a b c) s = .next s2))
  ∧ (∀ (s s1 : State) (cu : Cur) (gd : Guard) (t : Ty) (hint : Fin 3) (a b c : Opnd)
    (va vb vc : Quad × Bool) (x : Nat), t ∈ loadTys →
    ReadsOnce s gd [(a, .w128), (b, .w32), (c, t.width)] s1 cu [va, vb, vc] → cu.t.held = false →
    let tagged := t == .b128 && vc.2 && capHas va.1 permStoreCap
    let perm := if t == .b128 && effTag vc.1 vc.2 then permWrite + permStoreCap else permWrite
    checkCap va.1 va.2 perm (lo32 vb) t.bytes = .ok x → capSpace va.1 = 2 →
    x + t.bytes ≤ cu.cv.declared → Memory.wf (s1.core cu.r.die cu.r.core).scratch = true →
    let at' := cu.cv.scratchBase + x
    ∃ s2, exec (.st gd t hint a b c) s = .next s2
      ∧ (∀ i, i < t.bytes → memRead (s2.core cu.r.die cu.r.core).scratch (at' + i)
        = vc.1.extractLsb' (8 * i) 8)
      ∧ (∀ d n y, d ≠ cu.r.die ∨ n ≠ cu.r.core ∨ y < at' ∨ at' + t.bytes ≤ y →
        memRead (s2.core d n).scratch y = memRead (s1.core d n).scratch y)
      ∧ (∀ k, k < at' / 16 ∨ (at' + t.bytes - 1) / 16 < k →
        ((s2.core cu.r.die cu.r.core).scratchTags.contains k
          = (s1.core cu.r.die cu.r.core).scratchTags.contains k))
      ∧ (∀ k, at' / 16 ≤ k → k ≤ (at' + t.bytes - 1) / 16 →
        ((s2.core cu.r.die cu.r.core).scratchTags.contains k
          = (tagged && x % 16 == 0 && k == at' / 16)))
      ∧ (∀ d y, memRead (s2.die d).dram y = memRead (s1.die d).dram y)
      ∧ ∀ r th, s1.thread? r = some th → ∃ th', s2.thread? r = some th' ∧ th'.regs = th.regs
        ∧ th'.preds = th.preds ∧ th'.fstat = th.fstat ∧ th'.handles = th.handles)
  ∧ (∀ (s s1 : State) (cu : Cur) (gd : Guard) (t : Ty) (hint : Fin 3) (a b c : Opnd)
    (va vb vc : Quad × Bool) (x : Nat) (l : Loc), t ∈ loadTys →
    ReadsOnce s gd [(a, .w128), (b, .w32), (c, t.width)] s1 cu [va, vb, vc] → cu.t.held = false →
    let tagged := t == .b128 && vc.2 && capHas va.1 permStoreCap
    let perm := if t == .b128 && effTag vc.1 vc.2 then permWrite + permStoreCap else permWrite
    checkCap va.1 va.2 perm (lo32 vb) t.bytes = .ok x → capSpace va.1 = 0 → x % 65536 + t.bytes ≤ 65536 →
    s1.locate (cu.agent (capSystem va.1)) .write x t.bytes = .ok l → l.y = none → l.pa % 65536 = x % 65536 →
    l.x.leaf.getLsbD 6 = true → l.x.leaf.getLsbD 7 = true → l.x.leaf.getLsbD 53 = false →
    l.x.leaf.getLsbD 55 = false → aget (s1.die cu.r.die).cipher (l.pa / 65536) = none → s1.upsets = [] →
    s1.storeWaits cu [l] true = false → Memory.wf (s1.die cu.r.die).dram = true →
    ∃ s2, exec (.st gd t hint a b c) s = .next s2
      ∧ (∀ i, i < t.bytes → memRead (s2.die cu.r.die).dram (l.pa + i) = vc.1.extractLsb' (8 * i) 8)
      ∧ (∀ d y, d ≠ cu.r.die ∨ y < l.pa ∨ l.pa + t.bytes ≤ y →
        memRead (s2.die d).dram y = memRead (s1.die d).dram y)
      ∧ (∀ d k, d ≠ cu.r.die ∨ k < l.pa / 16 ∨ (l.pa + t.bytes - 1) / 16 < k →
        ((s2.die d).tags.contains k = (s1.die d).tags.contains k))
      ∧ (∀ k, l.pa / 16 ≤ k → k ≤ (l.pa + t.bytes - 1) / 16 →
        ((s2.die cu.r.die).tags.contains k
          = (tagged && x % 16 == 0 && l.x.leaf.getLsbD 4 && k == l.pa / 16)))
      ∧ (∀ d n y, memRead (s2.core d n).scratch y = memRead (s1.core d n).scratch y)
      ∧ (∀ d n, (s2.core d n).scratchTags = (s1.core d n).scratchTags)
      ∧ ∀ r th, s1.thread? r = some th → ∃ th', s2.thread? r = some th' ∧ th'.regs = th.regs
        ∧ th'.preds = th.preds ∧ th'.fstat = th.fstat ∧ th'.handles = th.handles)

/-- R245, R246: the new value of every atomic operation, and the cas that fails; an atom on the cove's own
scratchpad returns the old value at the end of its clause and writes the new one, or nothing when a cas
fails; a misaligned one traps ALIGN. -/
def Obligations.Atomics : Prop :=
  (∀ (t : Ty) (old : Nat) (x : Quad), old < 2 ^ tyBits t → t ∈ [Ty.i32, .n32, .i64, .n64, .b32, .b64] →
    let w := tyBits t
    let c := x.toNat % 2 ^ w
    let swap := x.toNat / 2 ^ w % 2 ^ w
    let order (v : Nat) : Int := if tySigned t then (BitVec.ofNat w v).toInt else v
    atomNew 0 t old x = some ((old + c) % 2 ^ w)
    ∧ atomNew 1 t old x = some (old &&& c) ∧ atomNew 2 t old x = some (old ||| c)
    ∧ atomNew 3 t old x = some (old ^^^ c)
    ∧ (order old ≤ order c → atomNew 4 t old x = some old ∧ (old ≠ c → atomNew 5 t old x = some c))
    ∧ (order c ≤ order old → (old ≠ c → atomNew 4 t old x = some c) ∧ atomNew 5 t old x = some old)
    ∧ atomNew 6 t old x = some c
    ∧ atomNew 7 t old x = (if old = c then some swap else none)
    ∧ atomNew 8 t old x = some (if order c ≤ order old then 0 else (old + 1) % 2 ^ w)
    ∧ atomNew 9 t old x = some (if old = 0 ∨ order c < order old then c else (old + 2 ^ w - 1) % 2 ^ w))
  ∧ (∀ (s s1 : State) (cu : Cur) (gd : Guard) (t : Ty) (scope : Scope) (aop : Fin 10) (d a b c : Opnd)
    (va vb vc : Quad × Bool) (x : Nat), t ∈ atomTys aop →
    ReadsOnce s gd [(a, .w128), (b, .w32), (c, atomWidth aop t)] s1 cu [va, vb, vc] →
    cu.t.held = false →
    checkCap va.1 va.2 (permRead + permWrite + permAtomic) (lo32 vb) t.bytes = .ok x →
    capSpace va.1 = 2 →
    (x % t.bytes ≠ 0 →
      exec (.atom gd t scope aop d a b c) s = .next (s1.trapPair cu .align (BitVec.ofNat 64 x)))
    ∧ (x % t.bytes = 0 → s1.strong cu.ctx = false → x + t.bytes ≤ cu.cv.declared → s1.upsets = [] →
      (s1.core cu.r.die cu.r.core).badSectors = [] →
      let at' := cu.cv.scratchBase + x
      let old := leNat ((List.range t.bytes).map fun i =>
        memRead (s1.core cu.r.die cu.r.core).scratch (at' + i))
      let s2 := match atomNew aop t old vc.1 with
        | some v => s1.scratchPut cu.r.die cu.r.core at' (leBytes t.bytes v)
        | none => s1
      exec (.atom gd t scope aop d a b c) s
        = .next (s2.both cu fun th => th.deferReg d t.width (ofNatQ old) false)))
  ∧ (∀ (s s1 : State) (cu : Cur) (gd : Guard) (t : Ty) (scope : Scope) (aop : Fin 10) (d a b c : Opnd)
      (va vb vc : Quad × Bool) (x : Nat) (s2 : State),
    ReadsOnce s gd [(a, .w128), (b, .w32), (c, atomWidth aop t)] s1 cu [va, vb, vc] →
    cu.t.held = false → checkStore va (permRead + permWrite + permAtomic) (lo32 vb) t.bytes = .ok x →
    x % t.bytes = 0 → s1.strong cu.ctx = false →
    s1.atomSpace cu va.1 false scope aop t d vc.1 x = .ok s2 →
    exec (.atom gd t scope aop d a b c) s = .next s2)

/-- R212, R218, R219, R247, R248: with no request of the thread on the link, fence completes, acq reads
its object in the cove's scratchpad and rel writes it; from .bay outward fence and acq drop the core's
L1 copies of the context; icinv drops the decoded clauses of every core it covers. -/
def Obligations.FencesAndSynchronisation : Prop :=
  ∀ (s s1 : State) (cu : Cur) (gd : Guard) (scope : Scope) (d a b c : Opnd) (va vb vc : Quad × Bool)
    (x : Nat),
    let wide := decide (scope ∈ [Scope.bay, .die, .sys])
    let core (s : State) := s.core cu.r.die cu.r.core
    let drop (s : State) := if wide then s.clearL1 cu.r.die cu.r.core cu.ctx else s
    let at' := cu.cv.scratchBase + x
    (ReadsOnce s gd [] s1 cu [] → (∀ q ∈ s1.link.reqs, q.thread ≠ cu.r) →
      exec (.fence gd scope) s = .next (drop s1))
    ∧ (ReadsOnce s gd [] s1 cu [] →
      exec (.icinv gd scope) s
        = .next ((s1.scopeCores cu scope).foldl (fun s k => s.dropDop k.1 k.2 cu.ctx) s1))
    ∧ (ReadsOnce s gd [(a, .w128), (b, .w32)] s1 cu [va, vb] → cu.t.held = false →
      checkCap va.1 va.2 permRead (lo32 vb) 8 = .ok x → capSpace va.1 = 2 → x % 8 = 0 →
      x + 8 ≤ cu.cv.declared → s1.upsets = [] → (core s1).badSectors = [] →
      exec (.acq gd scope d a b) s = .next ((drop s1).both cu fun th => th.deferReg d .w64
        (ofNatQ (leNat ((List.range 8).map fun i => memRead (core s1).scratch (at' + i)))) false))
    ∧ (ReadsOnce s gd [(a, .w128), (b, .w32), (c, .w64)] s1 cu [va, vb, vc] →
      checkCap va.1 va.2 permWrite (lo32 vb) 8 = .ok x → capSpace va.1 = 2 → x % 8 = 0 →
      x + 8 ≤ cu.cv.declared → (∀ q ∈ s1.link.reqs, q.thread ≠ cu.r) →
      exec (.rel gd scope a b c) s
        = .next ((drop s1).scratchPut cu.r.die cu.r.core at' (leBytes 8 (lo64 vc).toNat)))

/-- R249, R250: prefetches always complete and change no register; stash.wb and stash.inv clean the
parts of the cove's windows that their range touches. -/
def Obligations.PrefetchAndStash : Prop :=
  ∀ (s s1 : State) (cu : Cur) (gd : Guard) (a b c : Opnd) (imm : BitVec 20) (va vb vc : Quad × Bool),
    (ReadsOnce s gd [(a, .w128), (b, .w32)] s1 cu [va, vb] →
      (∀ x, checkCap va.1 va.2 permRead (lo32 vb) 1 = .ok x →
        exec (.pf gd a b) s = .next (s1.prefetch cu va.1 x)
        ∧ (b = immInt imm → exec (.pfImm gd a imm) s = .next (s1.prefetch cu va.1 x)))
      ∧ (∀ e, checkCap va.1 va.2 permRead (lo32 vb) 1 = .error e →
        exec (.pf gd a b) s = .next s1 ∧ (b = immInt imm → exec (.pfImm gd a imm) s = .next s1))
      ∧ ∃ s2, exec (.pfi gd a b) s = .next s2
        ∧ (b = immInt imm → exec (.pfiImm gd a imm) s = .next s2)
        ∧ s2.threads = s1.threads
        ∧ ∀ e, checkCap va.1 va.2 permFetch (lo32 vb) 1 = .error e → s2 = s1)
    ∧ (ReadsOnce s gd [(a, .w128), (b, .w32), (c, .w32)] s1 cu [va, vb, vc] →
      let n := if c = .none then 1 else (lo32 vc).toNat
      let sys := capSystem va.1
      ∀ x, cu.t.held = false → checkCap va.1 va.2 permRead (lo32 vb) n = .ok x → capSpace va.1 < 2 →
      (capSpace va.1 = 1 → cu.cv.outside x n = none) →
      let clean (inval : Bool) := if c = .none then s1.cleanAll (some cu) sys cu.t.cove inval
        else s1.cleanRange (some cu) sys cu.t.cove x n inval
      (∀ s2, clean false = (s2, none) → exec (.stashWb gd a b c) s = .next s2)
      ∧ (∀ s2, clean true = (s2, none) → exec (.stashInv gd a b c) s = .next s2))

/-- R264 to R266: a thread whose gang names its crew arrives at an instruction of the mma group with its
latched descriptor and format word, one predicated off without them; a gang value that does not name the
crew, names more than six, or names one that the cove does not have, traps GANG_MISMATCH. -/
def Obligations.GangArrival : Prop :=
  ∀ (s s1 : State) (cu : Cur) (gd : Guard) (d a b c : Opnd) (va vb vc : Quad × Bool),
    let gang := lo32 vc
    let named := (List.range 32).filter fun k => gang.getLsbD k
    let good := cu.crew ∈ named ∧ named.length ≤ 6 ∧ ∀ k ∈ named, k < cu.cv.crewCount
    let outcome (i : Instr) (off : Bool) (vals : List Quad) : Prop :=
      (good → exec i s = .next (s1.modThread cu.r fun x =>
        { x with latches := x.latches ++ [⟨cu.iss.addr, cu.iss.slot, gang.toNat, off, i, vals, []⟩] }))
      ∧ (¬ good → exec i s = .next (s1.trapAt cu .gangMismatch (gang.setWidth 64)))
    (Reads s gd [(c, .w32), (a, .w128), (b, .w32)] [] s1 cu [vc, va, vb] →
      outcome (.mma gd d a b c) false [va.1, vb.1] ∧ outcome (.mmaSp gd d a b c) false [va.1, vb.1]
      ∧ outcome (.mmaSc gd d a b c) false [va.1, vb.1])
    ∧ (Reads s always [(c, .w32)] [] s1 cu [vc] → (∀ c0, s.cur = some c0 → guardHolds gd c0.t = false) →
      outcome (.mma gd d a b c) true [] ∧ outcome (.mmaSp gd d a b c) true []
      ∧ outcome (.mmaSc gd d a b c) true [])

/-- R273, R277, R280, R281: mzero, chdef and chrun put their operation into the array queue, where there
is room; an mzero of a bad shape traps MMA_SHAPE, and a full queue holds the thread at its slot. In which order
chrun's checks are made, and that in0's format and range are always among them, is the model's reading (log 120). -/
def Obligations.ArrayCommands : Prop :=
  ∀ (s s1 : State) (cu : Cur) (gd : Guard) (ch : Fin 8) (d a b : Opnd) (va vb : Quad × Bool),
    let room (s : State) : Prop := (s.core cu.r.die cu.r.core).array.length < Config.arrayQueue
    let queued (s : State) (kind : ArrayKind) (desc : Quad) (d : Opnd) : Host.Outcome State Fault Refusal :=
      .next ((s.markPending cu d).modCore cu.r.die cu.r.core fun k => { k with
        array := k.array ++ [⟨kind, cu.t.cove, desc, ((handleNo d).map fun n => (cu.r, n)).toList,
          s.link.nextId⟩] })
    (ReadsOnce s gd [(a, .w128)] s1 cu [va] →
      let v := va.1
      let n := (v.extractLsb' 84 10).toNat
      let off := (v.extractLsb' 64 19).toNat
      let shaped := v.extractLsb' 94 2 = 0 ∧ v.getLsbD 83 = false ∧ 16 ≤ n ∧ n ≤ 512 ∧ n % 16 = 0
      (¬ shaped → exec (.mzero gd d a) s
        = .next (s1.trapPair cu .mmaShape ((v.extractLsb' 64 32).setWidth 64)))
      ∧ (shaped → off % 16 = 0 → off + 256 * n ≤ cu.cv.declared →
        (room s1 → exec (.mzero gd d a) s = queued s1 .mzero v d)
        ∧ (¬ room s1 → exec (.mzero gd d a) s = .next (s1.holdPair cu)))
      ∧ ∀ ws, (s1.core cu.r.die cu.r.core).chainAhead cu.ctx ch.val = some ws → runCheck cu.cv ws v = .ok () →
        (v.extractLsb' 96 16 = 0 → exec (.chrun gd ch d a) s = .next (s1.markDone cu d 0))
        ∧ (v.extractLsb' 96 16 ≠ 0 → room s1 → exec (.chrun gd ch d a) s = queued s1 (.chrun ch.val) v d))
    ∧ (ReadsOnce s gd [(a, .w128), (b, .w32)] s1 cu [va, vb] →
      ∀ s2 h s3 ws, s1.readChain cu va (lo32 vb) 8 = .ok (s2, h) →
        s2.readChain cu va (lo32 vb) (8 * (chCount (h.headD 0) + 1)) = .ok (s3, ws) →
        chainOk ws = true → room s3 →
        exec (.chdef gd ch a b) s = queued s3 (.chdef ch.val ws) 0 .none)

/-- R271: an output element of the matrix array under an INT32 accumulator, wrapped or saturated; and R269, R270:
one under an FP32 accumulator: a NaN, an infinity, and else the sum of its terms, each cut to the 53 bits below
the leading bit of the largest and one sticky bit, rounded once. -/
def Obligations.MatrixIntegerElement : Prop :=
  (∀ (sat : Bool) (c : Nat) (ps : List (FVal × FVal)),
    let product (p : FVal × FVal) : FVal :=
      let undefined := p.1.isZero && p.2.isInf || p.1.isInf && p.2.isZero
      if p.1.isNan || p.2.isNan || undefined then .nan (p.1.isSignalling || p.2.isSignalling || undefined)
      else match p with
        | (.num n m e, .num n' m' e') => .num (n != n') (m * m') (e + e')
        | (x, y) => .inf (x.neg != y.neg)
    let terms := fp32.read c :: ps.map product
    let opposite := FVal.inf false ∈ terms ∧ FVal.inf true ∈ terms
    let r := outFloat sat c ps 0
    (opposite ∨ (∃ v ∈ terms, v.isNan) →
      r = (fp32.nan, if opposite ∨ ∃ v ∈ terms, v.isSignalling then flNV else 0))
    ∧ (¬ opposite → (∀ v ∈ terms, v.isNan = false) →
      (∀ n, FVal.inf n ∈ terms → r = (fp32.signed n fp32.infBits, 0))
      ∧ ((∀ v ∈ terms, v.isZero) → r = (fp32.signed (decide (∀ v ∈ terms, v.neg)) 0, 0))
      ∧ ∀ top : Int, (∀ v ∈ terms, v.isInf = false) →
        (∃ n m e, FVal.num n m e ∈ terms ∧ m ≠ 0 ∧ e + m.log2 = top) →
        (∀ n m e, FVal.num n m e ∈ terms → m ≠ 0 → e + m.log2 ≤ top) →
        let last := top - 52
        let cut (m : Nat) (e : Int) : Nat :=
          if last ≤ e then 2 * (m * 2 ^ (e - last).toNat)
          else 2 * (m / 2 ^ (last - e).toNat) + if m % 2 ^ (last - e).toNat = 0 then 0 else 1
        let sum : Int := (terms.map fun v => match v with
          | .num n m e => (if n then -1 else 1) * (cut m e : Int)
          | _ => 0).sum
        r = if sum = 0 then (0, 0) else fp32.roundNum .rn sat (decide (sum < 0)) sum.natAbs (last - 1))) ∧
  ∀ (c : Nat) (ps : List (Int × Int)), c < 2 ^ 32 →
    let exact := (BitVec.ofNat 32 c).toInt + (ps.map fun p => p.1 * p.2).sum
    let valid := ps.map fun p => (some p.1, some p.2)
    (outInt false c valid 0).1 = (BitVec.ofInt 32 exact).toNat
    ∧ (outInt false c valid 0).2 = 0
    ∧ (BitVec.ofNat 32 (outInt true c valid 0).1).toInt
      = max (-2147483648) (min 2147483647 exact)

/-- R305 to R308, R392: hwait, htest, hcancel of a handle that nothing is pending on, or of a copy, hmov,
and perf.rd. -/
def Obligations.HandlesAndCounters : Prop :=
  ∀ (s s1 : State) (cu : Cur) (gd : Guard) (d a b : Opnd) (va vb : Quad × Bool),
    let k := s1.core cu.r.die cu.r.core
    let x := k.counters? cu.ctx
    (Reads s gd [(a, .w32)] [] s1 cu [va] →
      exec (.hwait gd a) s = .next (s1.modThread cu.r fun t =>
        { t with status := .hwait (va.1.extractLsb' 0 16).toNat, passed := 0 })
      ∧ exec (.htest gd d a) s = .next (s1.modThread cu.r fun t =>
        t.deferReg d .w64 ((t.handle (va.1.extractLsb' 0 4).toNat).setWidth 128) false))
    ∧ (ReadsOnce s gd [(a, .w32)] s1 cu [va] →
      let n := (va.1.extractLsb' 0 4).toNat
      ((cu.t.handle n).extractLsb' 48 16 ≠ 0x8000 → exec (.hcancel gd a) s = .next s1)
      ∧ ∀ op, (cu.t.handle n).extractLsb' 48 16 = 0x8000 → k.keeps cu.r n = false →
        (k.copies.find? fun y => y.owner == cu.r && y.handle == some n) = some op →
        exec (.hcancel gd a) s = .next (s1.endCopy cu.r.die cu.r.core op (handleWord 1 op.progress)))
    ∧ (Reads s gd [(a, .w64)] [] s1 cu [va] →
      let v := lo64 va
      let status := (v.extractLsb' 48 16).toNat
      (∀ n, a = .h n → exec (.hmov gd d a) s = .next (s1.modThread cu.r fun t =>
        (t.deferHandle a 0).deferHandle d v))
      ∧ ((∀ n, a ≠ .h n) → exec (.hmov gd d a) s = .next (s1.modThread cu.r fun t =>
        t.deferHandle d (if status ≤ 3 ∨ (0x4000 ≤ status ∧ status < 0x8000) then v
          else (1 : BitVec 16) ++ v.extractLsb' 0 48))))
    ∧ (Reads s gd [(b, .w32)] [] s1 cu [vb] →
      let readable : List (Nat × DWord) :=
        [(0x000, x.clauses), (0x001, x.shoals), (0x002, x.issued), (0x003, x.serialIssues),
          (0x004, x.serialEntries), (0x005, x.l1Misses), (0x006, x.arrayOps), (0x007, x.rayRounds),
          (0x008, x.slips), (0x009, (s1.vi cu.r.die cu.cv.vi).xretry.setWidth 64),
          (0x010, BitVec.ofNat 64 k.regErrors)]
        ++ if cu.cv.system then [(0x011, BitVec.ofNat 64 (s1.die cu.r.die).memErrors),
            (0x012, BitVec.ofNat 64 (s1.die cu.r.die).poisonCount)] else []
      (∀ v, ((lo32 vb).toNat, v) ∈ readable → exec (.perfRd gd d b) s
        = .next ((s1.touch cu.r (d.names .w64)).modThread cu.r fun t =>
          t.writeOpnd d .w64 (v.setWidth 128) false))
      ∧ ((∀ v, ((lo32 vb).toNat, v) ∉ readable) →
        exec (.perfRd gd d b) s = .next (s1.trapAt cu .illegalOp ((lo32 vb).setWidth 64))))

/-- R300 to R302, R304: a copy that passes its checks goes to the copy unit of its core with its handle pending,
or holds its thread while the unit is full; one without a unit to copy waits for no room, and completes at its
clause's end; a descriptor field that fails traps FORMAT_INVALID with its value. -/
def Obligations.CopyCommands : Prop :=
  (∀ (s s1 : State) (cu : Cur) (gd : Guard) (d a b c : Opnd) (va vb vc : Quad × Bool),
    let v := vc.1
    let L := (v.extractLsb' 0 32).toNat
    let S := (v.extractLsb' 32 16).toNat
    let copies := (s1.core cu.r.die cu.r.core).copies
    let outcome (form : Nat) (i : Instr) : Prop :=
      (∀ x, cpBadField form cu.cv.barCount v = some x →
        exec i s = .next (s1.trapPair cu .formatInvalid (BitVec.ofNat 64 x)))
      ∧ (s1.copyCheck cu form va vb v = .ok () →
        let total := if form = 1 then S * L else L
        (total = 0 ∨ copies.length < Config.copyQueue →
          exec i s = .next ((s1.markPending cu d).modCore cu.r.die cu.r.core fun k => { k with
            copies := k.copies
              ++ [⟨cu.r, cu.t.cove, handleNo d, form, va.1, vb.1, v, 0, s1.link.nextId⟩] }))
        ∧ (total ≠ 0 → Config.copyQueue ≤ copies.length → exec i s = .next (s1.holdPair cu)))
    (ReadsOnce s gd [(a, .w128), (b, .w128), (c, .w128)] s1 cu [va, vb, vc] →
      outcome 0 (.cpBlk gd d a b c) ∧ outcome 1 (.cpTile gd d a b c) ∧ outcome 2 (.cpGat gd d a b c)
      ∧ outcome 3 (.cpSct gd d a b c) ∧ outcome 4 (.cpMc gd d a b c))
    ∧ (ReadsOnce s gd [(a, .w128), (.none, .w128), (c, .w128)] s1 cu [va, vb, vc] →
      outcome 5 (.cpFill gd d a c)))
  ∧ ∀ (s : State) (die : DieId) (core : Nat) (op : CopyOp), (s.core die core).copies = [op] →
    cpTotal op.form op.desc = 0 → (∀ t, s.thread? op.owner = some t → t.held = false) →
    let s1 := (s.modCore die core fun k => { k with copies := [] }).completeHandle op.owner op.handle 0
    (op.desc.getLsbD 118 = false → s.endEmptyCopies die core = s1)
    ∧ ∀ c, op.desc.getLsbD 118 = true → s1.cove? op.cove = some c →
      s.endEmptyCopies die core = s1.copyArrive op.cove c (op.desc.extractLsb' 119 9).toNat

/-- R300, R312, R316 to R318, R321: ray.go, ray.next and ray.end on a record; a motion search, a sample, a
gather and an image store that pass their checks are issued with their handle pending. -/
def Obligations.EngineCommands : Prop :=
  ∀ (s s1 : State) (cu : Cur) (gd : Guard) (t : Ty) (d a b c : Opnd) (va vb vc : Quad × Bool),
    let core (s : State) := s.core cu.r.die cu.r.core
    let at' (record : Nat) := cu.cv.scratchBase + record
    (ReadsOnce s gd [(a, .w128), (b, .w32)] s1 cu [va, vb] →
      let record := (lo32 vb).toNat
      ∀ s2, s1.rayGoCheck cu va record = .ok s2 → (core s2).raySlot cu.r record = none →
        (core s2).rays.length < Config.raySlots →
        exec (.rayGo gd d a b) s
          = .next (((s2.startRecord cu va record).takeRay cu record (handleNo d).toList).markPending cu d))
    ∧ (ReadsOnce s gd [(a, .w32)] s1 cu [va] →
      let record := (lo32 va).toNat
      record % 16 = 0 → record + 128 ≤ cu.cv.declared →
      let w := leNat (memBytes (core s1).scratch (at' record + 64) 4)
      let slot := (core s1).raySlot cu.r record
      (w % 4 = 0 ∨ w % 4 = 3 ∨ w % 4 = 2 ∧ slot = none →
        exec (.rayNext gd d a) s = .next (s1.markDone cu d (faultedWord .formatInvalid 0)))
      ∧ (w % 4 = 1 ∨ w % 4 = 2 ∧ slot ≠ none → w / 4 % 2 = 1 →
        exec (.rayNext gd d a) s = .next (s1.markDone cu d 0))
      ∧ (∀ x, w % 4 = 1 ∨ w % 4 = 2 → slot = some x → w / 4 % 2 = 0 →
        exec (.rayNext gd d a) s = .next ((s1.addRound cu x (handleNo d).toList).markPending cu d))
      ∧ (w % 4 = 1 → slot = none → w / 4 % 2 = 0 → (core s1).rays.length < Config.raySlots →
        exec (.rayNext gd d a) s = .next
          (((s1.setRayState cu.t.cove cu.cv record 2).takeRay cu record (handleNo d).toList).markPending cu d))
      ∧ exec (.rayEnd gd a) s = .next ((match slot with
          | some x => s1.freeRay cu.r.die cu.r.core x
          | none => s1).setRayState cu.t.cove cu.cv record 0))
    ∧ (ReadsOnce s gd [(a, .w128), (b, .w128), (c, .w128)] s1 cu [va, vb, vc] →
      s1.searchCheck cu va vb vc.1 = .ok () →
      exec (.meSrch gd d a b c) s = .next ((s1.markPending cu d).modCore cu.r.die cu.r.core fun k =>
        { k with searches := k.searches
            ++ [⟨cu.r, cu.t.cove, handleNo d, va.1, vb.1, vc.1, s1.link.nextId⟩] }))
    ∧ (ReadsOnce s gd [(a, .w128), (b, .w64)] s1 cu [va, vb] → s1.imageCheck cu va = .ok () →
      ∀ n : Fin 768, d = .g n →
      let issued (gather : Bool) : Host.Outcome State Fault Refusal :=
        .next (((s1.markPending cu c).both cu fun u =>
          u.hideDest (some (n.val, if t = .f16 then .w64 else .w128))).modCore cu.r.die cu.r.core fun k => { k with
          samples := k.samples ++ [⟨cu.r, cu.t.cove, handleNo c, gather, t == .f16, n.val, va.1,
            vb.1.extractLsb' 0 32, vb.1.extractLsb' 32 32, cu.iss.addr, cu.iss.slot, s1.link.nextId⟩] })
      exec (.smp gd t d a b c) s = issued false ∧ exec (.smpG gd t d a b c) s = issued true)
    ∧ (ReadsOnce s gd [(a, .w128), (b, .w64),
          (c, if t = .f32 then .w128 else if t = .f16 then .w64 else .w32)] s1 cu [va, vb, vc] →
      s1.imageCheck cu va = .ok () →
      exec (.imgSt gd t d a b c) s = .next ((s1.markPending cu d).modCore cu.r.die cu.r.core fun k =>
        { k with images := k.images ++ [⟨cu.r, cu.t.cove, handleNo d, t, va.1, vb.1.extractLsb' 0 32,
            vb.1.extractLsb' 32 32, vc.1, s1.link.nextId⟩] }))

/-- R340 to R346: bind and unbind write and clear an entry of the region binding table or a stash window,
tlbinv drops the TLB entries of the range on every core of its scope, keyz starts a teardown, and ptsync
is a fence at .sys; a launch without the system right traps ILLEGAL_OP at keyz and ptsync. And R325 to R328,
R331: the walk of the tables that they change: where it ends, at a leaf of the second level or of the third, a
span's standing for its group, and what faults; the permissions of the leaf it finds; and what the directory
state of the granule there does with the access. -/
def Obligations.TableInstructions : Prop :=
  (∀ (s : State) (d : DieId) (ctx : Nat) (k : AccKind) (a : Nat),
    let word (pa : Nat) : DWord := BitVec.ofNat 64 (leNat (memBytes (s.die d).dram pa 8))
    let fits (pa : Nat) := pa + 8 ≤ Config.dramBytes d
    let field (e : DWord) (lo n : Nat) := (e.extractLsb' lo n).toNat
    let table (e : DWord) := field e 62 2 = 1 ∧ field e 48 14 = 0 ∧ field e 0 16 = 0
    let leaf (e : DWord) := field e 62 2 = 2 ∧ field e 49 4 = 0 ∧ field e 8 8 = 0 ∧ e.getLsbD 0 = false
      ∧ (e.getLsbD 55 = true → field e 56 6 < Config.keySlots d)
    let base (e : DWord) := 65536 * field e 16 32
    let fault : Except Stop Xlat := .error (.trap (match k with
      | .read => .loadFault | .write => .storeFault | .fetch => .fetchFault) (BitVec.ofNat 64 a))
    s.upsets = [] → (s.die d).poisoned = [] →
    ((s.ctx? ctx).bind (Context.root · d) = none → s.walk d ctx k a = fault)
    ∧ ∀ root, (s.ctx? ctx).bind (Context.root · d) = some root →
      let at1 := root + 8 * (a / 2 ^ 42 % 2 ^ 13)
      let e1 := word at1
      let at2 := base e1 + 8 * (a / 2 ^ 29 % 2 ^ 13)
      let e2 := word at2
      let index := a / 2 ^ 16 % 2 ^ 13
      let lead := base e2 + 8 * (index - index % 32)
      let at3 := base e2 + 8 * index
      let spanned := field (word lead) 62 2 = 2 ∧ (word lead).getLsbD 48 = true
      fits at1 → (¬ table e1 → s.walk d ctx k a = fault) ∧ (table e1 → fits at2 →
        (leaf e2 → field e2 16 32 % 2 ^ 13 = 0 → s.walk d ctx k a
          = .ok ⟨base e2 + a % 2 ^ 29, e2, at2, a - a % 2 ^ 29, 2 ^ 29⟩)
        ∧ (¬ (leaf e2 ∧ field e2 16 32 % 2 ^ 13 = 0) → ¬ table e2 → s.walk d ctx k a = fault)
        ∧ (table e2 → fits lead → fits at3 →
          (spanned → leaf (word lead) → field (word lead) 16 32 % 32 = 0 → s.walk d ctx k a
            = .ok ⟨base (word lead) + a % 2 ^ 21, word lead, lead, a - a % 2 ^ 21, 2 ^ 21⟩)
          ∧ (spanned → ¬ (leaf (word lead) ∧ field (word lead) 16 32 % 32 = 0) → s.walk d ctx k a = fault)
          ∧ (¬ spanned → leaf (word at3) → (word at3).getLsbD 48 = false → s.walk d ctx k a
            = .ok ⟨base (word at3) + a % 2 ^ 16, word at3, at3, a - a % 2 ^ 16, 2 ^ 16⟩)
          ∧ (¬ spanned → ¬ (leaf (word at3) ∧ (word at3).getLsbD 48 = false) → s.walk d ctx k a = fault)))) ∧
  (∀ (s : State) (g : Agent) (k : AccKind) (a n : Nat) (x : Xlat), s.leafOf g k a = .ok x →
    (g.core = none → s.walk g.die g.ctx k a = .ok x) ∧
    (let allowed := (match k with | .read => x.leaf.getLsbD 1 | .write => x.leaf.getLsbD 2 | .fetch => x.leaf.getLsbD 3)
        = true ∧ (x.leaf.getLsbD 5 = true → g.sys = true)
    let faults (c : Cause) : Except Stop Loc := .error (.trap c (BitVec.ofNat 64 a))
    (¬ allowed → s.locate g k a n
      = faults (match k with | .read => .loadFault | .write => .storeFault | .fetch => .fetchFault))
    ∧ (allowed → s.carved g.die x.pa n = false → s.inWindow g.ctx a n = false →
      (s.dirOf g.die x.pa = .home → s.locate g k a n = .ok ⟨a, n, g.die, x.pa, x, none⟩)
      ∧ (s.dirOf g.die x.pa = .absent → s.locate g k a n = faults .pageAbsent)
      ∧ (s.dirOf g.die x.pa = .transfer → s.locate g k a n = .error .hold)
      ∧ (s.dirOf g.die x.pa = .peer → ∀ p,
        s.locateOn ⟨otherDie g.die, none, g.ctx, g.launch, g.sys, g.win⟩ k a n = .ok p →
        s.locate g k a n = if s.dirOf (otherDie g.die) p.pa = .home
          then .ok ⟨a, n, otherDie g.die, p.pa, x, some p.x⟩ else .error .hold)))) ∧
  ∀ (s s1 : State) (cu : Cur) (gd : Guard) (a b c : Opnd) (va vb vc : Quad × Bool),
    let entry (i : Nat) : Option Quad := (s1.ctx? cu.ctx).bind fun x => aget x.bindings i
    let window (i : Nat) : Option Window := (s1.cove? cu.t.cove).bind fun k => aget k.windows i
    let putWindow (s : State) (i : Nat) (w : Option Window) : Host.Outcome State Fault Refusal :=
      .next (s.modCove cu.t.cove fun k => { k with windows := match w with
        | some x => aput k.windows i x
        | none => adel k.windows i })
    (ReadsOnce s gd [(a, .w128), (b, .w32), (c, .w64)] s1 cu [va, vb, vc] → cu.t.held = false →
      let ctl := lo32 vb
      let i := (ctl.extractLsb' 0 8).toNat
      let base := capBase va.1
      let n := capLength va.1
      (∀ cause x, bindCheck cu.cv va ctl (lo64 vc) = some (.trap cause x) →
        exec (.bind gd a b c) s = .next (s1.trapPair cu cause x))
      ∧ (bindCheck cu.cv va ctl (lo64 vc) = none → ctl.getLsbD 8 = false →
        ∀ s2, s1.putBinding cu i (bindingEntry base n (lo64 vc)) = .ok s2 →
        exec (.bind gd a b c) s = .next s2)
      ∧ (bindCheck cu.cv va ctl (lo64 vc) = none → ctl.getLsbD 8 = true →
        let made : Window := ⟨(base / 48 % 2 ^ 50).toNat, n / 48, (lo64 vc).toNat, []⟩
        (window i = none → exec (.bind gd a b c) s = putWindow s1 i (some made))
        ∧ ∀ s2, s1.retireWindow cu i = (s2, none) →
          exec (.bind gd a b c) s = putWindow s2 i (some made)))
    ∧ (ReadsOnce s gd [(a, .w32)] s1 cu [va] → cu.t.held = false →
      let ctl := lo32 va
      let i := (ctl.extractLsb' 0 8).toNat
      (ctl.toNat < 256 →
        (entry i = none → exec (.unbind gd a) s = .next s1)
        ∧ ∀ s2, entry i ≠ none → s1.putBinding cu i 0 = .ok s2 → exec (.unbind gd a) s = .next s2)
      ∧ (256 ≤ ctl.toNat → ctl.toNat < 512 → i < cu.cv.stashMax →
        (window i = none → exec (.unbind gd a) s = putWindow s1 i none)
        ∧ ∀ s2, s1.retireWindow cu i = (s2, none) → exec (.unbind gd a) s = putWindow s2 i none)
      ∧ (512 ≤ ctl.toNat ∨ 256 ≤ ctl.toNat ∧ cu.cv.stashMax ≤ i →
        exec (.unbind gd a) s = .next (s1.trapPair cu .formatInvalid (ctl.setWidth 64)))
      ∧ (let n := (lo32 va).toNat
        let die := s1.die cu.r.die
        (cu.cv.system = false → exec (.keyz gd a) s = .next (s1.trapPair cu .illegalOp 0))
        ∧ (cu.cv.system = true → Config.keySlots cu.r.die ≤ n →
          exec (.keyz gd a) s = .next (s1.trapPair cu .formatInvalid (BitVec.ofNat 64 n)))
        ∧ (cu.cv.system = true → n < Config.keySlots cu.r.die → die.scrub = none →
          (s1.slotOf cu.r.die cu.cv.vi n).isSome = true →
          exec (.keyz gd a) s = .next (s1.modDie cu.r.die fun x => { x with
            slots := aput x.slots n ⟨0, 0, some ((die.keySlot n).owner.getD 0), .scrubbing⟩
            scrub := some ⟨n, (die.keySlot n).owner.getD 0, 0, [], [], 0⟩
            scrubPos := 0, scrubDone := 0 }))))
    ∧ (ReadsOnce s gd [(a, .w64), (b, .w32), (c, .w32)] s1 cu [va, vb, vc] →
      (∀ scope, scopeOf (lo32 vc) = some scope →
        exec (.tlbinv gd a b c) s = .next ((s1.scopeCores cu scope).foldl (fun s k =>
          s.dropTlb k.1 k.2 cu.ctx (lo64 va).toNat (65536 * (lo32 vb).toNat)) s1))
      ∧ (scopeOf (lo32 vc) = none →
        exec (.tlbinv gd a b c) s = .next (s1.trapPair cu .illegalOp ((lo32 vc).setWidth 64))))
    ∧ (ReadsOnce s gd [] s1 cu [] →
      (cu.cv.system = false → exec (.ptsync gd) s = .next (s1.trapPair cu .illegalOp 0))
      ∧ (cu.cv.system = true → (∀ q ∈ s1.link.reqs, q.thread ≠ cu.r) →
        exec (.ptsync gd) s = .next (s1.clearL1 cu.r.die cu.r.core cu.ctx)))

/-- R374 to R376: bar.ini, bar.arr, bar.arw and bar.wt on a barrier of the cove; a number that the cove
does not have, a count out of range and an arrival at a barrier whose expected is 0 trap FORMAT_INVALID. -/
def Obligations.Barriers : Prop :=
  ∀ (s s1 : State) (cu : Cur) (gd : Guard) (d a b : Opnd) (imm : BitVec 20) (va vb : Quad × Bool),
    ReadsOnce s gd [(a, .w32), (b, .w32)] s1 cu [va, vb] →
    let n := (lo32 vb).toNat
    let k := (s1.core cu.r.die cu.r.core).barrier (cu.cv.barBase + n)
    let count := if a = .none then 1 else (lo32 va).toNat
    let put (s : State) (b : Barrier) := s.putBarrier cu.r.die cu.r.core (cu.cv.barBase + n) b
    let waits (s : State) (token : Word) := s.both cu fun t =>
      { t with status := .barWait cu.iss.addr cu.iss.slot token n, passed := 0 }
    let refused (x : Nat) : Host.Outcome State Fault Refusal :=
      .next (s1.trapPair cu .formatInvalid (BitVec.ofNat 64 x))
    let arrived := put ((s1.touch cu.r (d.names .w32)).both cu fun t =>
        t.writeOpnd d .w32 (k.phase.setWidth 128) false)
      ⟨k.expected, (k.arrived + count) % k.expected,
        k.phase + BitVec.ofNat 32 ((k.arrived + count) / k.expected)⟩
    (cu.cv.barCount ≤ n → exec (.barIni gd a b) s = refused n ∧ exec (.barArr gd d a b) s = refused n
      ∧ exec (.barArw gd d a b) s = refused n ∧ exec (.barWt gd a b) s = refused n)
    ∧ (n < cu.cv.barCount →
      ((lo32 va).toNat ≤ 65535 →
        exec (.barIni gd a b) s = .next (put s1 ⟨(lo32 va).toNat, 0, k.phase⟩))
      ∧ (65535 < (lo32 va).toNat → exec (.barIni gd a b) s = refused (lo32 va).toNat)
      ∧ (count = 0 ∨ 65535 < count →
        exec (.barArr gd d a b) s = refused count ∧ exec (.barArw gd d a b) s = refused count)
      ∧ (0 < count → count ≤ 65535 → k.expected = 0 →
        exec (.barArr gd d a b) s = refused n ∧ exec (.barArw gd d a b) s = refused n)
      ∧ (0 < count → count ≤ 65535 → k.arrived < k.expected → k.expected ≤ 65535 →
        (∀ q ∈ s1.link.reqs, q.thread ≠ cu.r) →
        exec (.barArr gd d a b) s = .next arrived
        ∧ exec (.barArw gd d a b) s
          = .next (if k.expected ≤ k.arrived + count then arrived else waits arrived k.phase))
      ∧ (let ahead := (k.phase - lo32 va).toNat
        exec (.barWt gd a b) s = .next (if 1 ≤ ahead ∧ ahead < 2 ^ 31 then s1 else waits s1 (lo32 va))))
    ∧ (b = immInt imm →
      exec (.barIniImm gd a imm) s = exec (.barIni gd a b) s
      ∧ exec (.barArrImm gd d a imm) s = exec (.barArr gd d a b) s
      ∧ exec (.barArwImm gd d a imm) s = exec (.barArw gd d a b) s
      ∧ exec (.barWtImm gd a imm) s = exec (.barWt gd a b) s)

/-- R381, R382, R386 to R390: cnt.add, cnt.rd, cnt.wt, launch, node.put, node.fl and cancel. What they give for a
launch that still waits in its device-fed ring is the model's reading (log 47), and so are the L1 copies that a
finished cnt.wt drops (log 51). -/
def Obligations.CountersAndLaunches : Prop :=
  ∀ (s s1 : State) (cu : Cur) (gd : Guard) (lv : Level) (d a b : Opnd) (va vb : Quad × Bool),
    let die := cu.r.die
    let unreplayed (s : State) := s.noReplay die cu.cv.launch
    (ReadsOnce s gd [(a, .w32), (b, .w32)] s1 cu [va, vb] →
      let held (n : Nat) := (min (max ((n : Int) + (lo32 vb).toInt) 0) 65535).toNat
      (∀ e, s1.named die cu.cv .launch (lo32 va) = .entries [e] →
        exec (.cntAdd gd a b) s = .next (((unreplayed s1).modEntry die e fun x =>
          if x.state = .retiring then x else { x with hold := held x.hold }).settleEntry die e))
      ∧ (∀ w, s1.named die cu.cv .launch (lo32 va) = .waiting w →
        exec (.cntAdd gd a b) s = .next ((unreplayed s1).modVi die cu.cv.vi fun i => { i with
          queues := i.queues.map fun q => { q with
            waiting := q.waiting.map fun x =>
              if x.number = w.number then { x with hold := held x.hold } else x } }))
      ∧ (s1.named die cu.cv .launch (lo32 va) = .unknown →
        exec (.cntAdd gd a b) s = .next (unreplayed s1)))
    ∧ (ReadsOnce s gd [(a, .w32)] s1 cu [va] →
      let n := s1.named die cu.cv lv (lo32 va)
      exec (.cntRd gd lv d a) s = .next (({ s1 with fresh := s1.fresh + 1 }).writeBoth cu d .w64
        ((s1.counterOf die lv n).setWidth 128))
      ∧ (n.contains cu.cv = true →
        exec (.cntWt gd lv a) s = .next (s1.trapPair cu .formatInvalid ((lo32 va).setWidth 64)))
      ∧ (n.contains cu.cv = false → (s1.counterOf die lv n).getLsbD 63 = true →
        exec (.cntWt gd lv a) s = .next (s1.clearL1 die cu.r.core cu.ctx))
      ∧ (n.contains cu.cv = false → (s1.counterOf die lv n).getLsbD 63 = false →
        exec (.cntWt gd lv a) s = .next (s1.both cu fun t =>
          { t with status := .cntWait cu.iss.addr cu.iss.slot lv (lo32 va), passed := 0 }))
      ∧ ((∀ x ∈ s1.contexts, x.2.waiting = [] ∨ s1.saveReady x.1 = true) →
        exec (.cancel gd lv a) s = .next ((unreplayed s1).cancelNamed die n)))
    ∧ (ReadsOnce s gd [(a, .w128), (b, .w32)] s1 cu [va, vb] →
      let q := (lo32 vb).toNat
      let x := (s1.vi die cu.cv.vi).queues.getD q Queue.reset
      ∀ addr, blockCheck va 64 = .ok addr →
        (8 ≤ q ∨ x.enable = false ∨ x.deviceFed = false →
          exec (.launch gd d a b) s = .next (s1.trapPair cu .formatInvalid (BitVec.ofNat 64 q)))
        ∧ ∀ s2 bs, q < 8 → x.enable = true → x.deviceFed = true →
          (∀ r ∈ s1.link.reqs, r.thread ≠ cu.r) → s1.readHome cu (capSystem va.1) addr 64 = .ok (s2, bs) →
          (∀ s3 number, s2.append die cu.cv.vi q bs = .ok (s3, number) →
            exec (.launch gd d a b) s
              = .next ((unreplayed s3).writeBoth cu d .w32 (number.setWidth 128)))
          ∧ (2 ^ ((s2.vi die cu.cv.vi).queues.getD q Queue.reset).size
              ≤ ((s2.vi die cu.cv.vi).queues.getD q Queue.reset).held →
            exec (.launch gd d a b) s = .next ((unreplayed s2).writeBoth cu d .w32 0xFFFFFFFF)))
    ∧ (ReadsOnce s gd [(a, .w128), (b, .w128)] s1 cu [va, vb] →
      ∀ s2 addr blk src, s1.nodeCheck cu va = .ok (s2, addr, blk) → putCheck vb (tcbSize blk) = .ok src →
        (∀ r ∈ s2.link.reqs, r.thread ≠ cu.r) →
        let answer (s : State) (v : Quad) := (unreplayed s).writeBoth cu d .w32 v
        (s2.nodeAt die cu.ctx addr = none → exec (.nodePut gd d a b) s = .next (answer s2 2))
        ∧ ∀ e, s2.nodeAt die cu.ctx addr = some e →
          (tcbCapacity blk ≤ tcbUnreleased blk → exec (.nodePut gd d a b) s = .next (answer s2 1))
          ∧ ∀ s3 got s4, tcbUnreleased blk < tcbCapacity blk →
            s2.readSpace cu (capSpace vb.1) src (tcbSize blk) (capSystem vb.1) = .ok (s3, got) →
            got.bad = none → s3.putRecord cu e addr blk got.bytes = .ok s4 →
            exec (.nodePut gd d a b) s = .next (answer s4 0))
    ∧ (ReadsOnce s gd [(a, .w128)] s1 cu [va] →
      ∀ s2 addr blk, s1.nodeCheck cu va = .ok (s2, addr, blk) →
        let s3 := unreplayed s2
        (s3.nodeAt die cu.ctx addr = none → exec (.nodeFl gd a) s = .next s3)
        ∧ ∀ e, s3.nodeAt die cu.ctx addr = some e →
          (tcbWaiting blk = 0 → exec (.nodeFl gd a) s = .next s3)
          ∧ (tcbWaiting blk ≠ 0 → s3.freeEntry die = none →
            exec (.nodeFl gd a) s = .next (s3.modEntry die e fun x => { x with flush := true }))
          ∧ ∀ s4 s5 entry, tcbWaiting blk ≠ 0 → s3.freeEntry die = some entry → s3.fire die e = .ok s4 →
            s4.fireNode die e = .ok s5 → exec (.nodeFl gd a) s = .next s5)

/-- R269 to R282, R298, R303, R304, R313, R317, R319, R321: what the completion of each engine operation
leaves, where nothing before its fork is outstanding: its data, its handle with status and count, its
barrier arrival, and its flags. -/
def Obligations.EngineCompletions : Prop :=
  ∀ (s : State) (die : DieId) (core idx : Nat) (c : Cove),
    let k := s.core die core
    let done (s : State) : Host.Outcome State Fault Refusal := .next (s.finishCoves die)
    let moved (s : State) : Host.Outcome State Fault Refusal := done (s.sweepCore die core)
    (∀ op s1 n, k.copies[idx]? = some op → s.cove? op.cove = some c → s.forked op.cove c op.after = true →
      let total := cpTotal op.form op.desc
      let run := State.copyRun (copyEnv c op) total (total + 1) s op.progress
      (run = (s1, n, none) →
        exec (.copyComplete die core idx) s = done (s1.endCopy die core op (handleWord 0 n)))
      ∧ ∀ cause x, run = (s1, n, some (.trap cause x)) →
        exec (.copyComplete die core idx) s = done (s1.endCopy die core op (faultedWord cause n)))
    ∧ (∀ x h rest s1 n, k.rays[idx]? = some x → x.rounds = h :: rest → s.cove? x.cove = some c →
      s.forked x.cove c x.after = true → s.link.draining = false → s.rayRound x.cove c x.record = .ok (s1, n) →
      exec (.rayRoundComplete die core idx) s = done
        (((s1.popRound die core x).completeHandle x.owner (some h) (handleWord 0 n)).count die core c.ctx
          fun k => { k with rayRounds := k.rayRounds + 1 }))
    ∧ (∀ op s1 w, k.searches[idx]? = some op → s.cove? op.cove = some c → s.forked op.cove c op.after = true →
      s.searchResult c op = .ok (s1, w) →
      exec (.meSrchComplete die core idx) s = done
        ((s1.scratchPut die core (c.scratchBase + (op.desc.extractLsb' 96 19).toNat) (leBytes 8 w.toNat)).endSearch
          die core op (handleWord 0 1)))
    ∧ (∀ op s1 rs, k.samples[idx]? = some op → s.cove? op.cove = some c → s.forked op.cove c op.after = true →
      s.sampleResult c op = .ok (s1, rs) →
      exec (.smpComplete die core idx) s = done (s1.endSample die core op rs))
    ∧ (∀ op s1 n fl, k.images[idx]? = some op → s.cove? op.cove = some c → s.forked op.cove c op.after = true →
      (c.stopping = true →
        exec (.imgStComplete die core idx) s = done (s.endImg die core op (handleWord 1 0) 0))
      ∧ (c.stopping = false → s.imgResult c op = .ok (s1, n, fl) →
        exec (.imgStComplete die core idx) s = done (s1.endImg die core op (handleWord 0 n) fl)))
    ∧ (∀ op rest, k.array = op :: rest → s.cove? op.cove = some c → s.forked op.cove c op.after = true →
      let off := c.scratchBase + (op.desc.extractLsb' 64 19).toNat
      let units := (op.desc.extractLsb' 84 10).toNat / 16
      (∀ variant fmt s1 t, op.kind = .mma variant fmt → s.readTiles op c variant fmt.toNat = (s1, some t) →
        exec (.arrayOpComplete die core) s = moved
          ((s1.scratchPut die core off (t.result.flatMap fun x => leBytes 4 x.1)).endArray die core op
            (orAll (t.result.map Prod.snd)) (handleWord 0 units)))
      ∧ (op.kind = .mzero → exec (.arrayOpComplete die core) s = moved
          ((s.scratchPut die core off (List.replicate (256 * (op.desc.extractLsb' 84 10).toNat) 0)).endArray
            die core op 0 (handleWord 0 units)))
      ∧ (∀ n ws, op.kind = .chdef n ws → exec (.chdefApply die core) s = moved
          ((s.modCore die core fun k => { k with chains := aput k.chains n (c.ctx, ws) }).endArray
            die core op 0 0))
      ∧ (∀ n, op.kind = .chrun n →
        exec (.chrunComplete die core) s = moved (s.runChain die core c op n)))

/-- R24, R25, R27, R47, R171, R193, R208, R226, R240, R330: the issue of a clause, the fill of a decoded-op miss,
the arrival of a fault report, the ends of a nap, and each cache's eviction; a shoal is one place in
distinct lanes: that of the starved thread first by passed count, virtual lane and slot, else one with the most
ready threads; in each lane it takes the thread with the highest passed count, and in one that holds a starved
thread only a starved one; and passed counts after an issue. That a miss is fetched with the system right where
a thread that waits for it has it is the model's choice (log 89), as are the evictions (log 12) and what ends a
nap beside its count and a write of its line (log 16). -/
def Obligations.IssueAndCaches : Prop :=
  (∀ (s : State) (xs : List Seat), (∀ x ∈ s.shoalOf xs, x ∈ xs)
    ∧ (s.shoalOf xs).Pairwise (fun x y => x.r.lane < y.r.lane)
    ∧ ∀ x ∈ s.shoalOf xs, ∀ y ∈ s.shoalOf xs, x.place = y.place)
  ∧ (∀ (s : State) (xs : List Seat), (∀ x ∈ xs, s.mate x = none ∧ x.r.lane < 32) → (xs.map (·.r)).Nodup →
    let ms := s.shoalOf xs
    let starved (x : Seat) := 33 ≤ x.t.passed
    let before (x y : Seat) := y.t.passed < x.t.passed ∨ x.t.passed = y.t.passed
      ∧ (x.t.vlane < y.t.vlane ∨ x.t.vlane = y.t.vlane ∧ x.r.slot < y.r.slot)
    let standing (x : Seat) := (xs.filter fun y => y.place == x.place).length
    (xs ≠ [] → ms ≠ [])
    ∧ (∀ x ∈ xs, starved x → (∀ y ∈ xs, starved y → y.r ≠ x.r → before x y) → ∀ m ∈ ms, m.place = x.place)
    ∧ ((∀ x ∈ xs, ¬ starved x) → ∀ m ∈ ms, ∀ y ∈ xs, standing y ≤ standing m)
    ∧ (∀ m ∈ ms, ∀ y ∈ xs, y.r.lane = m.r.lane → starved y → starved m ∧ y.t.passed ≤ m.t.passed)
    ∧ (∀ m ∈ ms, ∀ y ∈ xs, y.r.lane = m.r.lane → y.place = m.place → y.t.passed ≤ m.t.passed
      ∧ (y.t.passed = m.t.passed → ¬ starved m → (m.t.yielded = true → y.t.yielded = true)
        ∧ (m.t.yielded = y.t.yielded → m.r.slot ≤ y.r.slot)))
    ∧ (∀ m ∈ ms, s.keySerial m = true → ms = [m])
    ∧ ((∀ x ∈ xs, s.keySerial x = false) → ∀ m ∈ ms, ∀ y ∈ xs, y.place = m.place →
      (∀ z ∈ xs, z.r.lane = y.r.lane → ¬ starved z) → ∃ z ∈ ms, z.r.lane = y.r.lane)
    ∧ ∀ (us : List Seat) (r : TRef) (t : Thread), s.thread? r = some t →
      let t' := (s.passOver xs us).thread? r
      ((∃ u ∈ us, u.r = r) → t' = some { t with passed := 0, yielded := false })
      ∧ ((∀ u ∈ us, u.r ≠ r) → (∃ x ∈ xs, x.r = r) → (∃ u ∈ us, u.r.lane = r.lane) →
        t' = some { t with passed := min 127 (t.passed + 1) })
      ∧ ((∀ u ∈ us, u.r ≠ r) → (∀ x ∈ xs, x.r = r → ∀ u ∈ us, u.r.lane ≠ r.lane) → t' = some t))
  ∧ ∀ (s s1 : State) (die : DieId) (core pipe idx : Nat) (r : TRef) (t : Thread),
    let k := s.core die core
    (pipe < 2 → exec (.clauseIssue die core pipe) s = .next (s.pipeIssue die core pipe))
    ∧ (∀ ctx key a rest x xs ws, k.dopMisses = (ctx, key, a) :: rest →
      let s0 := s.modCore die core fun y => { y with dopMisses := rest }
      s.frozenAt die core (ctx, key, a) = x :: xs →
      s0.fetchClause ⟨die, some core, ctx, some x.cv.launch, (x :: xs).any fun y => y.cv.system, false⟩
        a.toNat = .ok (s1, ws) →
      exec (.decodedOpMissFill die core) s = .next (s1.fillDop die core ⟨ctx, key, a, ws⟩))
    ∧ (∀ x, (s.reports.find? fun y => y.die == die) = some x →
      exec (.faultReportArrival die) s = .next ({ s with reports := s.reports.erase x }.deliver x))
    ∧ (∀ space line n, s.thread? r = some t → t.status = .napping (.other space) line n → t.due = [] →
      t.stepDue = false → t.latches = [] →
      let woken := s.modThread r fun t => { t with status := .ready, passed := 0 }
      exec (.napCountExpiry r) s = .next woken ∧ exec (.napEarlyEnd r) s = .next woken)
    ∧ (∀ place line n, s.thread? r = some t → t.status = .napping place line n → t.due = [] →
      t.stepDue = false → t.latches = [] → (s.threads.map Prod.fst).Nodup →
      let ready : Thread := { t with status := .ready, passed := 0 }
      (∀ d c, place = .scratch d c →
        exec (.napCountExpiry r) s = .next (s.modThread r fun _ => ready)
        ∧ exec (.napEarlyEnd r) s = .next (s.modThread r fun _ => ready)
        ∧ ∀ a size, (s.wakeScratch d c a size).thread? r
          = some (if a < line + 192 ∧ line < a + size then ready else t))
      ∧ (∀ d ctx, place = .dram d ctx →
        let dropped := s.modCore d r.core fun y => { y with l1 := y.l1.filter fun e =>
          !(e.ctx == ctx && decide (e.start < line + 192) && decide (line < e.start + e.bytes.length)) }
        exec (.napCountExpiry r) s = .next (dropped.modThread r fun _ => ready)
        ∧ exec (.napEarlyEnd r) s = .next (dropped.modThread r fun _ => ready)
        ∧ ∀ home a size, (s.wakeDram home a size).thread? r
          = some (if s.lineTouches ctx line home a size then ready else t)))
    ∧ (∀ cv c window w sector p, s.cove? cv = some c → aget c.windows window = some w →
      (w.parts.find? fun p => p.1 == sector) = some p → s.cleanParts none true cv c window w true [p] = (s1, none) →
      exec (.stashEviction cv window sector) s = .next s1)
    ∧ exec (.l1Eviction die core idx) s
        = .next (s.modCore die core fun k => { k with l1 := k.l1.eraseIdx idx })
    ∧ exec (.decodedOpEviction die core idx) s
        = .next (s.modCore die core fun k => { k with dop := k.dop.eraseIdx idx })
    ∧ (∀ e, k.tlb[idx]? = some e →
      exec (.tlbEviction die core idx) s = .next (s.dropTlb die core e.ctx e.base e.size))
    ∧ (∀ x, (s.die die).replicas[idx]? = some x →
      exec (.replicaInvalidation die idx) s = .next (s.modDie die fun y => { y with
        replicas := y.replicas.filter fun z => !(z == x)
        cores := y.cores.map fun e => (e.1, { e.2 with
          l1 := e.2.l1.filter fun z => !z.touches x.ctx x.start x.size }) }))

/-- R45, R85, R286, R287, R289, R292, R335, R378, R385: a write index with and without overrun, a record read
into a free entry, dispatch of a bind record that fits, retirement and firings; and the registers of a
thread at dispatch. That the written index stands after an overrun is the model's reading (log 46), and one
bind record in each placement pass its choice (log 48). -/
def Obligations.FrontEndAndDispatch : Prop :=
  (∀ cr c crew lane handler,
    let t := newThread cr c crew lane handler
    t.pc = BitVec.ofNat 64 (c.kernel + 8) ∧ t.thandler = handler ∧ t.status = .ready
    ∧ (∀ n, t.reg n = 0) ∧ t.tags = 0 ∧ t.preds = 0 ∧ (∀ n, t.handle n = 0) ∧ t.fstat = 0
    ∧ t.tcause = 0 ∧ t.tstat = 0 ∧ t.tpc = 0 ∧ t.tval = 0)
  ∧ ∀ (s s1 : State) (die : DieId) (vi q core idx e : Nat) (index : BitVec 16) (record : Quad) (x : Entry),
    let old := s.queue die vi q
    let new : Queue := { old with write := index }
    let published := (s.die die).description.isSome = true
    ((s.die die).description = none → exec (.launchQueueWriteIndex die vi q index) s = .next s
      ∧ exec (.frontEndRecordRead die vi q) s = .next s)
    ∧ (published → q < 8 → old.deviceFed = false →
      ((s.setQueue die vi q new).queue die vi q).held ≤ 2 ^ old.size ∨ old.enable = false →
      exec (.launchQueueWriteIndex die vi q index) s = .next (s.setQueue die vi q new))
    ∧ (published → q < 8 → old.deviceFed = false → (s.setQueue die vi q new).queue die vi q = new → old.enable = true →
      2 ^ old.size < new.held →
      exec (.launchQueueWriteIndex die vi q index) s
        = .next (((s.setQueue die vi q new).setQueue die vi q { new with enable := false }).writeRecord die vi []
          ⟨6, 0, BitVec.ofNat 64 q, 0, 0, 0, 0, 0⟩))
    ∧ (published → q < 8 → old.enable = true → 0 < old.held → old.deviceFed = false → s.liveOn die old.ctx = true →
      s.outranked die vi old = false → s.freeEntry die = some e →
      ∀ bs tags s2, s.agentRead (frontAgent die old.ctx) .read (old.slotAt old.read) 64
          = .ok (s1, bs, tags, none) →
        let number := (s1.takeNumber die vi).1
        ((s1.takeNumber die vi).2.setQueue die vi q
          { old with read := old.read + 1, waiting := old.waiting.drop 1 }).takeIn die e
            (newEntry vi old.ctx number (wordsOf 8 bs) q old.priority old.replayable) = .ok s2 →
        exec (.frontEndRecordRead die vi q) s = .next s2)
    ∧ (idx < 32 → s.place die core idx record = .ok s1 →
      exec (.placementPass die core idx record) s
        = .next ((((s1.die die).entries.map Prod.fst).foldl (fun s e => s.passNode die e) s1).retireNodes die))
    ∧ (bindValid record = true → s.cove? ⟨die, core, idx⟩ = none →
      s.entry? die (bindOf record).1 = some x → recBay x.record = 0 →
      let s0 := s.modCore die core fun k => { k with slots := aput k.slots idx record }
      s0.bindFits die core record = true →
      ∀ blocks k, s0.freeBlocks x.ctx (recCrews x.record - 1) = some blocks →
        s0.launchKeys die x = .ok (s1, k) →
        s.place die core idx record = .ok (s1.dispatch ⟨die, core, idx⟩ x record blocks k))
    ∧ (∀ s2, (s.finishCoves die).entry? die e = some x → (s.finishCoves die).canRetire die e x = true →
      (s.finishCoves die).retire die e x = .ok s2 → exec (.launchRetire die e) s = .next s2)
    ∧ exec (.coalesceFire die e) s = .next ((s.passNode die e).retireNodes die)

/-- R349, R360 to R362, R369, R397, R399 to R402: a pre-emption and the acknowledgement of a cove; a restore on a
die; a migration, which a protected context does not make; a checkpoint, which needs a mirror; the writes of its
stream in their order, its commit and the commit's acknowledgement; and the restore of a replay. `finishes` is a
granularity table whose units all finish. What an event that does not apply does, nothing, is the model's choice
(log 75), as is where the parts of a mirror lie (log 20); the ways of the stop, of the restore, of the checkpoint
and of the replay beyond the rules' words are its reading (logs 56, 57, 58 and 66). -/
def Obligations.ContextEvents : Prop :=
  ∀ (s : State) (ctx : Nat) (die : DieId) (places : List Place) (x : Context), s.ctx? ctx = some x →
    let coves := s.coves.filter fun e => e.2.ctx == ctx && e.2.band.isNone
    let left := ∃ e, e ∈ coves ∧ e.2.complete = false ∧ e.2.recorded = none
    let finishes := ∀ p, (s.vi x.die x.vi).granularity.getD p 0 = 0
    let tearing := s.scrubbing x.die ctx = true
    let undocks (die : DieId) := die = .dukor ∧ s.link.draining = true ∧ s.link.mode = .paired
    let put (f : Context → Context) : Host.Outcome State Fault Refusal := .next (s.modCtx ctx f)
    let accepts (die : DieId) (b : List Byte) (vi : Nat) := s.interfaceFor die x = some vi
      ∧ imgRoot b die = true ∧ x.root die ≠ none ∧ ∃ rs es, imageParts b = some rs
      ∧ s.entriesFrom die ctx vi x b = some es ∧ es.length ≤ (s.freeEntries die).length
      ∧ ∀ r, r ∈ rs → sectionOk r.bytes
        (((es.find? fun e => e.number == secLaunch r.bytes).map fun e => kernelRegs e.header).getD 0) = true
    let runs (t : State) (die : DieId) (b : List Byte) (vi : Nat) := ∃ y, t.ctx? ctx = some y
      ∧ y.status = .live ∧ y.die = die ∧ y.vi = vi ∧ y.bindings = bindingsOf b ∧ y.strong = imgStrong b
    -- preemption
    (x.status = .live → tearing → exec (.preemption ctx) s = .next s)
    ∧ (x.status = .live → ¬ tearing → finishes → left →
      exec (.preemption ctx) s = put fun c => { c with status := .stopping, evict := true, ckpt := none })
    ∧ (x.status = .stopping → ¬ tearing → left →
      exec (.preemption ctx) s = put fun c => { c with evict := true })
    ∧ (x.status ≠ .live → x.status ≠ .stopping → exec (.preemption ctx) s = .next s)
    ∧ (x.status = .stopping → ¬ tearing → x.evict = true → x.ckpt = none → x.asked = false →
      (∀ e, e ∈ coves → e.2.complete = false ∧ e.2.recorded ≠ none) →
      (∀ t, t ∈ s.link.transfers → t.ctx ≠ ctx) → ∀ s2, s.writeImage ctx x 0 = .ok s2 →
      ∃ t, exec (.preemption ctx) s = .next t ∧ (∀ y, t.ctx? ctx = some y → y.status = .preempted)
        ∧ ∀ cv c, t.cove? cv = some c → c.ctx = ctx → c.band = none → cv.die ≠ x.die)
    -- preemptAckComplete
    ∧ (∀ cv c, s.cove? cv = some c → c.ctx = ctx →
      (c.complete = true → x.status ≠ .stopping → exec (.preemptAckComplete cv) s = .next s)
      ∧ (x.status = .stopping → x.askers = [] → c.complete = false → c.recorded = none → c.stopping = false →
        c.windows = [] → s.covePending cv c ≠ 0 → (∀ i cr, s.crew? cv i = some cr → cr.isSerial = false) →
        (∀ e, e ∈ s.threads → e.2.cove = cv → s.inIssue e.1 = false ∧ e.2.held = false ∧ e.2.entry = none
          ∧ e.2.exiting = false ∧ (∀ t p l n, s.thread? e.1 = some t → t.status ≠ .napping p l n)
          ∧ ∀ q, q ∈ s.link.reqs → q.thread ≠ e.1) →
        (∀ q, q ∈ s.link.reqs → q.die ≠ cv.die) →
        s.upsets = [] → (s.core cv.die cv.core).badSectors = [] → (∀ y, y ∈ s.reports → y.die ≠ cv.die) → (∀ t, t ∈ s.link.transfers → t.ctx ≠ ctx) →
        (let k := s.core cv.die cv.core
         k.copies = [] ∧ k.array = [] ∧ k.searches = [] ∧ k.samples = [] ∧ k.images = [] ∧ k.rays = []) →
        (∃ e, e ∈ coves ∧ e.1 ≠ cv ∧ e.2.complete = false ∧ e.2.recorded = none) →
        exec (.preemptAckComplete cv) s = .next (s.modCove cv fun z =>
          { z with recorded := some (s.coveSection cv c (s.launchNumber cv c)) })))
    -- restore
    ∧ (undocks die → x.keySlot = none → exec (.restore ctx die places) s = .next s)
    ∧ (x.status = .preempted → ¬ (undocks die ∧ x.keySlot = none) → ∀ b tags,
        s.readImage' ctx x = some (b, tags) →
      (∀ vi, accepts die b vi → ∃ t, exec (.restore ctx die places) s = .next t ∧ runs t die b vi)
      ∧ (imageParts b = none ∨ imgRoot b die = false ∨ x.root die = none ∨ s.interfaceFor die x = none →
        exec (.restore ctx die places) s = .next s))
    ∧ (x.status = .stopping ∨ x.status = .suspended ∨ x.status = .lost →
      exec (.restore ctx die places) s = .next s)
    -- migration
    ∧ (x.keySlot ≠ none ∨ s.link.mode ≠ .paired ∨ undocks (otherDie x.die) →
      exec (.migration ctx places) s = .next s)
    ∧ (x.keySlot = none → s.link.mode = .paired → ¬ undocks (otherDie x.die) →
      (x.status = .live → ¬ tearing → finishes → left →
        exec (.migration ctx places) s = put fun c => { c with status := .stopping, evict := true, ckpt := none })
      ∧ (x.status = .preempted → ∀ b tags, s.readImage' ctx x = some (b, tags) →
        (∀ vi, x.die = .dukor → accepts .craren b vi →
          ∃ t, exec (.migration ctx places) s = .next t ∧ runs t .craren b vi)
        ∧ (∀ t, x.die = .craren → (s.leaveCraren ctx (b, tags)).restoreImage ctx .dukor b places = some t →
          exec (.migration ctx places) s = .next t)))
    -- checkpoint
    ∧ (x.mirror = none → exec (.checkpoint ctx) s = .next s)
    ∧ (x.mirror ≠ none → x.stream ≠ none → exec (.checkpoint ctx) s = put fun c => { c with asked := true })
    ∧ (x.mirror ≠ none → x.stream = none → left →
      (x.status = .live → ¬ tearing → finishes → exec (.checkpoint ctx) s = put fun c =>
        { c with status := .stopping, evict := false, ckpt := some (x.recorded + 1) })
      ∧ (x.status = .stopping → ¬ tearing → exec (.checkpoint ctx) s = put fun c =>
        { c with ckpt := some (c.ckpt.getD (x.recorded + 1)) }))
    -- checkpointStream, commitRecordWrite, commitAck
    ∧ (∀ m t, x.mirror = some m → x.stream = some t → s.link.mode = (if m.host then .laptop else .paired) →
      let slot := m.base + 64 * (t.n % 2)
      let go (s : State) (u : Option CkptStream) : Host.Outcome State Fault Refusal :=
        .next (s.modCtx ctx fun c => { c with stream := u })
      (∀ va rest, t.granules = va :: rest →
        (s.mirrorEntry m va = none → exec (.checkpointStream ctx) s = go s none)
        ∧ ∀ i s1 r, s.mirrorEntry m va = some i → s.versionOf ctx va t.n = (s1, r) →
          (∀ bs tags, r = .ok (bs, tags) → exec (.checkpointStream ctx) s = go
            (((s1.mirPut m (m.base + s.mirrorSlot m i + (if s.committedBit m i then 0 else 65536)) bs tags).mirPut
              m (m.base + 128 + 16 * i) (leBytes 8 (va + 1)) []).dropVersion .dukor ctx va t.n)
            (some { t with granules := rest, written := t.written ++ [va] }))
          ∧ (r = .error .hold → exec (.checkpointStream ctx) s = .next s1)
          ∧ (∀ x, r = .error (.trap .uncorrectable x) → exec (.checkpointStream ctx) s = go s1 none))
      ∧ (∀ im, t.granules = [] → t.image = some im →
        exec (.checkpointStream ctx) s = if m.imageRoom < im.1.length then go s none
          else go (s.mirPut m (m.base + m.imageAt (t.n % 2)) im.1 im.2) (some { t with image := none }))
      ∧ (t.granules = [] → t.image = none → t.recordDone = false →
        exec (.checkpointStream ctx) s = go
          ((s.mirPut m (m.base + m.bitmapAt (t.n % 2)) (s.streamBitmap m t) []).mirPut m slot
            ([2 ^ 48 + t.n % 2 ^ 32, m.imageAt (t.n % 2), t.units * 2 ^ 32, m.bitmapAt (t.n % 2),
              s.mirrorInUse m * 2 ^ 32, 0, 0].flatMap (leBytes 8)) [])
          (some { t with recordDone := true }))
      ∧ (t.granules = [] → t.image = none → t.recordDone = true →
        exec (.checkpointStream ctx) s = if m.host then go s (some { t with fenced := true }) else .next s)
      ∧ (t.recordDone = true → m.host = true → t.fenced = false → exec (.commitRecordWrite ctx) s = .next s)
      ∧ (t.recordDone = true → (m.host = true → t.fenced = true) →
        exec (.commitRecordWrite ctx) s = .next
          (((s.mirPut m (slot + 56) (leBytes 8 (t.n % 2 ^ 32 * 2 ^ 32)) []).releaseVersions ctx t.n
            t.written).modCtx ctx fun c => { c with left := if c.leftMark < t.n then none else c.left })
        ∧ (leNat (s.mirBytes m slot 8) / 2 ^ 48 = 1 → leNat (s.mirBytes m slot 8) % 2 ^ 32 = t.n →
          leNat (s.mirBytes m (slot + 56) 8) / 2 ^ 32 = t.n →
          exec (.commitAck ctx) s = put fun c => { c with committed := t.n, stream := none })))
    -- replayRestore
    ∧ (∀ e y, s.entry? die e = some y → y.ctx = ctx →
      (y.state ≠ .replaying ∨ s.launchIdle die e = false → exec (.replayRestore die e) s = .next s)
      ∧ (y.state = .replaying → s.launchIdle die e = true → (y.failures.tail.contains (y.failures.headD
          (.core die 0)) = false) →
        (4 ≤ y.failures.length → ∃ t, exec (.replayRestore die e) s = .next t
          ∧ ∀ z, t.entry? die e = some z → z.state = .retiring ∧ z.placed = 0 ∧ z.unplaced = [])
        ∧ (y.failures.length < 4 →
          (∀ k z, (k, z) ∈ (s.die die).entries → k ≠ e → z.ctx = ctx → ∀ g, g ∈ y.written → ¬ g ∈ z.written) →
          (∀ p, p ∈ s.craren.pool ++ s.dukor.pool → p.ctx = ctx → p.launch ≠ some e) →
          ∃ t, exec (.replayRestore die e) s = .next t
            ∧ (∀ z, t.entry? die e = some z → z.state = .ready ∧ z.placed = 0 ∧ z.written = []
              ∧ z.unplaced = (List.range (recCoves z.record)).filter fun i => !z.cut.contains i)
            ∧ ((∀ c, c ∈ s.coves → c.1.die = die → c.2.launch = e →
              let k := s.core die c.1.core
              c.2.spillBlocks = [] ∧ k.copies = [] ∧ k.rays = [] ∧ k.searches = [] ∧ k.images = []) →
              ∀ cv c, t.cove? cv = some c → cv.die = die → c.launch ≠ e))))

/-- R230, R231, R234, R394, R395, R410: the requests that cross the link, from their service at the home to
their end; the three messages of an ownership transfer; and a packet's lines. -/
def Obligations.LinkTraffic : Prop :=
  ∀ (s s1 : State) (die : DieId) (ctx va pa lines id : Nat) (payload : List Byte) (data : Quad) (q : Req)
    (t : Transfer),
    (s.req id = some q →
      (q.phase = .queued → q.space ≠ 5 → s.link.mode = .paired → s.blocked q = false →
        (s.link.inbound (otherDie q.die)).contains q = true →
        s.serve q = some (.ok s1) → exec (.forwardedAccess id) s = .next s1)
      ∧ (q.posted = true → q.phase = .performed → q.space ≠ 5 →
        (q.wait = false →
          exec (.peerWriteAcknowledgement id) s = .next ((s.dropReq q).finishCoves q.die))
        ∧ (q.wait = true → exec (.peerWriteAcknowledgement id) s
          = .next (s.setReq { q with phase := .done, data := 0, tag := false })))
      ∧ (q.posted = false → q.space ≠ 5 → q.phase = .performed →
        ∀ failed, exec (.nonpostedCompletion id failed data) s = .next (s.endReq q q.data q.tag))
      ∧ (q.posted = false → q.space = 5 → q.phase = .queued →
        exec (.nonpostedCompletion id false data) s
          = .next (s.endReq q (BitVec.ofNat 128 (data.toNat % 2 ^ (8 * q.size))) false)
        ∧ ∀ d tag, q.kind = .load d tag → exec (.nonpostedCompletion id true data) s
          = .next (s.failReq q .loadFault (BitVec.ofNat 64 q.va)))
      ∧ (q.posted = true → q.space = 5 → q.phase = .queued → s.blocked q = false →
        (q.die = .dukor → exec (.linkReceipt id) s = .next ((s.dropReq q).wakeOthers.finishCoves q.die))
        ∧ (q.die = .craren →
          exec (.hostWriteAck id false) s = .next ((s.dropReq q).wakeOthers.finishCoves q.die)
          ∧ exec (.hostWriteAck id true) s = .next (s.failReq q .storeFault (BitVec.ofNat 64 q.va)))))
    ∧ (s.link.mode = .paired → s.transferOf die ctx va = none → ∀ l y,
      s.placeOn die ctx va = .ok l → l.y = some y →
      exec (.transferRequest die ctx va) s = .next (s.requestTransfer die ctx va l.x y))
    ∧ (s.link.mode = .paired → s.transferOf die ctx va = some t →
      (∀ x y, t.step = 0 → s.walk die ctx .write t.va = .ok x → s.walk (otherDie die) ctx .write t.va = .ok y →
        let s2 := (s.sendGranule die ctx x y t.va).setDir (otherDie die) y.pa .transfer
        exec (.transferData die ctx va) s = .next { s2 with link := { s2.link with
          transfers := s2.link.transfers.map fun k => if k = t then { t with step := 1 } else k } })
      ∧ (t.step = 1 →
        let s2 := (s.setDir (otherDie die) t.oldPa .peer).modDie (otherDie die) fun k =>
          k.loseReplicas none fun r => r.touches ctx (granuleOf va * granuleSize) granuleSize
        exec (.transferAck die ctx va) s
          = .next { s2 with link := { s2.link with transfers := s2.link.transfers.erase t } }))
    ∧ (s.link.mode = .paired → pa % 192 = 0 → pa + 192 * lines ≤ Config.dramBytes die →
      payload.length % 4 = 0 →
      (∀ ls, unpackLines lines payload = some ls →
        exec (.packetReceive die pa lines payload) s = .next (s.putLines die pa ls))
      ∧ (unpackLines lines payload = none →
        exec (.packetReceive die pa lines payload) s = .next s.removeLink))

/-- R410: a line packed and unpacked is the line, with its tags, and what follows it is left. -/
def Obligations.LinePacking : Prop :=
  ∀ (bs : List Byte) (tags : List Bool) (rest : List Byte), bs.length = 192 → tags.length = 12 →
    unpackLine (packLine bs tags ++ rest) = some (bs, tags, rest)

/-- R15, R295, R296, R398, R401 to R408: the link comes up with a peer or a host; a requested undock begins and
ends; the link's loss ends what was on it, cuts the directories and suspends the docked contexts; and a
suspended context is restored from its commit, or lost where it has none. That an event which does not apply
changes nothing is the model's choice (log 75), and which contexts are docked and suspended and when a drain has
come to its end its reading (logs 59 and 64). -/
def Obligations.DockAndUndock : Prop :=
  ∀ (s : State) (ctx : Nat) (places : List Place) (undock : List (Nat × List Place)) (partner : Partner),
    let heads := s.craren.heads ++ s.dukor.heads
    let lost := ∃ k o, k ∈ s.craren.cores ++ s.dukor.cores ∧ o ∈ k.2.copies ∧ s.copyLost o = true
    let headOff := s.link.mode = .paired → (s.head .craren 2).enabled = false
    let shown := ∃ h, h ∈ s.craren.heads ∧ s.craren.displayOf h.2 = some ctx
      ∨ h ∈ s.dukor.heads ∧ s.dukor.displayOf h.2 = some ctx
    -- linkUp
    (s.link.mode ≠ .down ∨ s.dukor.power ≠ .d0 → exec (.linkUp partner) s = .next s)
    ∧ (s.link.mode = .down → s.dukor.power = .d0 →
      exec (.linkUp .host) s = .next { s with link := { s.link with mode := .laptop } }
      ∧ (s.craren.power ≠ .d0 → exec (.linkUp .peer) s = .next s)
      ∧ (s.craren.power = .d0 →
        let s1 := s.modDie .dukor fun x => { x with
          directory := x.directory.map fun e => (e.1, if e.2 = .absent then .peer else e.2) }
        exec (.linkUp .peer) s = .next { s1 with link := { s1.link with mode := .paired } }))
    -- requestedUndock
    ∧ (s.link.mode = .down ∨ s.link.draining = true → exec (.requestedUndock undock) s = .next s)
    ∧ (s.link.mode ≠ .down → s.link.draining = false →
      let s1 : State := { s with link := { s.link with
        draining := true, drainFrom := s.link.nextId + 1, nextId := s.link.nextId + 1, undock := undock } }
      let s2 := if s.link.mode = .paired ∧ (s.head .craren 2).enabled = true then
          s1.modHead .craren 2 fun h => { h with stopping := true } else s1
      (∀ x, s.link.mode = .paired → s.contexts = [(ctx, x)] → x.die = .dukor → x.keySlot = none →
        x.status = .live → ¬ shown → s.scrubbing .dukor ctx = false →
        (∀ p, (s.vi .dukor x.vi).granularity.getD p 0 = 0) →
        (∃ e, e ∈ s.coves ∧ e.2.ctx = ctx ∧ e.2.band = none ∧ e.2.complete = false ∧ e.2.recorded = none) →
        exec (.requestedUndock undock) s = .next (s2.modCtx ctx fun c =>
          { c with status := .stopping, evict := true, ckpt := none }))
      ∧ (s.link.mode = .laptop ∨ (∀ e, e ∈ s.contexts → e.2.die = .craren ∨ e.2.keySlot ≠ none
          ∨ e.2.status = .lost ∨ e.2.status = .suspended) →
        exec (.requestedUndock undock) s = .next s2))
    -- undockDrainComplete
    ∧ (s.link.draining = false → exec .undockDrainComplete s = .next s)
    ∧ (let idle := (∀ q, q ∈ s.link.reqs → q.open = true → q.space = 5 ∧ q.die = .craren)
        ∧ s.link.transfers = [] ∧ ¬ lost ∧ headOff
        ∧ (∀ k, k ∈ s.craren.cores ++ s.dukor.cores → k.2.crosses s.link.drainFrom = false) ∧ ∀ h, h ∈ heads → h.2.inbound = [] ∧ h.2.sends = []
      s.link.draining = true →
      (∀ e, e ∈ s.contexts → e.2.stream = none
        ∧ (s.link.mode = .paired → e.2.die = .craren ∧ s.homedOn .dukor e.1 = false)
        ∧ ∀ g, g ∈ s.mapped .craren e.1 → s.dirOf .craren g.2.1 ≠ .peer) →
      (idle →
        let s1 := (s.cutDirectory .craren).cutDirectory .dukor
        exec .undockDrainComplete s
          = .next { s1 with link := { s1.link with mode := .down, draining := false, undock := [] } })
      ∧ (¬ idle → exec .undockDrainComplete s = .next s))
    -- surpriseRemoval
    ∧ (s.link.mode = .down → exec .surpriseRemoval s = .next s)
    ∧ (s.link.mode ≠ .down → ∃ t, exec .surpriseRemoval s = .next t ∧ t.link.mode = .down
      ∧ t.link.draining = false ∧ t.link.undock = [] ∧ t.craren.replicas = [] ∧ t.dukor.replicas = []
      ∧ ((∀ q, q ∈ s.link.reqs → q.onLink = false) → ¬ lost → headOff →
        t.link.transfers = []
        ∧ (∀ pa, (s.dirOf .craren pa = .home → t.dirOf .craren pa = .home)
          ∧ (s.dirOf .craren pa = .peer ∨ s.dirOf .craren pa = .absent → t.dirOf .craren pa = .absent)
          ∧ ∀ k, s.link.transfers = [k] → s.dirOf .craren pa = .transfer →
            (k.requester = .craren → granuleOf k.newPa = granuleOf pa → t.dirOf .craren pa = .absent)
            ∧ (k.requester = .dukor → granuleOf k.oldPa = granuleOf pa → t.dirOf .craren pa = .home))
        ∧ ∀ x, s.ctx? ctx = some x →
          (x.keySlot ≠ none → t.ctx? ctx = some x)
          ∧ (x.keySlot = none → ¬ shown →
            x.die = .dukor ∨ s.link.mode = .paired ∧ s.homedOn .dukor ctx = true →
            ∃ y, t.ctx? ctx = some y ∧ y.status = .suspended ∧ y.rootDukor = none)))
    -- surpriseRecovery
    ∧ (∀ x, s.ctx? ctx = some x →
      (x.status ≠ .suspended ∨ s.suspensionAcked ctx = false ∨ x.onHost = true ∧ s.link.mode ≠ .laptop →
        exec (.surpriseRecovery ctx places) s = .next s)
      ∧ (x.status = .suspended → s.suspensionAcked ctx = true → (x.onHost = true → s.link.mode = .laptop) →
        (x.left = none → (∀ m, x.mirror = some m → s.committed m = none) →
          ∃ t y, exec (.surpriseRecovery ctx places) s = .next t ∧ t.ctx? ctx = some y ∧ y.status = .lost
            ∧ y.rootCraren = none ∧ y.rootDukor = none)
        ∧ ∀ b n d root s2, s.recoveryImage x = some (b, n) → x.recoveryRoot = some (d, root) →
          ((s.beginRecovery d ctx).restoreGranules d ctx n x).restoreImage ctx d
            (if x.onHost then imageWithRoot d root b else b) places = some s2 →
          exec (.surpriseRecovery ctx places) s = .next ((s2.rewindQueues ctx n b x).modDie .craren fun k => { k with
            pool := k.pool.filter fun p => p.ctx != ctx || p.launch.isSome })))
    ∧ (∀ m, let word (k i : Nat) := leNat (s.mirBytes m (m.base + 64 * k + 8 * i) 8)
      let valid (k n : Nat) := word k 0 / 2 ^ 48 = 1 ∧ word k 0 % 2 ^ 32 = n ∧ word k 7 / 2 ^ 32 = n
      (s.committed m = none ↔ ∀ n, ¬ valid 0 n ∧ ¬ valid 1 n)
      ∧ ∀ k n, s.committed m = some (k, n) → k < 2 ∧ valid k n ∧ ∀ j l, j < 2 → valid j l → l ≤ n)

/-- R412 to R426: the line counter, its wrap, band launches, guard lines, fills and the relay of a head; the
writes of HCTL and HSTAT and the read of HQUEUE. That the other fields of HCTL take effect at once is the model's
choice (log 112), and the order of what falls due with a line its reading (log 61). -/
def Obligations.ScanOut : Prop :=
  ∀ (s : State) (die : DieId) (n : Nat) (v : DWord),
    let h := s.head die n
    let put (f : Head → Head) : Host.Outcome State Fault Refusal := .next (s.modHead die n f)
    (h.enabled = true → h.launchDue = false → h.guardDue = false → h.stopping = false →
      (h.line + 1 < h.total →
        exec (.lineAdvance die n) s = put fun h => { h.endBand with line := h.line + 1 }.scan)
      ∧ (h.total ≤ h.line + 1 → h.newGeo = none → h.newAddrs = List.replicate 7 none →
        exec (.lineAdvance die n) s = put fun h => h.endBand.wrap.scan))
    ∧ (h.wrap.line = 0 ∧ h.wrap.frame = h.frame + 1)
    ∧ (∀ s1, h.launchDue = true → s.bandLaunch die n = .ok s1 → exec (.bandLaunch die n) s = .next s1)
    ∧ (∀ s1, h.guardDue = true →
      (s.guardLine die n = .ok s1 → exec (.guardLine die n) s = .next s1)
      ∧ (s.guardLine die n = .error .hold → exec (.guardLine die n) s = .next s))
    ∧ (∀ s1, h.enabled = true →
      (s.fillLine die n = .ok s1 → exec (.fallbackFill die n) s = .next s1)
      ∧ (s.fillLine die n = .error .hold → exec (.fallbackFill die n) s = .next s))
    ∧ (∀ q b f rest r, die = .craren → n = 2 → s.link.mode = .paired → h.enabled = true →
      h.sends = (q, b, f) :: rest → s.relayHead = some r → (s.head .dukor r).inbound.length + 16 ≤ 64 →
      exec (.relayBandSend die n) s = .next ((s.modHead die n fun h => { h with sends := rest }).modHead
        .dukor r fun k => { k with inbound := k.inbound ++ (List.range 16).map (h.packet q b f) }))
    ∧ (∀ x rest, h.inbound = x :: rest → h.enabled = true → h.relay = true →
      exec (.relayBandArrival die n) s = put fun k => ({ k with inbound := rest }).arrive x)
    ∧ (1 ≤ n → n ≤ Config.heads die →
      exec (.hstatWrite die n v) s = put (fun h => { h with stat := h.stat &&& ~~~ (v.extractLsb' 0 5) })
      ∧ exec (.hqueueRead die n) s = put (fun h => { h with queue := h.queue.drop 1 })
      ∧ (let kept := v &&& 0xFFFF0D
        let leaves := die = .craren ∧ n = 2 ∧ s.link.draining = true ∧ s.link.mode = .paired
        let on := v.getLsbD 0
        (h.enabled = false → on = false → exec (.hctlWrite die n v) s = put fun h => { h with ctl := kept })
        ∧ (h.enabled = false → on = true → s.enableOk die n h v = false →
          exec (.hctlWrite die n v) s = put fun h =>
            { h with stat := bitPut h.stat 4 true, ctl := kept &&& ~~~ (1 : DWord) })
        ∧ (h.enabled = false → on = true → s.enableOk die n h v = true →
          exec (.hctlWrite die n v) s
            = .next ((s.modHead die n fun h => { h.start v with stopping := decide leaves }).writeRecords die n)
          ∧ (h.start v).ctl = kept ∧ (h.start v).line = h.height ∧ (h.start v).frame = 0)
        ∧ (h.enabled = true → s.enableOk die n h v = true → exec (.hctlWrite die n v) s = put fun h =>
            { h with ctl := kept ||| 1, stopping := !on || decide leaves })
        ∧ (h.enabled = true → s.enableOk die n h v = false → exec (.hctlWrite die n v) s = put fun h =>
            { h with stat := bitPut h.stat 4 true, stopping := h.stopping || (!on || decide leaves) })))
    ∧ (s.enableOk die n h v = true ↔
      let fits (geo : DWord) : Prop :=
        let T := (geo.extractLsb' 48 16).toNat
        let H := (geo.extractLsb' 32 16).toNat
        let W := (geo.extractLsb' 16 16).toNat
        let G := (v.extractLsb' 8 8).toNat
        let L := (v.extractLsb' 16 8).toNat
        W % 16 = 0 ∧ H % 16 = 0 ∧ 16 ≤ W ∧ W ≤ 8192 ∧ 16 ≤ H ∧ H ≤ 8192 ∧ H + 16 ≤ T ∧ G + L < T
          ∧ 2 ≤ G ∧ G ≤ 64 ∧ L ≤ 48
      fits h.geo ∧ (∀ g, h.newGeo = some g → fits g) ∧ (∀ a ∈ h.addrs, a.extractLsb' 55 9 = 0)
        ∧ (v.getLsbD 2 = true → die = .dukor ∧ s.link.mode = .paired
          ∧ ∀ e ∈ s.dukor.heads, e.1 ≠ n → e.2.enabled = true → e.2.relay = false))

/-- R12, R337, R355, R413, R428, R434 to R441: firmware and device events: interfaces, contexts and device
registers, resets and wipes, life cycle, boot, description, measurement, attestation, snapshots, power
states and clocks. What reset, a life-cycle change and the return from off leave is the model's choice (log 7), as
are the bytes of a digest and which component extends which register (log 23), the places of the pieces of a
report (log 41), and the registers that set the snapshot pool's size (log 9), a head's interface and an
interface's display context (log 63) and the records that trigger a snapshot (log 71). -/
def Obligations.DeviceEvents : Prop :=
  ∀ (s s1 : State) (d : DieId) (vi ctx n : Nat) (v : Quad),
    let x := s.die d
    let put (f : Die → Die) : Host.Outcome State Fault Refusal := .next (s.modDie d f)
    (vi < Config.interfaces d → x.power = .d0 → ∀ system,
      exec (.virtualInterfaceCreate d vi system) s = .next ((s.modVi d vi fun i =>
        if i.created then i else { i with created := true, system := system }).republish d))
    ∧ (∀ (p : Fin 4) (w : BitVec 16), exec (.granularityTableWrite d vi p w) s
        = .next (s.modVi d vi fun i => { i with granularity := i.granularity.set p.val (w &&& 0xF) }))
    ∧ (∀ spec : CtxSpec, s.ctx? ctx = none → ctx < 4096 → x.power = .d0 → spec.root % 65536 = 0 →
      spec.root + 65536 ≤ Config.dramBytes d → saveFits spec = true → (s.vi d spec.vi).created = true →
      s.unblocked d spec = true →
      let made : State := { s with contexts := aput s.contexts ctx (newContext d spec) }
      (spec.protectedSlot = none →
        exec (.contextCreate d ctx spec) s = .next ((made.layOutHost ctx).republish d))
      ∧ ∀ k, spec.protectedSlot = some k → k < Config.keySlots d → (x.keySlot k).state = .free →
        exec (.contextCreate d ctx spec) s = .next (((made.fillSlot d k ctx).layOutHost ctx).republish d))
    ∧ ((s.vi d vi).created = true →
      (n < 8 → exec (.registerWrite d (.launchQueue vi n ctx) v) s
        = .next (s.writeLaunchQueue d vi n ctx v))
      ∧ exec (.registerWrite d (.faultQueue vi ctx) v) s
        = .next (s.modVi d vi fun i => { i with faults := descriptorOf true ctx v i.faults })
      ∧ exec (.registerWrite d (.debugPolicy vi) v) s
        = .next (s.modVi d vi fun i => { i with debugWord := (v.extractLsb' 0 2).setWidth 32 }))
    ∧ ((s.vi d vi).created = true → exec (.registerWrite d (.displayContext vi ctx) v) s
        = .next (s.modVi d vi fun i => { i with display := some ctx }))
    ∧ (1 ≤ n → n ≤ Config.heads d →
      ((s.vi d vi).created = true → exec (.registerWrite d (.headInterface n vi) v) s
        = .next (s.modHead d n fun h => { h with vi := some vi }))
      ∧ ∀ offset, exec (.registerWrite d (.head n offset) v) s
        = .next (s.writeHeadReg d n offset (v.setWidth 64)))
    ∧ (x.description = none → x.pool = [] → (v.extractLsb' 0 32).toNat * 65536 ≤ Config.mappable d →
      exec (.registerWrite d .snapshotPool v) s
        = put fun x => { x with poolGranules := (v.extractLsb' 0 32).toNat })
    ∧ exec (.registerWrite d .snapshotKinds v) s
      = put (fun x => { x with faultKinds := (v.extractLsb' 0 8).toNat })
    ∧ (∀ (pa : Nat) (bytes : List Byte), pa + bytes.length ≤ Config.dramBytes d →
      (∀ p ∈ granuleParts pa bytes.length, s.dirOf d p.1 ≠ .transfer) → x.cipher = [] →
      exec (.hostAccess d pa bytes) s = .next ((granuleParts pa bytes.length).foldl
        (fun s p => s.dropReplicas none d p.1 p.2) ((s.modDie d fun x => { x with
          dram := memPut x.dram pa bytes, tags := tagClear x.tags pa bytes.length }).wakeDram d pa bytes.length)))
    ∧ exec (.scrubStep d) s = .next (s.scrubStep d)
    ∧ (x.scrub = none → s.slotsOf d vi = [] → exec (.virtualInterfaceReset d vi) s
        = .next ((s.modVi d vi fun i => { i with resetting := true }).modVi d vi fun i => { i with
          queues := List.replicate 8 Queue.reset, faults := Queue.reset, granularity := [0, 0, 0, 0]
          resetting := false }))
    ∧ exec (.deviceReset d) s = .next (s.boot d)
    ∧ (∀ l, (lifeOrder x.lifeCycle < lifeOrder l → exec (.lifeCycleChange d l) s
          = .next ((s.modDie d fun x => { x with lifeCycle := l }).boot d))
        ∧ (lifeOrder l ≤ lifeOrder x.lifeCycle → exec (.lifeCycleChange d l) s = .next s))
    ∧ (∀ image signature version, exec (.powerGood d image signature version) s
        = .next ((s.modDie d fun x => { x with flash := some (image, signature, version) }).boot d))
    ∧ (∀ image signature version, x.flash = some (image, signature, version) →
      let failure := if image = [] then 4
        else if x.lifeCycle = .retired
          ∨ Config.verifySignature d (lifeOrder x.lifeCycle) (sha3 image) signature = false then 6
        else if version < Config.minSecurityVersion d then 7 else 0
      (failure = 0 →
        let m := extend 0 image
        let key := Config.publicKey (Config.identitySeed d m)
        s.boot d = (s.wipe d .d0).modDie d fun x => { x with
          measures := x.measures.set 0 m, identity := Config.identitySeed d m, publicKey := key
          certificate := Config.certify d key, version := version })
      ∧ (failure ≠ 0 → s.boot d = s.wipe d (.rom failure)))
    ∧ (x.flash = none → s.boot d = s.wipe d (.rom 4))
    ∧ (x.power = .d0 → ∃ y : Description,
      exec (.deviceDescriptionPublish d) s = put (fun x => { x with description := some y })
      ∧ y.die = d ∧ y.cores = Config.cores d ∧ y.clusters = Config.clusters d
      ∧ y.interfaces = Config.interfaces d ∧ y.keySlots = Config.keySlots d
      ∧ y.l2Slices = Config.l2Slices d ∧ y.l2Bytes = Config.l2Slices d * Config.l2SliceBytes
      ∧ y.dram = Config.dramBytes d ∧ y.channels = Config.dramChannels d
      ∧ y.scanEngines = Config.scanEngines ∧ y.heads.length = Config.heads d
      ∧ y.linkPorts = Config.linkPorts ∧ y.snapshotBytes = x.poolGranules * 65536
      ∧ (∀ r ∈ y.reports, (s.vi d r.number).created = true ∧ r.system = (s.vi d r.number).system)
      ∧ y.lost = (s.contexts.filter fun c => c.2.status == .lost).map Prod.fst)
    ∧ (∀ (r : Fin 8) component,
      (r ≠ 0 → x.power = .d0 → exec (.measurementExtend d r component) s = put fun x =>
        let m := sha3 (digestBytes (x.measures.getD r.val 0) ++ digestBytes (sha3 component))
        { x with measures := x.measures.set r.val m })
      ∧ (r = 0 ∨ x.power ≠ .d0 → exec (.measurementExtend d r component) s = .next s))
    ∧ (∀ nonce, x.power = .d0 → (s.vi d vi).created = true →
      exec (.attestationRequest d vi nonce) s = put fun x =>
        let bytes := x.reportBytes d nonce
        { x with report := some (vi, bytes ++ Config.signReport x.identity bytes) })
    ∧ (∀ seq, ∃ y, exec (.snapshotTrigger d seq) s = .next (s.modDie d fun _ => y)
      ∧ (∀ b ∈ blocks d, b ∉ x.spent → (b, seq) ∉ x.seen →
        aget y.latched b = some ⟨seq, s.controlOf d b⟩ ∧ b ∈ y.spent ∧ (b, seq) ∈ y.seen)
      ∧ ∀ b, b ∈ x.spent ∨ (b, seq) ∈ x.seen → aget y.latched b = aget x.latched b)
    ∧ (∀ b, exec (.snapshotRearm d b) s = put fun x => { x with spent := x.spent.erase b })
    ∧ (x.power = .d0 → (∀ h ∈ x.heads, h.2.enabled = false) →
      ((∀ c ∈ s.contexts, c.2.status ≠ .live ∧ c.2.status ≠ .stopping) →
        exec (.d3Entry d true) s = .next (s.wipe d .off)
        ∧ exec (.d3Entry d false) s = put fun x => { x with power := .d3 })
      ∧ (s.stopContexts d = .ok s1 → ∀ cold, exec (.d3Entry d cold) s = .next
        (if s1.contextsQuiet d = false then s1
          else if cold then s1.wipe d .off else s1.modDie d fun x => { x with power := .d3 })))
    ∧ (∀ n h cold, x.power = .d0 → x.heads = [(n, h)] → h.enabled = true →
      exec (.d3Entry d cold) s = .next (s.modHead d n fun h => { h with stopping := true }))
    ∧ (x.power = .d3 → exec (.d0Return d) s = put fun x => { x with power := .d0 })
    ∧ (x.power = .off → exec (.d0Return d) s = .next (s.boot d))
    ∧ ∀ b khz, exec (.clockChange d b khz) s = put fun x => { x with clocks := aput x.clocks b khz }

/-- R48 to R53 and the encoding tables: words written out bit by bit, the listing of R442 among them, decode
to the instructions they stand for. -/
def Obligations.DecodeSpecWords : Prop :=
  let p1 : Guard := ⟨1, false⟩
  decodeTableWord 64 0x00700B0EC3005707 = some (.mad always .n32 false (.g 5) (.k 12) (.k 14) (.g 2))
  ∧ decodeTableWord 64 0x0C7FFF0C00C0770E = some (.lea always .n32 6 (.g 7) (.g 3) (.k 12))
  ∧ decodeTableWord 64 0x00000001C330C7C0 = some (.kaddImm (.k 12) (.k 12) 1)
  ∧ decodeTableWord 64 0x247FFF0FC33FF71F = some (.cmp always .n32 1 .lt .none (.k 12) (.k 15))
  ∧ decodeTableWord 64 0x000FFFFFFFFFF757 = some (.rdv always .none)
  ∧ decodeTableWord 64 0x000FFFFCFFFFF1B7 = some (.brImm p1 0xFFFFC)
  ∧ decodeTableWord 64 0x009FFFFF01808753 = some (.xfirst always .b32 (.g 8) (.g 6) .none)

/-- Every well-formed instruction, with every operand at every value that its encoding admits, is what the
decoder reads from its words. -/
def Obligations.DecodeEncode : Prop :=
  ∀ (key : DecodeKey) (prods : List Width) (i : Instr), i.isOp = true → i.wfIn key prods = true →
    decodeInstr key prods (encode i) = some i

/-- A step of a clause in issue runs the instruction that the clause's words decode to at the current slot,
for the thread whose turn it is, and then moves on: to the next thread, the next slot, or the end of the
clause. That between clauses a step runs the first event of the agenda is the model's choice (log 1), and the
order of the members at a slot its reading (log 80). -/
def Obligations.StepRunsDecoded : Prop :=
  (∀ (s : State) (i : Issue) (r : TRef) (rest : List TRef) (ss : List Slot) (k : Slot),
    s.issue = some i → i.todo = r :: rest → decodeClause i.key i.words = .ok ss →
    (ss.find? fun k => k.index == i.slot) = some k →
    (∀ s1, exec k.instr s = .next s1 → step s = .next (s1.advance r))
    ∧ ∀ f, exec k.instr s = .fault f → step s = .fault f)
  ∧ (∀ (s : State) (i : Issue) (r : TRef), s.issue = some i → i.members.contains r = true →
    let s1 := s.modThread r fun t => { t with hold := none }
    (i.todo.erase r ≠ [] → s.advance r = { s1 with issue := some { i with todo := i.todo.erase r } })
    ∧ (i.todo.erase r = [] →
      (∀ n next, s1.slotFrom i.after i.members = some (n, next) →
        s.advance r = { s1 with issue := some { i with slot := n, todo := next } })
      ∧ (s1.slotFrom i.after i.members = none → s.advance r = s1.endIssue i)))
  ∧ ∀ (s : State) (e : Instr) (rest : List Instr), s.issue = none → s.agenda = e :: rest →
    step s = exec e { s with agenda := rest }

/-- R60, R169: what the end of a clause leaves in a member that runs on: its deferred destinations written,
its producer values gone, and its next clause: where a control transfer set one, there, else the sequential
successor. And a destination left to the end: until then the group reads as before the clause, whatever a
class-A instruction has written to it, which is the model's reading (log 94), and at the end it holds the value
left for it. -/
def Obligations.EndOfClause : Prop :=
  (∀ (t : Thread) (b : RegFile) (n : Fin 768) (w : Width) (v : Quad) (tag : Bool), t.before = some b →
    t.regs.length = 768 → b.regs.length = 768 → n.val % w.regs = 0 → t.poison = 0 → b.poison = 0 → t.defer = [] →
    let old : Thread := { t with regs := b.regs, tags := b.tags }
    let u := t.deferReg (.g n) w v tag
    let done := u.applyDefer
    u.group n.val w = old.group n.val w ∧ (w = .w128 → u.tagOf n.val = old.tagOf n.val)
    ∧ done.group n.val w = wmask w v ∧ done.tagOf n.val = (tag && w == .w128) ∧ done.defer = []
    ∧ (∀ m, m < n.val ∨ n.val + w.regs ≤ m → u.reg m = t.reg m ∧ done.reg m = t.reg m)
    ∧ ∀ q, q ≠ n.val / 4 → u.tags.getLsbD q = t.tags.getLsbD q ∧ done.tags.getLsbD q = t.tags.getLsbD q) ∧
  ∀ (t : Thread) (successor : DWord), t.status = .ready → t.latches = [] → t.stopper = none →
    let t' := t.endClause successor
    t'.status = .ready ∧ t'.prods = [] ∧ t'.defer = [] ∧ t'.hold = none
    ∧ (t.jump = none → t'.pc = successor ∧ t'.resume = 0 ∧ t'.landFrom = none)
    ∧ (∀ a n, t.jump = some (a, n) → t'.pc = a ∧ t'.resume = n ∧ t'.landFrom = t.landFrom)
    ∧ t'.preds = t.preds ∧ t'.tstat = t.tstat
    ∧ (t.defer = [] → t'.regs = t.regs ∧ t'.tags = t.tags ∧ t'.handles = t.handles)
    ∧ (∀ n w v tag, t.defer = [.reg n w v tag] → t'.regs = (t.write n w v tag).regs
      ∧ t'.tags = (t.write n w v tag).tags)
    ∧ ∀ n v, t.defer = [.handle n v] → t'.handles = (t.setHandle n v).handles ∧ t'.regs = t.regs

/-- R190, R412, R434, R439: the machine after reset: every byte of DRAM and of every scratchpad zero, no tag
set, memories in their canonical form, every head's registers, SCRUBPOS and the measurements zero, no key
slot in use, the link down, and no context, cove, thread or clause in issue. -/
def Obligations.ResetState : Prop :=
  let s := State.reset
  (∀ d a, memRead (s.die d).dram a = 0 ∧ (s.die d).tags = [] ∧ Memory.wf (s.die d).dram = true)
  ∧ (∀ d n a, memRead (s.core d n).scratch a = 0 ∧ (s.core d n).scratchTags = []
    ∧ Memory.wf (s.core d n).scratch = true)
  ∧ (∀ d n, (s.head d n).ctl = 0 ∧ (s.head d n).stat = 0 ∧ (s.head d n).queue = [])
  ∧ (∀ d, (s.die d).scrubPos = 0 ∧ (∀ i, (s.die d).measures.getD i 0 = 0)
    ∧ ∀ k, ((s.die d).keySlot k).state = .free)
  ∧ s.link.mode = .down ∧ s.link.reqs = [] ∧ s.contexts = [] ∧ s.coves = [] ∧ s.threads = []
  ∧ s.issue = none

/-- The memory's canonical form (its addresses rise and no cell holds zero) is kept by every memory
operation, a byte written reads back, and no other byte changes; two memories in that form that read the
same are equal. -/
def Obligations.MemoryCanonical : Prop :=
  (∀ (m : Mem) (a : Nat) (b : Byte), Memory.wf m = true →
    Memory.wf (memWrite m a b) = true
    ∧ ∀ x, memRead (memWrite m a b) x = if x = a then b else memRead m x)
  ∧ (∀ (m : Mem) (a : Nat) (bs : List Byte), Memory.wf m = true →
    Memory.wf (memPut m a bs) = true
    ∧ ∀ x, memRead (memPut m a bs) x
      = if a ≤ x ∧ x < a + bs.length then bs.getD (x - a) 0 else memRead m x)
  ∧ (∀ (m : Mem) (a n : Nat), Memory.wf m = true →
    Memory.wf (memZero m a n) = true
    ∧ ∀ x, memRead (memZero m a n) x = if a ≤ x ∧ x < a + n then 0 else memRead m x)
  ∧ (∀ (n v : Nat), leNat (leBytes n v) = v % 256 ^ n)
  ∧ ∀ m m' : Mem, Memory.wf m = true → Memory.wf m' = true → (∀ x, memRead m x = memRead m' x) → m = m'

/-- Every step keeps every DRAM and every scratchpad in the canonical form. -/
def Obligations.MemoryStaysCanonical : Prop :=
  ∀ s s' : State,
    let formed (s : State) : Prop := ∀ d, Memory.wf (s.die d).dram = true
      ∧ ∀ n, Memory.wf (s.core d n).scratch = true
    formed s → step s = .next s' → formed s'

/-- Every instruction and event of the table has a meaning: no instruction or event and no step of the
machine is refused. That an instruction of the table which no thread has its turn for is a fault is the model's
choice (log 74). -/
def Obligations.NothingRefused : Prop :=
  (∀ (i : Instr) (s : State) (x : Refusal), exec i s ≠ .refused x)
  ∧ (∀ (s : State) (x : Refusal), step s ≠ .refused x)
  ∧ ∀ (i : Instr) (s : State), i.isOp = true → s.cur = none → exec i s = .fault .noThread
end

