-- ==== Sys2Proof/Laws/Dispatch.lean ====
section
/-! SUPPORT. The arm of `exec` of every constructor, as an equation. -/

namespace Sys2Proof.Machine

@[simp] theorem exec_add (gd : Guard) (t : Ty) (sat : Bool) (d a b : Opnd) (s : State) :
    exec (.add gd t sat d a b) s = execAdd gd t sat d a b s := rfl
@[simp] theorem exec_addImm (gd : Guard) (t : Ty) (sat : Bool) (d a : Opnd) (imm : BitVec 20) (s : State) :
    exec (.addImm gd t sat d a imm) s = execAddImm gd t sat d a imm s := rfl
@[simp] theorem exec_sub (gd : Guard) (t : Ty) (sat : Bool) (d a b : Opnd) (s : State) :
    exec (.sub gd t sat d a b) s = execSub gd t sat d a b s := rfl
@[simp] theorem exec_subImm (gd : Guard) (t : Ty) (sat : Bool) (d a : Opnd) (imm : BitVec 20) (s : State) :
    exec (.subImm gd t sat d a imm) s = execSubImm gd t sat d a imm s := rfl
@[simp] theorem exec_addc (gd : Guard) (t : Ty) (pc : Fin 7) (d a b : Opnd) (s : State) :
    exec (.addc gd t pc d a b) s = execAddc gd t pc d a b s := rfl
@[simp] theorem exec_addcImm (gd : Guard) (t : Ty) (pc : Fin 7) (d a : Opnd) (imm : BitVec 20) (s : State) :
    exec (.addcImm gd t pc d a imm) s = execAddcImm gd t pc d a imm s := rfl
@[simp] theorem exec_subb (gd : Guard) (t : Ty) (pc : Fin 7) (d a b : Opnd) (s : State) :
    exec (.subb gd t pc d a b) s = execSubb gd t pc d a b s := rfl
@[simp] theorem exec_subbImm (gd : Guard) (t : Ty) (pc : Fin 7) (d a : Opnd) (imm : BitVec 20) (s : State) :
    exec (.subbImm gd t pc d a imm) s = execSubbImm gd t pc d a imm s := rfl
@[simp] theorem exec_mul (gd : Guard) (t : Ty) (sat : Bool) (d a b : Opnd) (s : State) :
    exec (.mul gd t sat d a b) s = execMul gd t sat d a b s := rfl
@[simp] theorem exec_mulImm (gd : Guard) (t : Ty) (sat : Bool) (d a : Opnd) (imm : BitVec 20) (s : State) :
    exec (.mulImm gd t sat d a imm) s = execMulImm gd t sat d a imm s := rfl
@[simp] theorem exec_mulh (gd : Guard) (t : Ty) (d a b : Opnd) (s : State) :
    exec (.mulh gd t d a b) s = execMulh gd t d a b s := rfl
@[simp] theorem exec_mulhImm (gd : Guard) (t : Ty) (d a : Opnd) (imm : BitVec 20) (s : State) :
    exec (.mulhImm gd t d a imm) s = execMulhImm gd t d a imm s := rfl
@[simp] theorem exec_mad (gd : Guard) (t : Ty) (sat : Bool) (d a b c : Opnd) (s : State) :
    exec (.mad gd t sat d a b c) s = execMad gd t sat d a b c s := rfl
@[simp] theorem exec_div (gd : Guard) (t : Ty) (d a b : Opnd) (s : State) :
    exec (.div gd t d a b) s = execDiv gd t d a b s := rfl
@[simp] theorem exec_divImm (gd : Guard) (t : Ty) (d a : Opnd) (imm : BitVec 20) (s : State) :
    exec (.divImm gd t d a imm) s = execDivImm gd t d a imm s := rfl
@[simp] theorem exec_rem (gd : Guard) (t : Ty) (d a b : Opnd) (s : State) :
    exec (.rem gd t d a b) s = execRem gd t d a b s := rfl
@[simp] theorem exec_remImm (gd : Guard) (t : Ty) (d a : Opnd) (imm : BitVec 20) (s : State) :
    exec (.remImm gd t d a imm) s = execRemImm gd t d a imm s := rfl
@[simp] theorem exec_neg (gd : Guard) (t : Ty) (sat : Bool) (d a : Opnd) (s : State) :
    exec (.neg gd t sat d a) s = execNeg gd t sat d a s := rfl
@[simp] theorem exec_abs (gd : Guard) (t : Ty) (sat : Bool) (d a : Opnd) (s : State) :
    exec (.abs gd t sat d a) s = execAbs gd t sat d a s := rfl
@[simp] theorem exec_min (gd : Guard) (t : Ty) (d a b : Opnd) (s : State) :
    exec (.min gd t d a b) s = execMin gd t d a b s := rfl
@[simp] theorem exec_minImm (gd : Guard) (t : Ty) (d a : Opnd) (imm : BitVec 20) (s : State) :
    exec (.minImm gd t d a imm) s = execMinImm gd t d a imm s := rfl
@[simp] theorem exec_max (gd : Guard) (t : Ty) (d a b : Opnd) (s : State) :
    exec (.max gd t d a b) s = execMax gd t d a b s := rfl
@[simp] theorem exec_maxImm (gd : Guard) (t : Ty) (d a : Opnd) (imm : BitVec 20) (s : State) :
    exec (.maxImm gd t d a imm) s = execMaxImm gd t d a imm s := rfl
@[simp] theorem exec_lea (gd : Guard) (t : Ty) (sh : Fin 8) (d a b : Opnd) (s : State) :
    exec (.lea gd t sh d a b) s = execLea gd t sh d a b s := rfl
@[simp] theorem exec_leaImm (gd : Guard) (t : Ty) (sh : Fin 8) (d a : Opnd) (imm : BitVec 20) (s : State) :
    exec (.leaImm gd t sh d a imm) s = execLeaImm gd t sh d a imm s := rfl
@[simp] theorem exec_sel (gd : Guard) (t : Ty) (inv : Bool) (pn : Fin 8) (d a b : Opnd) (s : State) :
    exec (.sel gd t inv pn d a b) s = execSel gd t inv pn d a b s := rfl
@[simp] theorem exec_selImm (gd : Guard) (t : Ty) (inv : Bool) (pn : Fin 8) (d a : Opnd) (imm : BitVec 20) (s : State) :
    exec (.selImm gd t inv pn d a imm) s = execSelImm gd t inv pn d a imm s := rfl
@[simp] theorem exec_and (gd : Guard) (t : Ty) (d a b : Opnd) (s : State) :
    exec (.and gd t d a b) s = execAnd gd t d a b s := rfl
@[simp] theorem exec_andImm (gd : Guard) (t : Ty) (d a : Opnd) (imm : BitVec 20) (s : State) :
    exec (.andImm gd t d a imm) s = execAndImm gd t d a imm s := rfl
@[simp] theorem exec_or (gd : Guard) (t : Ty) (d a b : Opnd) (s : State) :
    exec (.or gd t d a b) s = execOr gd t d a b s := rfl
@[simp] theorem exec_orImm (gd : Guard) (t : Ty) (d a : Opnd) (imm : BitVec 20) (s : State) :
    exec (.orImm gd t d a imm) s = execOrImm gd t d a imm s := rfl
@[simp] theorem exec_xor (gd : Guard) (t : Ty) (d a b : Opnd) (s : State) :
    exec (.xor gd t d a b) s = execXor gd t d a b s := rfl
@[simp] theorem exec_xorImm (gd : Guard) (t : Ty) (d a : Opnd) (imm : BitVec 20) (s : State) :
    exec (.xorImm gd t d a imm) s = execXorImm gd t d a imm s := rfl
@[simp] theorem exec_andn (gd : Guard) (t : Ty) (d a b : Opnd) (s : State) :
    exec (.andn gd t d a b) s = execAndn gd t d a b s := rfl
@[simp] theorem exec_andnImm (gd : Guard) (t : Ty) (d a : Opnd) (imm : BitVec 20) (s : State) :
    exec (.andnImm gd t d a imm) s = execAndnImm gd t d a imm s := rfl
@[simp] theorem exec_not (gd : Guard) (t : Ty) (d a : Opnd) (s : State) :
    exec (.not gd t d a) s = execNot gd t d a s := rfl
@[simp] theorem exec_shl (gd : Guard) (t : Ty) (d a b : Opnd) (s : State) :
    exec (.shl gd t d a b) s = execShl gd t d a b s := rfl
@[simp] theorem exec_shlImm (gd : Guard) (t : Ty) (d a : Opnd) (imm : BitVec 20) (s : State) :
    exec (.shlImm gd t d a imm) s = execShlImm gd t d a imm s := rfl
@[simp] theorem exec_shr (gd : Guard) (t : Ty) (d a b : Opnd) (s : State) :
    exec (.shr gd t d a b) s = execShr gd t d a b s := rfl
@[simp] theorem exec_shrImm (gd : Guard) (t : Ty) (d a : Opnd) (imm : BitVec 20) (s : State) :
    exec (.shrImm gd t d a imm) s = execShrImm gd t d a imm s := rfl
@[simp] theorem exec_sar (gd : Guard) (t : Ty) (d a b : Opnd) (s : State) :
    exec (.sar gd t d a b) s = execSar gd t d a b s := rfl
@[simp] theorem exec_sarImm (gd : Guard) (t : Ty) (d a : Opnd) (imm : BitVec 20) (s : State) :
    exec (.sarImm gd t d a imm) s = execSarImm gd t d a imm s := rfl
@[simp] theorem exec_rol (gd : Guard) (t : Ty) (d a b : Opnd) (s : State) :
    exec (.rol gd t d a b) s = execRol gd t d a b s := rfl
@[simp] theorem exec_rolImm (gd : Guard) (t : Ty) (d a : Opnd) (imm : BitVec 20) (s : State) :
    exec (.rolImm gd t d a imm) s = execRolImm gd t d a imm s := rfl
@[simp] theorem exec_bfx (gd : Guard) (t : Ty) (d a b : Opnd) (s : State) :
    exec (.bfx gd t d a b) s = execBfx gd t d a b s := rfl
@[simp] theorem exec_bfxImm (gd : Guard) (t : Ty) (d a : Opnd) (imm : BitVec 20) (s : State) :
    exec (.bfxImm gd t d a imm) s = execBfxImm gd t d a imm s := rfl
@[simp] theorem exec_bfi (gd : Guard) (t : Ty) (d a b c : Opnd) (s : State) :
    exec (.bfi gd t d a b c) s = execBfi gd t d a b c s := rfl
@[simp] theorem exec_bfr (gd : Guard) (t : Ty) (d a : Opnd) (s : State) :
    exec (.bfr gd t d a) s = execBfr gd t d a s := rfl
@[simp] theorem exec_popc (gd : Guard) (t : Ty) (d a : Opnd) (s : State) :
    exec (.popc gd t d a) s = execPopc gd t d a s := rfl
@[simp] theorem exec_clz (gd : Guard) (t : Ty) (d a : Opnd) (s : State) :
    exec (.clz gd t d a) s = execClz gd t d a s := rfl
@[simp] theorem exec_ctz (gd : Guard) (t : Ty) (d a : Opnd) (s : State) :
    exec (.ctz gd t d a) s = execCtz gd t d a s := rfl
@[simp] theorem exec_cmp (gd : Guard) (t : Ty) (pd : Fin 7) (cond : Cond) (d a b : Opnd) (s : State) :
    exec (.cmp gd t pd cond d a b) s = execCmp gd t pd cond d a b s := rfl
@[simp] theorem exec_cmpImm (gd : Guard) (t : Ty) (pd : Fin 7) (cond : Cond) (d a : Opnd) (imm : BitVec 20) (s : State) :
    exec (.cmpImm gd t pd cond d a imm) s = execCmpImm gd t pd cond d a imm s := rfl
@[simp] theorem exec_mov (gd : Guard) (t : Ty) (d a : Opnd) (s : State) :
    exec (.mov gd t d a) s = execMov gd t d a s := rfl
@[simp] theorem exec_movi (gd : Guard) (t : Ty) (pos : Pos) (d b : Opnd) (s : State) :
    exec (.movi gd t pos d b) s = execMovi gd t pos d b s := rfl
@[simp] theorem exec_moviImm (gd : Guard) (t : Ty) (pos : Pos) (d : Opnd) (imm : BitVec 20) (s : State) :
    exec (.moviImm gd t pos d imm) s = execMoviImm gd t pos d imm s := rfl
@[simp] theorem exec_pand (gd : Guard) (pd : Fin 7) (pa pb : Fin 8) (d : Opnd) (s : State) :
    exec (.pand gd pd pa pb d) s = execPand gd pd pa pb d s := rfl
@[simp] theorem exec_por (gd : Guard) (pd : Fin 7) (pa pb : Fin 8) (d : Opnd) (s : State) :
    exec (.por gd pd pa pb d) s = execPor gd pd pa pb d s := rfl
@[simp] theorem exec_pxor (gd : Guard) (pd : Fin 7) (pa pb : Fin 8) (d : Opnd) (s : State) :
    exec (.pxor gd pd pa pb d) s = execPxor gd pd pa pb d s := rfl
@[simp] theorem exec_pnot (gd : Guard) (pd : Fin 7) (pa : Fin 8) (d : Opnd) (s : State) :
    exec (.pnot gd pd pa d) s = execPnot gd pd pa d s := rfl
@[simp] theorem exec_fadd (gd : Guard) (t : Ty) (rnd : Rnd) (d a b : Opnd) (s : State) :
    exec (.fadd gd t rnd d a b) s = execFadd gd t rnd d a b s := rfl
@[simp] theorem exec_faddImm (gd : Guard) (t : Ty) (rnd : Rnd) (d a : Opnd) (imm : BitVec 20) (s : State) :
    exec (.faddImm gd t rnd d a imm) s = execFaddImm gd t rnd d a imm s := rfl
@[simp] theorem exec_fsub (gd : Guard) (t : Ty) (rnd : Rnd) (d a b : Opnd) (s : State) :
    exec (.fsub gd t rnd d a b) s = execFsub gd t rnd d a b s := rfl
@[simp] theorem exec_fsubImm (gd : Guard) (t : Ty) (rnd : Rnd) (d a : Opnd) (imm : BitVec 20) (s : State) :
    exec (.fsubImm gd t rnd d a imm) s = execFsubImm gd t rnd d a imm s := rfl
@[simp] theorem exec_fmul (gd : Guard) (t : Ty) (rnd : Rnd) (d a b : Opnd) (s : State) :
    exec (.fmul gd t rnd d a b) s = execFmul gd t rnd d a b s := rfl
@[simp] theorem exec_fmulImm (gd : Guard) (t : Ty) (rnd : Rnd) (d a : Opnd) (imm : BitVec 20) (s : State) :
    exec (.fmulImm gd t rnd d a imm) s = execFmulImm gd t rnd d a imm s := rfl
@[simp] theorem exec_fma (gd : Guard) (t : Ty) (rnd : Rnd) (d a b c : Opnd) (s : State) :
    exec (.fma gd t rnd d a b c) s = execFma gd t rnd d a b c s := rfl
@[simp] theorem exec_fmin (gd : Guard) (t : Ty) (d a b : Opnd) (s : State) :
    exec (.fmin gd t d a b) s = execFmin gd t d a b s := rfl
@[simp] theorem exec_fminImm (gd : Guard) (t : Ty) (d a : Opnd) (imm : BitVec 20) (s : State) :
    exec (.fminImm gd t d a imm) s = execFminImm gd t d a imm s := rfl
@[simp] theorem exec_fmax (gd : Guard) (t : Ty) (d a b : Opnd) (s : State) :
    exec (.fmax gd t d a b) s = execFmax gd t d a b s := rfl
@[simp] theorem exec_fmaxImm (gd : Guard) (t : Ty) (d a : Opnd) (imm : BitVec 20) (s : State) :
    exec (.fmaxImm gd t d a imm) s = execFmaxImm gd t d a imm s := rfl
@[simp] theorem exec_fminm (gd : Guard) (t : Ty) (d a b : Opnd) (s : State) :
    exec (.fminm gd t d a b) s = execFminm gd t d a b s := rfl
@[simp] theorem exec_fminmImm (gd : Guard) (t : Ty) (d a : Opnd) (imm : BitVec 20) (s : State) :
    exec (.fminmImm gd t d a imm) s = execFminmImm gd t d a imm s := rfl
@[simp] theorem exec_fmaxm (gd : Guard) (t : Ty) (d a b : Opnd) (s : State) :
    exec (.fmaxm gd t d a b) s = execFmaxm gd t d a b s := rfl
@[simp] theorem exec_fmaxmImm (gd : Guard) (t : Ty) (d a : Opnd) (imm : BitVec 20) (s : State) :
    exec (.fmaxmImm gd t d a imm) s = execFmaxmImm gd t d a imm s := rfl
@[simp] theorem exec_fcmp (gd : Guard) (t : Ty) (pd : Fin 7) (cond : Cond) (d a b : Opnd) (s : State) :
    exec (.fcmp gd t pd cond d a b) s = execFcmp gd t pd cond d a b s := rfl
@[simp] theorem exec_fcmpImm (gd : Guard) (t : Ty) (pd : Fin 7) (cond : Cond) (d a : Opnd) (imm : BitVec 20) (s : State) :
    exec (.fcmpImm gd t pd cond d a imm) s = execFcmpImm gd t pd cond d a imm s := rfl
@[simp] theorem exec_fsgn (gd : Guard) (t : Ty) (sop : Fin 3) (d a b : Opnd) (s : State) :
    exec (.fsgn gd t sop d a b) s = execFsgn gd t sop d a b s := rfl
@[simp] theorem exec_fclass (gd : Guard) (t : Ty) (d a : Opnd) (s : State) :
    exec (.fclass gd t d a) s = execFclass gd t d a s := rfl
@[simp] theorem exec_frnd (gd : Guard) (t : Ty) (rnd : Rnd) (d a : Opnd) (s : State) :
    exec (.frnd gd t rnd d a) s = execFrnd gd t rnd d a s := rfl
@[simp] theorem exec_fcvt (gd : Guard) (sat : Bool) (rnd : Rnd) (t ts : Ty) (d a : Opnd) (s : State) :
    exec (.fcvt gd sat rnd t ts d a) s = execFcvt gd sat rnd t ts d a s := rfl
@[simp] theorem exec_f2i (gd : Guard) (sat : Bool) (rnd : Rnd) (t ts : Ty) (d a : Opnd) (s : State) :
    exec (.f2i gd sat rnd t ts d a) s = execF2i gd sat rnd t ts d a s := rfl
@[simp] theorem exec_i2f (gd : Guard) (sat : Bool) (rnd : Rnd) (t ts : Ty) (d a : Opnd) (s : State) :
    exec (.i2f gd sat rnd t ts d a) s = execI2f gd sat rnd t ts d a s := rfl
@[simp] theorem exec_rcp (gd : Guard) (t : Ty) (rnd : Rnd) (d a : Opnd) (s : State) :
    exec (.rcp gd t rnd d a) s = execRcp gd t rnd d a s := rfl
@[simp] theorem exec_rsq (gd : Guard) (t : Ty) (d a : Opnd) (s : State) :
    exec (.rsq gd t d a) s = execRsq gd t d a s := rfl
@[simp] theorem exec_sqrt (gd : Guard) (t : Ty) (rnd : Rnd) (d a : Opnd) (s : State) :
    exec (.sqrt gd t rnd d a) s = execSqrt gd t rnd d a s := rfl
@[simp] theorem exec_ex2 (gd : Guard) (t : Ty) (d a : Opnd) (s : State) :
    exec (.ex2 gd t d a) s = execEx2 gd t d a s := rfl
@[simp] theorem exec_lg2 (gd : Guard) (t : Ty) (d a : Opnd) (s : State) :
    exec (.lg2 gd t d a) s = execLg2 gd t d a s := rfl
@[simp] theorem exec_sin (gd : Guard) (t : Ty) (d a : Opnd) (s : State) :
    exec (.sin gd t d a) s = execSin gd t d a s := rfl
@[simp] theorem exec_cos (gd : Guard) (t : Ty) (d a : Opnd) (s : State) :
    exec (.cos gd t d a) s = execCos gd t d a s := rfl
@[simp] theorem exec_hadd2 (gd : Guard) (t : Ty) (rnd : Rnd) (d a b : Opnd) (s : State) :
    exec (.hadd2 gd t rnd d a b) s = execHadd2 gd t rnd d a b s := rfl
@[simp] theorem exec_hmul2 (gd : Guard) (t : Ty) (rnd : Rnd) (d a b : Opnd) (s : State) :
    exec (.hmul2 gd t rnd d a b) s = execHmul2 gd t rnd d a b s := rfl
@[simp] theorem exec_hfma2 (gd : Guard) (t : Ty) (rnd : Rnd) (d a b c : Opnd) (s : State) :
    exec (.hfma2 gd t rnd d a b c) s = execHfma2 gd t rnd d a b c s := rfl
@[simp] theorem exec_qpack (gd : Guard) (t : Ty) (rnd : Rnd) (d a b : Opnd) (s : State) :
    exec (.qpack gd t rnd d a b) s = execQpack gd t rnd d a b s := rfl
@[simp] theorem exec_qunpk (gd : Guard) (t : Ty) (d a b : Opnd) (s : State) :
    exec (.qunpk gd t d a b) s = execQunpk gd t d a b s := rfl
@[simp] theorem exec_qscale (gd : Guard) (t : Ty) (d a b : Opnd) (s : State) :
    exec (.qscale gd t d a b) s = execQscale gd t d a b s := rfl
@[simp] theorem exec_spcmp (gd : Guard) (t : Ty) (n : Fin 3) (d a b c : Opnd) (s : State) :
    exec (.spcmp gd t n d a b c) s = execSpcmp gd t n d a b c s := rfl
@[simp] theorem exec_spexp (gd : Guard) (t : Ty) (n : Fin 3) (d a b c : Opnd) (s : State) :
    exec (.spexp gd t n d a b c) s = execSpexp gd t n d a b c s := rfl
@[simp] theorem exec_br (gd : Guard) (b : Opnd) (s : State) :
    exec (.br gd b) s = execBr gd b s := rfl
@[simp] theorem exec_brImm (gd : Guard) (imm : BitVec 20) (s : State) :
    exec (.brImm gd imm) s = execBrImm gd imm s := rfl
@[simp] theorem exec_brx (gd : Guard) (a : Opnd) (s : State) :
    exec (.brx gd a) s = execBrx gd a s := rfl
@[simp] theorem exec_call (gd : Guard) (d b : Opnd) (s : State) :
    exec (.call gd d b) s = execCall gd d b s := rfl
@[simp] theorem exec_callImm (gd : Guard) (d : Opnd) (imm : BitVec 20) (s : State) :
    exec (.callImm gd d imm) s = execCallImm gd d imm s := rfl
@[simp] theorem exec_callx (gd : Guard) (d a : Opnd) (s : State) :
    exec (.callx gd d a) s = execCallx gd d a s := rfl
@[simp] theorem exec_ret (gd : Guard) (a : Opnd) (s : State) :
    exec (.ret gd a) s = execRet gd a s := rfl
@[simp] theorem exec_exit (gd : Guard) (s : State) :
    exec (.exit gd) s = execExit gd s := rfl
@[simp] theorem exec_yield (gd : Guard) (s : State) :
    exec (.yield gd) s = execYield gd s := rfl
@[simp] theorem exec_nap (gd : Guard) (a b : Opnd) (s : State) :
    exec (.nap gd a b) s = execNap gd a b s := rfl
@[simp] theorem exec_brk (gd : Guard) (s : State) :
    exec (.brk gd) s = execBrk gd s := rfl
@[simp] theorem exec_kadd (d a b : Opnd) (s : State) :
    exec (.kadd d a b) s = execKadd d a b s := rfl
@[simp] theorem exec_kaddImm (d a : Opnd) (imm : BitVec 20) (s : State) :
    exec (.kaddImm d a imm) s = execKaddImm d a imm s := rfl
@[simp] theorem exec_ksub (d a b : Opnd) (s : State) :
    exec (.ksub d a b) s = execKsub d a b s := rfl
@[simp] theorem exec_ksubImm (d a : Opnd) (imm : BitVec 20) (s : State) :
    exec (.ksubImm d a imm) s = execKsubImm d a imm s := rfl
@[simp] theorem exec_kmul (d a b : Opnd) (s : State) :
    exec (.kmul d a b) s = execKmul d a b s := rfl
@[simp] theorem exec_kmulImm (d a : Opnd) (imm : BitVec 20) (s : State) :
    exec (.kmulImm d a imm) s = execKmulImm d a imm s := rfl
@[simp] theorem exec_kand (d a b : Opnd) (s : State) :
    exec (.kand d a b) s = execKand d a b s := rfl
@[simp] theorem exec_kandImm (d a : Opnd) (imm : BitVec 20) (s : State) :
    exec (.kandImm d a imm) s = execKandImm d a imm s := rfl
@[simp] theorem exec_kor (d a b : Opnd) (s : State) :
    exec (.kor d a b) s = execKor d a b s := rfl
@[simp] theorem exec_korImm (d a : Opnd) (imm : BitVec 20) (s : State) :
    exec (.korImm d a imm) s = execKorImm d a imm s := rfl
@[simp] theorem exec_kxor (d a b : Opnd) (s : State) :
    exec (.kxor d a b) s = execKxor d a b s := rfl
@[simp] theorem exec_kxorImm (d a : Opnd) (imm : BitVec 20) (s : State) :
    exec (.kxorImm d a imm) s = execKxorImm d a imm s := rfl
@[simp] theorem exec_kshl (d a b : Opnd) (s : State) :
    exec (.kshl d a b) s = execKshl d a b s := rfl
@[simp] theorem exec_kshlImm (d a : Opnd) (imm : BitVec 20) (s : State) :
    exec (.kshlImm d a imm) s = execKshlImm d a imm s := rfl
@[simp] theorem exec_kshr (d a b : Opnd) (s : State) :
    exec (.kshr d a b) s = execKshr d a b s := rfl
@[simp] theorem exec_kshrImm (d a : Opnd) (imm : BitVec 20) (s : State) :
    exec (.kshrImm d a imm) s = execKshrImm d a imm s := rfl
@[simp] theorem exec_kmov (d a : Opnd) (s : State) :
    exec (.kmov d a) s = execKmov d a s := rfl
@[simp] theorem exec_kmovi (pos : Bool) (d b : Opnd) (s : State) :
    exec (.kmovi pos d b) s = execKmovi pos d b s := rfl
@[simp] theorem exec_kmoviImm (pos : Bool) (d : Opnd) (imm : BitVec 20) (s : State) :
    exec (.kmoviImm pos d imm) s = execKmoviImm pos d imm s := rfl
@[simp] theorem exec_kcmp (t : Ty) (cond : Cond) (d a b : Opnd) (s : State) :
    exec (.kcmp t cond d a b) s = execKcmp t cond d a b s := rfl
@[simp] theorem exec_kcmpImm (t : Ty) (cond : Cond) (d a : Opnd) (imm : BitVec 20) (s : State) :
    exec (.kcmpImm t cond d a imm) s = execKcmpImm t cond d a imm s := rfl
@[simp] theorem exec_klea (sh : Fin 8) (d a b : Opnd) (s : State) :
    exec (.klea sh d a b) s = execKlea sh d a b s := rfl
@[simp] theorem exec_kleaImm (sh : Fin 8) (d a : Opnd) (imm : BitVec 20) (s : State) :
    exec (.kleaImm sh d a imm) s = execKleaImm sh d a imm s := rfl
@[simp] theorem exec_kmerge (s : State) :
    exec (.kmerge) s = execKmerge s := rfl
@[simp] theorem exec_xpull (gd : Guard) (t : Ty) (d a b c : Opnd) (s : State) :
    exec (.xpull gd t d a b c) s = execXpull gd t d a b c s := rfl
@[simp] theorem exec_xpullImm (gd : Guard) (t : Ty) (d a : Opnd) (imm : BitVec 20) (s : State) :
    exec (.xpullImm gd t d a imm) s = execXpullImm gd t d a imm s := rfl
@[simp] theorem exec_xpush (gd : Guard) (t : Ty) (cm : Bool) (d a b c : Opnd) (s : State) :
    exec (.xpush gd t cm d a b c) s = execXpush gd t cm d a b c s := rfl
@[simp] theorem exec_xvote (gd : Guard) (vop : Fin 3) (d a c : Opnd) (s : State) :
    exec (.xvote gd vop d a c) s = execXvote gd vop d a c s := rfl
@[simp] theorem exec_xfirst (gd : Guard) (t : Ty) (d a c : Opnd) (s : State) :
    exec (.xfirst gd t d a c) s = execXfirst gd t d a c s := rfl
@[simp] theorem exec_xred (gd : Guard) (t : Ty) (rop : Fin 6) (d a c : Opnd) (s : State) :
    exec (.xred gd t rop d a c) s = execXred gd t rop d a c s := rfl
@[simp] theorem exec_xscan (gd : Guard) (t : Ty) (exc : Bool) (rop : Fin 6) (d a c : Opnd) (s : State) :
    exec (.xscan gd t exc rop d a c) s = execXscan gd t exc rop d a c s := rfl
@[simp] theorem exec_xmatch (gd : Guard) (t : Ty) (d a c : Opnd) (s : State) :
    exec (.xmatch gd t d a c) s = execXmatch gd t d a c s := rfl
@[simp] theorem exec_rdv (gd : Guard) (c : Opnd) (s : State) :
    exec (.rdv gd c) s = execRdv gd c s := rfl
@[simp] theorem exec_rast (gd : Guard) (d a b c : Opnd) (s : State) :
    exec (.rast gd d a b c) s = execRast gd d a b c s := rfl
@[simp] theorem exec_mma (gd : Guard) (d a b c : Opnd) (s : State) :
    exec (.mma gd d a b c) s = execMma gd d a b c s := rfl
@[simp] theorem exec_mmaSp (gd : Guard) (d a b c : Opnd) (s : State) :
    exec (.mmaSp gd d a b c) s = execMmaSp gd d a b c s := rfl
@[simp] theorem exec_mmaSc (gd : Guard) (d a b c : Opnd) (s : State) :
    exec (.mmaSc gd d a b c) s = execMmaSc gd d a b c s := rfl
@[simp] theorem exec_mzero (gd : Guard) (d a : Opnd) (s : State) :
    exec (.mzero gd d a) s = execMzero gd d a s := rfl
@[simp] theorem exec_chdef (gd : Guard) (ch : Fin 8) (a b : Opnd) (s : State) :
    exec (.chdef gd ch a b) s = execChdef gd ch a b s := rfl
@[simp] theorem exec_chrun (gd : Guard) (ch : Fin 8) (d a : Opnd) (s : State) :
    exec (.chrun gd ch d a) s = execChrun gd ch d a s := rfl
@[simp] theorem exec_perfRd (gd : Guard) (d b : Opnd) (s : State) :
    exec (.perfRd gd d b) s = execPerfRd gd d b s := rfl
@[simp] theorem exec_ld (gd : Guard) (t : Ty) (hint : Fin 3) (d a b : Opnd) (s : State) :
    exec (.ld gd t hint d a b) s = execLd gd t hint d a b s := rfl
@[simp] theorem exec_ldImm (gd : Guard) (t : Ty) (hint : Fin 3) (d a : Opnd) (imm : BitVec 20) (s : State) :
    exec (.ldImm gd t hint d a imm) s = execLdImm gd t hint d a imm s := rfl
@[simp] theorem exec_st (gd : Guard) (t : Ty) (hint : Fin 3) (a b c : Opnd) (s : State) :
    exec (.st gd t hint a b c) s = execSt gd t hint a b c s := rfl
@[simp] theorem exec_ldK (gd : Guard) (t : Ty) (hint : Fin 3) (d a b : Opnd) (s : State) :
    exec (.ldK gd t hint d a b) s = execLdK gd t hint d a b s := rfl
@[simp] theorem exec_ldKImm (gd : Guard) (t : Ty) (hint : Fin 3) (d a : Opnd) (imm : BitVec 20) (s : State) :
    exec (.ldKImm gd t hint d a imm) s = execLdKImm gd t hint d a imm s := rfl
@[simp] theorem exec_atom (gd : Guard) (t : Ty) (scope : Scope) (aop : Fin 10) (d a b c : Opnd) (s : State) :
    exec (.atom gd t scope aop d a b c) s = execAtom gd t scope aop d a b c s := rfl
@[simp] theorem exec_acq (gd : Guard) (scope : Scope) (d a b : Opnd) (s : State) :
    exec (.acq gd scope d a b) s = execAcq gd scope d a b s := rfl
@[simp] theorem exec_rel (gd : Guard) (scope : Scope) (a b c : Opnd) (s : State) :
    exec (.rel gd scope a b c) s = execRel gd scope a b c s := rfl
@[simp] theorem exec_fence (gd : Guard) (scope : Scope) (s : State) :
    exec (.fence gd scope) s = execFence gd scope s := rfl
@[simp] theorem exec_icinv (gd : Guard) (scope : Scope) (s : State) :
    exec (.icinv gd scope) s = execIcinv gd scope s := rfl
@[simp] theorem exec_pf (gd : Guard) (a b : Opnd) (s : State) :
    exec (.pf gd a b) s = execPf gd a b s := rfl
@[simp] theorem exec_pfImm (gd : Guard) (a : Opnd) (imm : BitVec 20) (s : State) :
    exec (.pfImm gd a imm) s = execPfImm gd a imm s := rfl
@[simp] theorem exec_pfi (gd : Guard) (a b : Opnd) (s : State) :
    exec (.pfi gd a b) s = execPfi gd a b s := rfl
@[simp] theorem exec_pfiImm (gd : Guard) (a : Opnd) (imm : BitVec 20) (s : State) :
    exec (.pfiImm gd a imm) s = execPfiImm gd a imm s := rfl
@[simp] theorem exec_stashWb (gd : Guard) (a b c : Opnd) (s : State) :
    exec (.stashWb gd a b c) s = execStashWb gd a b c s := rfl
@[simp] theorem exec_stashInv (gd : Guard) (a b c : Opnd) (s : State) :
    exec (.stashInv gd a b c) s = execStashInv gd a b c s := rfl
@[simp] theorem exec_capNew (gd : Guard) (d a b c : Opnd) (s : State) :
    exec (.capNew gd d a b c) s = execCapNew gd d a b c s := rfl
@[simp] theorem exec_capSet (gd : Guard) (d a b : Opnd) (s : State) :
    exec (.capSet gd d a b) s = execCapSet gd d a b s := rfl
@[simp] theorem exec_capAdd (gd : Guard) (d a b : Opnd) (s : State) :
    exec (.capAdd gd d a b) s = execCapAdd gd d a b s := rfl
@[simp] theorem exec_capBnd (gd : Guard) (d a b : Opnd) (s : State) :
    exec (.capBnd gd d a b) s = execCapBnd gd d a b s := rfl
@[simp] theorem exec_capPrm (gd : Guard) (d a b : Opnd) (s : State) :
    exec (.capPrm gd d a b) s = execCapPrm gd d a b s := rfl
@[simp] theorem exec_capChk (gd : Guard) (d a b c : Opnd) (s : State) :
    exec (.capChk gd d a b c) s = execCapChk gd d a b c s := rfl
@[simp] theorem exec_capGet (gd : Guard) (d a b : Opnd) (s : State) :
    exec (.capGet gd d a b) s = execCapGet gd d a b s := rfl
@[simp] theorem exec_cpBlk (gd : Guard) (d a b c : Opnd) (s : State) :
    exec (.cpBlk gd d a b c) s = execCpBlk gd d a b c s := rfl
@[simp] theorem exec_cpTile (gd : Guard) (d a b c : Opnd) (s : State) :
    exec (.cpTile gd d a b c) s = execCpTile gd d a b c s := rfl
@[simp] theorem exec_cpGat (gd : Guard) (d a b c : Opnd) (s : State) :
    exec (.cpGat gd d a b c) s = execCpGat gd d a b c s := rfl
@[simp] theorem exec_cpSct (gd : Guard) (d a b c : Opnd) (s : State) :
    exec (.cpSct gd d a b c) s = execCpSct gd d a b c s := rfl
@[simp] theorem exec_cpMc (gd : Guard) (d a b c : Opnd) (s : State) :
    exec (.cpMc gd d a b c) s = execCpMc gd d a b c s := rfl
@[simp] theorem exec_cpFill (gd : Guard) (d a c : Opnd) (s : State) :
    exec (.cpFill gd d a c) s = execCpFill gd d a c s := rfl
@[simp] theorem exec_hwait (gd : Guard) (a : Opnd) (s : State) :
    exec (.hwait gd a) s = execHwait gd a s := rfl
@[simp] theorem exec_htest (gd : Guard) (d a : Opnd) (s : State) :
    exec (.htest gd d a) s = execHtest gd d a s := rfl
@[simp] theorem exec_hcancel (gd : Guard) (a : Opnd) (s : State) :
    exec (.hcancel gd a) s = execHcancel gd a s := rfl
@[simp] theorem exec_hmov (gd : Guard) (d a : Opnd) (s : State) :
    exec (.hmov gd d a) s = execHmov gd d a s := rfl
@[simp] theorem exec_rayGo (gd : Guard) (d a b : Opnd) (s : State) :
    exec (.rayGo gd d a b) s = execRayGo gd d a b s := rfl
@[simp] theorem exec_rayNext (gd : Guard) (d a : Opnd) (s : State) :
    exec (.rayNext gd d a) s = execRayNext gd d a s := rfl
@[simp] theorem exec_rayEnd (gd : Guard) (a : Opnd) (s : State) :
    exec (.rayEnd gd a) s = execRayEnd gd a s := rfl
@[simp] theorem exec_meSrch (gd : Guard) (d a b c : Opnd) (s : State) :
    exec (.meSrch gd d a b c) s = execMeSrch gd d a b c s := rfl
@[simp] theorem exec_smp (gd : Guard) (t : Ty) (d a b c : Opnd) (s : State) :
    exec (.smp gd t d a b c) s = execSmp gd t d a b c s := rfl
@[simp] theorem exec_smpG (gd : Guard) (t : Ty) (d a b c : Opnd) (s : State) :
    exec (.smpG gd t d a b c) s = execSmpG gd t d a b c s := rfl
@[simp] theorem exec_imgSt (gd : Guard) (t : Ty) (d a b c : Opnd) (s : State) :
    exec (.imgSt gd t d a b c) s = execImgSt gd t d a b c s := rfl
@[simp] theorem exec_bind (gd : Guard) (a b c : Opnd) (s : State) :
    exec (.bind gd a b c) s = execBind gd a b c s := rfl
@[simp] theorem exec_unbind (gd : Guard) (a : Opnd) (s : State) :
    exec (.unbind gd a) s = execUnbind gd a s := rfl
@[simp] theorem exec_tlbinv (gd : Guard) (a b c : Opnd) (s : State) :
    exec (.tlbinv gd a b c) s = execTlbinv gd a b c s := rfl
@[simp] theorem exec_keyz (gd : Guard) (a : Opnd) (s : State) :
    exec (.keyz gd a) s = execKeyz gd a s := rfl
@[simp] theorem exec_ptsync (gd : Guard) (s : State) :
    exec (.ptsync gd) s = execPtsync gd s := rfl
@[simp] theorem exec_sysr (gd : Guard) (t : Ty) (d b : Opnd) (s : State) :
    exec (.sysr gd t d b) s = execSysr gd t d b s := rfl
@[simp] theorem exec_sysrImm (gd : Guard) (t : Ty) (d : Opnd) (imm : BitVec 20) (s : State) :
    exec (.sysrImm gd t d imm) s = execSysrImm gd t d imm s := rfl
@[simp] theorem exec_sysw (gd : Guard) (t : Ty) (a b : Opnd) (s : State) :
    exec (.sysw gd t a b) s = execSysw gd t a b s := rfl
@[simp] theorem exec_syswImm (gd : Guard) (t : Ty) (a : Opnd) (imm : BitVec 20) (s : State) :
    exec (.syswImm gd t a imm) s = execSyswImm gd t a imm s := rfl
@[simp] theorem exec_trap (gd : Guard) (b : Opnd) (s : State) :
    exec (.trap gd b) s = execTrap gd b s := rfl
@[simp] theorem exec_trapImm (gd : Guard) (imm : BitVec 20) (s : State) :
    exec (.trapImm gd imm) s = execTrapImm gd imm s := rfl
@[simp] theorem exec_tret (gd : Guard) (s : State) :
    exec (.tret gd) s = execTret gd s := rfl
@[simp] theorem exec_ckpt (gd : Guard) (d : Opnd) (s : State) :
    exec (.ckpt gd d) s = execCkpt gd d s := rfl
@[simp] theorem exec_barIni (gd : Guard) (a b : Opnd) (s : State) :
    exec (.barIni gd a b) s = execBarIni gd a b s := rfl
@[simp] theorem exec_barIniImm (gd : Guard) (a : Opnd) (imm : BitVec 20) (s : State) :
    exec (.barIniImm gd a imm) s = execBarIniImm gd a imm s := rfl
@[simp] theorem exec_barArr (gd : Guard) (d a b : Opnd) (s : State) :
    exec (.barArr gd d a b) s = execBarArr gd d a b s := rfl
@[simp] theorem exec_barArrImm (gd : Guard) (d a : Opnd) (imm : BitVec 20) (s : State) :
    exec (.barArrImm gd d a imm) s = execBarArrImm gd d a imm s := rfl
@[simp] theorem exec_barWt (gd : Guard) (a b : Opnd) (s : State) :
    exec (.barWt gd a b) s = execBarWt gd a b s := rfl
@[simp] theorem exec_barWtImm (gd : Guard) (a : Opnd) (imm : BitVec 20) (s : State) :
    exec (.barWtImm gd a imm) s = execBarWtImm gd a imm s := rfl
@[simp] theorem exec_barArw (gd : Guard) (d a b : Opnd) (s : State) :
    exec (.barArw gd d a b) s = execBarArw gd d a b s := rfl
@[simp] theorem exec_barArwImm (gd : Guard) (d a : Opnd) (imm : BitVec 20) (s : State) :
    exec (.barArwImm gd d a imm) s = execBarArwImm gd d a imm s := rfl
@[simp] theorem exec_cntAdd (gd : Guard) (a b : Opnd) (s : State) :
    exec (.cntAdd gd a b) s = execCntAdd gd a b s := rfl
@[simp] theorem exec_cntRd (gd : Guard) (lv : Level) (d a : Opnd) (s : State) :
    exec (.cntRd gd lv d a) s = execCntRd gd lv d a s := rfl
@[simp] theorem exec_cntWt (gd : Guard) (lv : Level) (a : Opnd) (s : State) :
    exec (.cntWt gd lv a) s = execCntWt gd lv a s := rfl
@[simp] theorem exec_launch (gd : Guard) (d a b : Opnd) (s : State) :
    exec (.launch gd d a b) s = execLaunch gd d a b s := rfl
@[simp] theorem exec_nodePut (gd : Guard) (d a b : Opnd) (s : State) :
    exec (.nodePut gd d a b) s = execNodePut gd d a b s := rfl
@[simp] theorem exec_nodeFl (gd : Guard) (a : Opnd) (s : State) :
    exec (.nodeFl gd a) s = execNodeFl gd a s := rfl
@[simp] theorem exec_cancel (gd : Guard) (lv : Level) (a : Opnd) (s : State) :
    exec (.cancel gd lv a) s = execCancel gd lv a s := rfl
@[simp] theorem exec_clauseIssue (die : DieId) (core pipe : Nat) (s : State) :
    exec (.clauseIssue die core pipe) s = execClauseIssue die core pipe s := rfl
@[simp] theorem exec_decodedOpMissFill (die : DieId) (core : Nat) (s : State) :
    exec (.decodedOpMissFill die core) s = execDecodedOpMissFill die core s := rfl
@[simp] theorem exec_faultReportArrival (die : DieId) (s : State) :
    exec (.faultReportArrival die) s = execFaultReportArrival die s := rfl
@[simp] theorem exec_replayRestore (die : DieId) (entry : Nat) (s : State) :
    exec (.replayRestore die entry) s = execReplayRestore die entry s := rfl
@[simp] theorem exec_napCountExpiry (r : TRef) (s : State) :
    exec (.napCountExpiry r) s = execNapCountExpiry r s := rfl
@[simp] theorem exec_napEarlyEnd (r : TRef) (s : State) :
    exec (.napEarlyEnd r) s = execNapEarlyEnd r s := rfl
@[simp] theorem exec_stashEviction (cv : CoveRef) (window sector : Nat) (s : State) :
    exec (.stashEviction cv window sector) s = execStashEviction cv window sector s := rfl
@[simp] theorem exec_l1Eviction (die : DieId) (core idx : Nat) (s : State) :
    exec (.l1Eviction die core idx) s = execL1Eviction die core idx s := rfl
@[simp] theorem exec_decodedOpEviction (die : DieId) (core idx : Nat) (s : State) :
    exec (.decodedOpEviction die core idx) s = execDecodedOpEviction die core idx s := rfl
@[simp] theorem exec_copyComplete (die : DieId) (core idx : Nat) (s : State) :
    exec (.copyComplete die core idx) s = execCopyComplete die core idx s := rfl
@[simp] theorem exec_rayRoundComplete (die : DieId) (core idx : Nat) (s : State) :
    exec (.rayRoundComplete die core idx) s = execRayRoundComplete die core idx s := rfl
@[simp] theorem exec_meSrchComplete (die : DieId) (core idx : Nat) (s : State) :
    exec (.meSrchComplete die core idx) s = execMeSrchComplete die core idx s := rfl
@[simp] theorem exec_smpComplete (die : DieId) (core idx : Nat) (s : State) :
    exec (.smpComplete die core idx) s = execSmpComplete die core idx s := rfl
@[simp] theorem exec_imgStComplete (die : DieId) (core idx : Nat) (s : State) :
    exec (.imgStComplete die core idx) s = execImgStComplete die core idx s := rfl
@[simp] theorem exec_arrayOpComplete (die : DieId) (core : Nat) (s : State) :
    exec (.arrayOpComplete die core) s = execArrayOpComplete die core s := rfl
@[simp] theorem exec_chdefApply (die : DieId) (core : Nat) (s : State) :
    exec (.chdefApply die core) s = execChdefApply die core s := rfl
@[simp] theorem exec_chrunComplete (die : DieId) (core : Nat) (s : State) :
    exec (.chrunComplete die core) s = execChrunComplete die core s := rfl
@[simp] theorem exec_launchQueueWriteIndex (die : DieId) (vi q : Nat) (index : BitVec 16) (s : State) :
    exec (.launchQueueWriteIndex die vi q index) s = execLaunchQueueWriteIndex die vi q index s := rfl
@[simp] theorem exec_frontEndRecordRead (die : DieId) (vi q : Nat) (s : State) :
    exec (.frontEndRecordRead die vi q) s = execFrontEndRecordRead die vi q s := rfl
@[simp] theorem exec_placementPass (die : DieId) (core idx : Nat) (record : Quad) (s : State) :
    exec (.placementPass die core idx record) s = execPlacementPass die core idx record s := rfl
@[simp] theorem exec_launchRetire (die : DieId) (entry : Nat) (s : State) :
    exec (.launchRetire die entry) s = execLaunchRetire die entry s := rfl
@[simp] theorem exec_coalesceFire (die : DieId) (entry : Nat) (s : State) :
    exec (.coalesceFire die entry) s = execCoalesceFire die entry s := rfl
@[simp] theorem exec_preemption (ctx : Nat) (s : State) :
    exec (.preemption ctx) s = execPreemption ctx s := rfl
@[simp] theorem exec_preemptAckComplete (cv : CoveRef) (s : State) :
    exec (.preemptAckComplete cv) s = execPreemptAckComplete cv s := rfl
@[simp] theorem exec_restore (ctx : Nat) (die : DieId) (places : List Place) (s : State) :
    exec (.restore ctx die places) s = execRestore ctx die places s := rfl
@[simp] theorem exec_migration (ctx : Nat) (places : List Place) (s : State) :
    exec (.migration ctx places) s = execMigration ctx places s := rfl
@[simp] theorem exec_checkpoint (ctx : Nat) (s : State) :
    exec (.checkpoint ctx) s = execCheckpoint ctx s := rfl
@[simp] theorem exec_checkpointStream (ctx : Nat) (s : State) :
    exec (.checkpointStream ctx) s = execCheckpointStream ctx s := rfl
@[simp] theorem exec_commitRecordWrite (ctx : Nat) (s : State) :
    exec (.commitRecordWrite ctx) s = execCommitRecordWrite ctx s := rfl
@[simp] theorem exec_commitAck (ctx : Nat) (s : State) :
    exec (.commitAck ctx) s = execCommitAck ctx s := rfl
@[simp] theorem exec_transferRequest (die : DieId) (ctx : Nat) (va : Nat) (s : State) :
    exec (.transferRequest die ctx va) s = execTransferRequest die ctx va s := rfl
@[simp] theorem exec_transferData (die : DieId) (ctx : Nat) (va : Nat) (s : State) :
    exec (.transferData die ctx va) s = execTransferData die ctx va s := rfl
@[simp] theorem exec_transferAck (die : DieId) (ctx : Nat) (va : Nat) (s : State) :
    exec (.transferAck die ctx va) s = execTransferAck die ctx va s := rfl
@[simp] theorem exec_forwardedAccess (id : Nat) (s : State) :
    exec (.forwardedAccess id) s = execForwardedAccess id s := rfl
@[simp] theorem exec_linkReceipt (id : Nat) (s : State) :
    exec (.linkReceipt id) s = execLinkReceipt id s := rfl
@[simp] theorem exec_nonpostedCompletion (id : Nat) (failed : Bool) (data : Quad) (s : State) :
    exec (.nonpostedCompletion id failed data) s = execNonpostedCompletion id failed data s := rfl
@[simp] theorem exec_hostWriteAck (id : Nat) (failed : Bool) (s : State) :
    exec (.hostWriteAck id failed) s = execHostWriteAck id failed s := rfl
@[simp] theorem exec_packetReceive (die : DieId) (pa lines : Nat) (payload : List Byte) (s : State) :
    exec (.packetReceive die pa lines payload) s = execPacketReceive die pa lines payload s := rfl
@[simp] theorem exec_linkUp (partner : Partner) (s : State) :
    exec (.linkUp partner) s = execLinkUp partner s := rfl
@[simp] theorem exec_requestedUndock (places : List (Nat × List Place)) (s : State) :
    exec (.requestedUndock places) s = execRequestedUndock places s := rfl
@[simp] theorem exec_undockDrainComplete (s : State) :
    exec (.undockDrainComplete) s = execUndockDrainComplete s := rfl
@[simp] theorem exec_surpriseRemoval (s : State) :
    exec (.surpriseRemoval) s = execSurpriseRemoval s := rfl
@[simp] theorem exec_surpriseRecovery (ctx : Nat) (places : List Place) (s : State) :
    exec (.surpriseRecovery ctx places) s = execSurpriseRecovery ctx places s := rfl
@[simp] theorem exec_lineAdvance (die : DieId) (head : Nat) (s : State) :
    exec (.lineAdvance die head) s = execLineAdvance die head s := rfl
@[simp] theorem exec_bandLaunch (die : DieId) (head : Nat) (s : State) :
    exec (.bandLaunch die head) s = execBandLaunch die head s := rfl
@[simp] theorem exec_guardLine (die : DieId) (head : Nat) (s : State) :
    exec (.guardLine die head) s = execGuardLine die head s := rfl
@[simp] theorem exec_fallbackFill (die : DieId) (head : Nat) (s : State) :
    exec (.fallbackFill die head) s = execFallbackFill die head s := rfl
@[simp] theorem exec_relayBandSend (die : DieId) (head : Nat) (s : State) :
    exec (.relayBandSend die head) s = execRelayBandSend die head s := rfl
@[simp] theorem exec_relayBandArrival (die : DieId) (head : Nat) (s : State) :
    exec (.relayBandArrival die head) s = execRelayBandArrival die head s := rfl
@[simp] theorem exec_hctlWrite (die : DieId) (head : Nat) (v : DWord) (s : State) :
    exec (.hctlWrite die head v) s = execHctlWrite die head v s := rfl
@[simp] theorem exec_hstatWrite (die : DieId) (head : Nat) (v : DWord) (s : State) :
    exec (.hstatWrite die head v) s = execHstatWrite die head v s := rfl
@[simp] theorem exec_hqueueRead (die : DieId) (head : Nat) (s : State) :
    exec (.hqueueRead die head) s = execHqueueRead die head s := rfl
@[simp] theorem exec_registerWrite (die : DieId) (reg : DevReg) (v : Quad) (s : State) :
    exec (.registerWrite die reg v) s = execRegisterWrite die reg v s := rfl
@[simp] theorem exec_scrubStep (die : DieId) (s : State) :
    exec (.scrubStep die) s = execScrubStep die s := rfl
@[simp] theorem exec_virtualInterfaceReset (die : DieId) (vi : Nat) (s : State) :
    exec (.virtualInterfaceReset die vi) s = execVirtualInterfaceReset die vi s := rfl
@[simp] theorem exec_deviceReset (die : DieId) (s : State) :
    exec (.deviceReset die) s = execDeviceReset die s := rfl
@[simp] theorem exec_lifeCycleChange (die : DieId) (state : LifeCycle) (s : State) :
    exec (.lifeCycleChange die state) s = execLifeCycleChange die state s := rfl
@[simp] theorem exec_powerGood (die : DieId) (image : List Byte) (signature : List Byte) (secVersion : Nat) (s : State) :
    exec (.powerGood die image signature secVersion) s = execPowerGood die image signature secVersion s := rfl
@[simp] theorem exec_deviceDescriptionPublish (die : DieId) (s : State) :
    exec (.deviceDescriptionPublish die) s = execDeviceDescriptionPublish die s := rfl
@[simp] theorem exec_measurementExtend (die : DieId) (reg : Fin 8) (component : List Byte) (s : State) :
    exec (.measurementExtend die reg component) s = execMeasurementExtend die reg component s := rfl
@[simp] theorem exec_attestationRequest (die : DieId) (vi : Nat) (nonce : BitVec 512) (s : State) :
    exec (.attestationRequest die vi nonce) s = execAttestationRequest die vi nonce s := rfl
@[simp] theorem exec_snapshotTrigger (die : DieId) (seq : BitVec 16) (s : State) :
    exec (.snapshotTrigger die seq) s = execSnapshotTrigger die seq s := rfl
@[simp] theorem exec_d3Entry (die : DieId) (cold : Bool) (s : State) :
    exec (.d3Entry die cold) s = execD3Entry die cold s := rfl
@[simp] theorem exec_d0Return (die : DieId) (s : State) :
    exec (.d0Return die) s = execD0Return die s := rfl
@[simp] theorem exec_clockChange (die : DieId) (block : Block) (kilohertz : Nat) (s : State) :
    exec (.clockChange die block kilohertz) s = execClockChange die block kilohertz s := rfl
@[simp] theorem exec_contextCreate (die : DieId) (ctx : Nat) (spec : CtxSpec) (s : State) :
    exec (.contextCreate die ctx spec) s = execContextCreate die ctx spec s := rfl
@[simp] theorem exec_granularityTableWrite (die : DieId) (vi : Nat) (p : Fin 4) (v : BitVec 16) (s : State) :
    exec (.granularityTableWrite die vi p v) s = execGranularityTableWrite die vi p v s := rfl
@[simp] theorem exec_tlbEviction (die : DieId) (core idx : Nat) (s : State) :
    exec (.tlbEviction die core idx) s = execTlbEviction die core idx s := rfl
@[simp] theorem exec_snapshotRearm (die : DieId) (block : Block) (s : State) :
    exec (.snapshotRearm die block) s = execSnapshotRearm die block s := rfl
@[simp] theorem exec_peerWriteAcknowledgement (id : Nat) (s : State) :
    exec (.peerWriteAcknowledgement id) s = execPeerWriteAcknowledgement id s := rfl
@[simp] theorem exec_replicaInvalidation (die : DieId) (idx : Nat) (s : State) :
    exec (.replicaInvalidation die idx) s = execReplicaInvalidation die idx s := rfl
@[simp] theorem exec_hostAccess (die : DieId) (pa : Nat) (data : List Byte) (s : State) :
    exec (.hostAccess die pa data) s = execHostAccess die pa data s := rfl
@[simp] theorem exec_virtualInterfaceCreate (die : DieId) (vi : Nat) (system : Bool) (s : State) :
    exec (.virtualInterfaceCreate die vi system) s = execVirtualInterfaceCreate die vi system s := rfl

end Sys2Proof.Machine
end

