-- ==== Sys2Proof/Laws/State.lean ====
section
/-! SUPPORT. What each update of the state leaves in each field: one equation for each pair. -/

namespace Sys2Proof.Machine

/-! Associations: reading after writing. -/

theorem aget_aput {κ α : Type} [DecidableEq κ] (m : Assoc κ α) (x y : κ) (v : α) :
    aget (aput m x v) y = if y = x then some v else aget m y := by
  induction m with
  | nil => by_cases h : x = y <;> simp [aput, aget, h, eq_comm]
  | cons e m ih =>
    obtain ⟨k, w⟩ := e
    by_cases hk : k = x
    · subst hk
      by_cases h : k = y
      · simp [aput, aget, h]
      · simp [aput, aget, h, Ne.symm h]
    · by_cases h : k = y
      · subst h
        simp [aput, aget, hk]
      · simp [aput, aget, hk, h, ih]

theorem aget_amod {κ α : Type} [DecidableEq κ] (m : Assoc κ α) (x y : κ) (f : α → α) :
    aget (amod m x f) y = if y = x then (aget m x).map f else aget m y := by
  induction m with
  | nil => simp [amod, aget]
  | cons e m ih =>
    obtain ⟨k, w⟩ := e
    by_cases hk : k = x
    · subst hk
      by_cases h : k = y
      · simp [amod, aget, h]
      · simp [amod, aget, h, Ne.symm h]
    · by_cases h : k = y
      · subst h
        simp [amod, aget, hk]
      · simp [amod, aget, hk, h, ih]

theorem amod_congr {κ α : Type} [DecidableEq κ] (m : Assoc κ α) (x : κ) (f g : α → α)
    (h : ∀ v, aget m x = some v → f v = g v) : amod m x f = amod m x g := by
  induction m with
  | nil => rfl
  | cons e m ih =>
    obtain ⟨k, w⟩ := e
    by_cases hk : k = x
    · simp [amod, hk, h w (by simp [aget, hk])]
    · simp only [amod, hk, if_false]
      rw [ih fun v hv => h v (by simpa [aget, hk] using hv)]

/-! `modThread`: every field of the state but one. -/

@[simp] theorem State.modThread_craren (s : State) (r : TRef) (f : Thread → Thread) : (s.modThread r f).craren = s.craren := rfl
@[simp] theorem State.modThread_dukor (s : State) (r : TRef) (f : Thread → Thread) : (s.modThread r f).dukor = s.dukor := rfl
@[simp] theorem State.modThread_link (s : State) (r : TRef) (f : Thread → Thread) : (s.modThread r f).link = s.link := rfl
@[simp] theorem State.modThread_hostBuffer (s : State) (r : TRef) (f : Thread → Thread) : (s.modThread r f).hostBuffer = s.hostBuffer := rfl
@[simp] theorem State.modThread_contexts (s : State) (r : TRef) (f : Thread → Thread) : (s.modThread r f).contexts = s.contexts := rfl
@[simp] theorem State.modThread_coves (s : State) (r : TRef) (f : Thread → Thread) : (s.modThread r f).coves = s.coves := rfl
@[simp] theorem State.modThread_crews (s : State) (r : TRef) (f : Thread → Thread) : (s.modThread r f).crews = s.crews := rfl
@[simp] theorem State.modThread_upsets (s : State) (r : TRef) (f : Thread → Thread) : (s.modThread r f).upsets = s.upsets := rfl
@[simp] theorem State.modThread_reports (s : State) (r : TRef) (f : Thread → Thread) : (s.modThread r f).reports = s.reports := rfl
@[simp] theorem State.modThread_issue (s : State) (r : TRef) (f : Thread → Thread) : (s.modThread r f).issue = s.issue := rfl
@[simp] theorem State.modThread_agenda (s : State) (r : TRef) (f : Thread → Thread) : (s.modThread r f).agenda = s.agenda := rfl
@[simp] theorem State.modThread_turn (s : State) (r : TRef) (f : Thread → Thread) : (s.modThread r f).turn = s.turn := rfl
@[simp] theorem State.modThread_fresh (s : State) (r : TRef) (f : Thread → Thread) : (s.modThread r f).fresh = s.fresh := rfl
@[simp] theorem State.modThread_die (s : State) (r : TRef) (f : Thread → Thread) (d : DieId) : (s.modThread r f).die d = s.die d := by
  cases d <;> rfl
@[simp] theorem State.modThread_core (s : State) (r : TRef) (f : Thread → Thread) (d : DieId) (k : Nat) :
    (s.modThread r f).core d k = s.core d k := by cases d <;> rfl

/-! `modCove`: every field of the state but one. -/

@[simp] theorem State.modCove_craren (s : State) (c : CoveRef) (f : Cove → Cove) : (s.modCove c f).craren = s.craren := rfl
@[simp] theorem State.modCove_dukor (s : State) (c : CoveRef) (f : Cove → Cove) : (s.modCove c f).dukor = s.dukor := rfl
@[simp] theorem State.modCove_link (s : State) (c : CoveRef) (f : Cove → Cove) : (s.modCove c f).link = s.link := rfl
@[simp] theorem State.modCove_hostBuffer (s : State) (c : CoveRef) (f : Cove → Cove) : (s.modCove c f).hostBuffer = s.hostBuffer := rfl
@[simp] theorem State.modCove_contexts (s : State) (c : CoveRef) (f : Cove → Cove) : (s.modCove c f).contexts = s.contexts := rfl
@[simp] theorem State.modCove_crews (s : State) (c : CoveRef) (f : Cove → Cove) : (s.modCove c f).crews = s.crews := rfl
@[simp] theorem State.modCove_threads (s : State) (c : CoveRef) (f : Cove → Cove) : (s.modCove c f).threads = s.threads := rfl
@[simp] theorem State.modCove_upsets (s : State) (c : CoveRef) (f : Cove → Cove) : (s.modCove c f).upsets = s.upsets := rfl
@[simp] theorem State.modCove_reports (s : State) (c : CoveRef) (f : Cove → Cove) : (s.modCove c f).reports = s.reports := rfl
@[simp] theorem State.modCove_issue (s : State) (c : CoveRef) (f : Cove → Cove) : (s.modCove c f).issue = s.issue := rfl
@[simp] theorem State.modCove_agenda (s : State) (c : CoveRef) (f : Cove → Cove) : (s.modCove c f).agenda = s.agenda := rfl
@[simp] theorem State.modCove_turn (s : State) (c : CoveRef) (f : Cove → Cove) : (s.modCove c f).turn = s.turn := rfl
@[simp] theorem State.modCove_fresh (s : State) (c : CoveRef) (f : Cove → Cove) : (s.modCove c f).fresh = s.fresh := rfl
@[simp] theorem State.modCove_die (s : State) (c : CoveRef) (f : Cove → Cove) (d : DieId) : (s.modCove c f).die d = s.die d := by
  cases d <;> rfl
@[simp] theorem State.modCove_core (s : State) (c : CoveRef) (f : Cove → Cove) (d : DieId) (k : Nat) :
    (s.modCove c f).core d k = s.core d k := by cases d <;> rfl

/-! `modCrew`: every field of the state but one. -/

@[simp] theorem State.modCrew_craren (s : State) (c : CoveRef) (n : Nat) (f : Crew → Crew) : (s.modCrew c n f).craren = s.craren := rfl
@[simp] theorem State.modCrew_dukor (s : State) (c : CoveRef) (n : Nat) (f : Crew → Crew) : (s.modCrew c n f).dukor = s.dukor := rfl
@[simp] theorem State.modCrew_link (s : State) (c : CoveRef) (n : Nat) (f : Crew → Crew) : (s.modCrew c n f).link = s.link := rfl
@[simp] theorem State.modCrew_hostBuffer (s : State) (c : CoveRef) (n : Nat) (f : Crew → Crew) : (s.modCrew c n f).hostBuffer = s.hostBuffer := rfl
@[simp] theorem State.modCrew_contexts (s : State) (c : CoveRef) (n : Nat) (f : Crew → Crew) : (s.modCrew c n f).contexts = s.contexts := rfl
@[simp] theorem State.modCrew_coves (s : State) (c : CoveRef) (n : Nat) (f : Crew → Crew) : (s.modCrew c n f).coves = s.coves := rfl
@[simp] theorem State.modCrew_threads (s : State) (c : CoveRef) (n : Nat) (f : Crew → Crew) : (s.modCrew c n f).threads = s.threads := rfl
@[simp] theorem State.modCrew_upsets (s : State) (c : CoveRef) (n : Nat) (f : Crew → Crew) : (s.modCrew c n f).upsets = s.upsets := rfl
@[simp] theorem State.modCrew_reports (s : State) (c : CoveRef) (n : Nat) (f : Crew → Crew) : (s.modCrew c n f).reports = s.reports := rfl
@[simp] theorem State.modCrew_issue (s : State) (c : CoveRef) (n : Nat) (f : Crew → Crew) : (s.modCrew c n f).issue = s.issue := rfl
@[simp] theorem State.modCrew_agenda (s : State) (c : CoveRef) (n : Nat) (f : Crew → Crew) : (s.modCrew c n f).agenda = s.agenda := rfl
@[simp] theorem State.modCrew_turn (s : State) (c : CoveRef) (n : Nat) (f : Crew → Crew) : (s.modCrew c n f).turn = s.turn := rfl
@[simp] theorem State.modCrew_fresh (s : State) (c : CoveRef) (n : Nat) (f : Crew → Crew) : (s.modCrew c n f).fresh = s.fresh := rfl
@[simp] theorem State.modCrew_die (s : State) (c : CoveRef) (n : Nat) (f : Crew → Crew) (d : DieId) : (s.modCrew c n f).die d = s.die d := by
  cases d <;> rfl
@[simp] theorem State.modCrew_core (s : State) (c : CoveRef) (n : Nat) (f : Crew → Crew) (d : DieId) (k : Nat) :
    (s.modCrew c n f).core d k = s.core d k := by cases d <;> rfl

/-! `modCtx`: every field of the state but one. -/

@[simp] theorem State.modCtx_craren (s : State) (n : Nat) (f : Context → Context) : (s.modCtx n f).craren = s.craren := rfl
@[simp] theorem State.modCtx_dukor (s : State) (n : Nat) (f : Context → Context) : (s.modCtx n f).dukor = s.dukor := rfl
@[simp] theorem State.modCtx_link (s : State) (n : Nat) (f : Context → Context) : (s.modCtx n f).link = s.link := rfl
@[simp] theorem State.modCtx_hostBuffer (s : State) (n : Nat) (f : Context → Context) : (s.modCtx n f).hostBuffer = s.hostBuffer := rfl
@[simp] theorem State.modCtx_coves (s : State) (n : Nat) (f : Context → Context) : (s.modCtx n f).coves = s.coves := rfl
@[simp] theorem State.modCtx_crews (s : State) (n : Nat) (f : Context → Context) : (s.modCtx n f).crews = s.crews := rfl
@[simp] theorem State.modCtx_threads (s : State) (n : Nat) (f : Context → Context) : (s.modCtx n f).threads = s.threads := rfl
@[simp] theorem State.modCtx_upsets (s : State) (n : Nat) (f : Context → Context) : (s.modCtx n f).upsets = s.upsets := rfl
@[simp] theorem State.modCtx_reports (s : State) (n : Nat) (f : Context → Context) : (s.modCtx n f).reports = s.reports := rfl
@[simp] theorem State.modCtx_issue (s : State) (n : Nat) (f : Context → Context) : (s.modCtx n f).issue = s.issue := rfl
@[simp] theorem State.modCtx_agenda (s : State) (n : Nat) (f : Context → Context) : (s.modCtx n f).agenda = s.agenda := rfl
@[simp] theorem State.modCtx_turn (s : State) (n : Nat) (f : Context → Context) : (s.modCtx n f).turn = s.turn := rfl
@[simp] theorem State.modCtx_fresh (s : State) (n : Nat) (f : Context → Context) : (s.modCtx n f).fresh = s.fresh := rfl
@[simp] theorem State.modCtx_die (s : State) (n : Nat) (f : Context → Context) (d : DieId) : (s.modCtx n f).die d = s.die d := by
  cases d <;> rfl
@[simp] theorem State.modCtx_core (s : State) (n : Nat) (f : Context → Context) (d : DieId) (k : Nat) :
    (s.modCtx n f).core d k = s.core d k := by cases d <;> rfl

theorem State.modThread_thread_of (s : State) (r : TRef) (f : Thread → Thread) (q : TRef) :
    (s.modThread r f).thread? q = if q = r then (s.thread? r).map f else s.thread? q := aget_amod _ _ _ _
theorem State.modCove_cove_of (s : State) (c : CoveRef) (f : Cove → Cove) (q : CoveRef) :
    (s.modCove c f).cove? q = if q = c then (s.cove? c).map f else s.cove? q := aget_amod _ _ _ _
theorem State.modCtx_ctx_of (s : State) (n : Nat) (f : Context → Context) (q : Nat) :
    (s.modCtx n f).ctx? q = if q = n then (s.ctx? n).map f else s.ctx? q := aget_amod _ _ _ _

@[simp] theorem State.modThread_cove_of (s : State) (r : TRef) (f : Thread → Thread) (q : CoveRef) : (s.modThread r f).cove? q = s.cove? q := rfl
@[simp] theorem State.modThread_ctx_of (s : State) (r : TRef) (f : Thread → Thread) (q : Nat) : (s.modThread r f).ctx? q = s.ctx? q := rfl
@[simp] theorem State.modCove_thread_of (s : State) (c : CoveRef) (f : Cove → Cove) (q : TRef) : (s.modCove c f).thread? q = s.thread? q := rfl
@[simp] theorem State.modCove_ctx_of (s : State) (c : CoveRef) (f : Cove → Cove) (q : Nat) : (s.modCove c f).ctx? q = s.ctx? q := rfl
@[simp] theorem State.modCrew_thread_of (s : State) (c : CoveRef) (n : Nat) (f : Crew → Crew) (q : TRef) : (s.modCrew c n f).thread? q = s.thread? q := rfl
@[simp] theorem State.modCrew_cove_of (s : State) (c : CoveRef) (n : Nat) (f : Crew → Crew) (q : CoveRef) : (s.modCrew c n f).cove? q = s.cove? q := rfl
@[simp] theorem State.modCrew_ctx_of (s : State) (c : CoveRef) (n : Nat) (f : Crew → Crew) (q : Nat) : (s.modCrew c n f).ctx? q = s.ctx? q := rfl
@[simp] theorem State.modCtx_thread_of (s : State) (n : Nat) (f : Context → Context) (q : TRef) : (s.modCtx n f).thread? q = s.thread? q := rfl
@[simp] theorem State.modCtx_cove_of (s : State) (n : Nat) (f : Context → Context) (q : CoveRef) : (s.modCtx n f).cove? q = s.cove? q := rfl

/-- A change of a thread depends only on what it does to the thread found. -/
theorem State.modThread_congr (s : State) (r : TRef) (f g : Thread → Thread)
    (h : ∀ t, s.thread? r = some t → f t = g t) : s.modThread r f = s.modThread r g := by
  simp only [State.modThread, amod_congr _ _ f g h]

/-! The parts of a die: every other field of the state. -/

@[simp] theorem State.setDie_link (s : State) (d : DieId) (x : Die) : (s.setDie d x).link = s.link := by
  cases d <;> rfl
@[simp] theorem State.setDie_hostBuffer (s : State) (d : DieId) (x : Die) : (s.setDie d x).hostBuffer = s.hostBuffer := by
  cases d <;> rfl
@[simp] theorem State.setDie_contexts (s : State) (d : DieId) (x : Die) : (s.setDie d x).contexts = s.contexts := by
  cases d <;> rfl
@[simp] theorem State.setDie_coves (s : State) (d : DieId) (x : Die) : (s.setDie d x).coves = s.coves := by
  cases d <;> rfl
@[simp] theorem State.setDie_crews (s : State) (d : DieId) (x : Die) : (s.setDie d x).crews = s.crews := by
  cases d <;> rfl
@[simp] theorem State.setDie_threads (s : State) (d : DieId) (x : Die) : (s.setDie d x).threads = s.threads := by
  cases d <;> rfl
@[simp] theorem State.setDie_upsets (s : State) (d : DieId) (x : Die) : (s.setDie d x).upsets = s.upsets := by
  cases d <;> rfl
@[simp] theorem State.setDie_reports (s : State) (d : DieId) (x : Die) : (s.setDie d x).reports = s.reports := by
  cases d <;> rfl
@[simp] theorem State.setDie_issue (s : State) (d : DieId) (x : Die) : (s.setDie d x).issue = s.issue := by
  cases d <;> rfl
@[simp] theorem State.setDie_agenda (s : State) (d : DieId) (x : Die) : (s.setDie d x).agenda = s.agenda := by
  cases d <;> rfl
@[simp] theorem State.setDie_turn (s : State) (d : DieId) (x : Die) : (s.setDie d x).turn = s.turn := by
  cases d <;> rfl
@[simp] theorem State.setDie_fresh (s : State) (d : DieId) (x : Die) : (s.setDie d x).fresh = s.fresh := by
  cases d <;> rfl
@[simp] theorem State.modDie_link (s : State) (d : DieId) (f : Die → Die) : (s.modDie d f).link = s.link := by
  cases d <;> rfl
@[simp] theorem State.modDie_hostBuffer (s : State) (d : DieId) (f : Die → Die) : (s.modDie d f).hostBuffer = s.hostBuffer := by
  cases d <;> rfl
@[simp] theorem State.modDie_contexts (s : State) (d : DieId) (f : Die → Die) : (s.modDie d f).contexts = s.contexts := by
  cases d <;> rfl
@[simp] theorem State.modDie_coves (s : State) (d : DieId) (f : Die → Die) : (s.modDie d f).coves = s.coves := by
  cases d <;> rfl
@[simp] theorem State.modDie_crews (s : State) (d : DieId) (f : Die → Die) : (s.modDie d f).crews = s.crews := by
  cases d <;> rfl
@[simp] theorem State.modDie_threads (s : State) (d : DieId) (f : Die → Die) : (s.modDie d f).threads = s.threads := by
  cases d <;> rfl
@[simp] theorem State.modDie_upsets (s : State) (d : DieId) (f : Die → Die) : (s.modDie d f).upsets = s.upsets := by
  cases d <;> rfl
@[simp] theorem State.modDie_reports (s : State) (d : DieId) (f : Die → Die) : (s.modDie d f).reports = s.reports := by
  cases d <;> rfl
@[simp] theorem State.modDie_issue (s : State) (d : DieId) (f : Die → Die) : (s.modDie d f).issue = s.issue := by
  cases d <;> rfl
@[simp] theorem State.modDie_agenda (s : State) (d : DieId) (f : Die → Die) : (s.modDie d f).agenda = s.agenda := by
  cases d <;> rfl
@[simp] theorem State.modDie_turn (s : State) (d : DieId) (f : Die → Die) : (s.modDie d f).turn = s.turn := by
  cases d <;> rfl
@[simp] theorem State.modDie_fresh (s : State) (d : DieId) (f : Die → Die) : (s.modDie d f).fresh = s.fresh := by
  cases d <;> rfl
@[simp] theorem State.modCore_link (s : State) (d : DieId) (n : Nat) (f : Core → Core) : (s.modCore d n f).link = s.link := by
  cases d <;> rfl
@[simp] theorem State.modCore_hostBuffer (s : State) (d : DieId) (n : Nat) (f : Core → Core) : (s.modCore d n f).hostBuffer = s.hostBuffer := by
  cases d <;> rfl
@[simp] theorem State.modCore_contexts (s : State) (d : DieId) (n : Nat) (f : Core → Core) : (s.modCore d n f).contexts = s.contexts := by
  cases d <;> rfl
@[simp] theorem State.modCore_coves (s : State) (d : DieId) (n : Nat) (f : Core → Core) : (s.modCore d n f).coves = s.coves := by
  cases d <;> rfl
@[simp] theorem State.modCore_crews (s : State) (d : DieId) (n : Nat) (f : Core → Core) : (s.modCore d n f).crews = s.crews := by
  cases d <;> rfl
@[simp] theorem State.modCore_threads (s : State) (d : DieId) (n : Nat) (f : Core → Core) : (s.modCore d n f).threads = s.threads := by
  cases d <;> rfl
@[simp] theorem State.modCore_upsets (s : State) (d : DieId) (n : Nat) (f : Core → Core) : (s.modCore d n f).upsets = s.upsets := by
  cases d <;> rfl
@[simp] theorem State.modCore_reports (s : State) (d : DieId) (n : Nat) (f : Core → Core) : (s.modCore d n f).reports = s.reports := by
  cases d <;> rfl
@[simp] theorem State.modCore_issue (s : State) (d : DieId) (n : Nat) (f : Core → Core) : (s.modCore d n f).issue = s.issue := by
  cases d <;> rfl
@[simp] theorem State.modCore_agenda (s : State) (d : DieId) (n : Nat) (f : Core → Core) : (s.modCore d n f).agenda = s.agenda := by
  cases d <;> rfl
@[simp] theorem State.modCore_turn (s : State) (d : DieId) (n : Nat) (f : Core → Core) : (s.modCore d n f).turn = s.turn := by
  cases d <;> rfl
@[simp] theorem State.modCore_fresh (s : State) (d : DieId) (n : Nat) (f : Core → Core) : (s.modCore d n f).fresh = s.fresh := by
  cases d <;> rfl
@[simp] theorem State.modVi_link (s : State) (d : DieId) (n : Nat) (f : Interface → Interface) : (s.modVi d n f).link = s.link := by
  cases d <;> rfl
@[simp] theorem State.modVi_hostBuffer (s : State) (d : DieId) (n : Nat) (f : Interface → Interface) : (s.modVi d n f).hostBuffer = s.hostBuffer := by
  cases d <;> rfl
@[simp] theorem State.modVi_contexts (s : State) (d : DieId) (n : Nat) (f : Interface → Interface) : (s.modVi d n f).contexts = s.contexts := by
  cases d <;> rfl
@[simp] theorem State.modVi_coves (s : State) (d : DieId) (n : Nat) (f : Interface → Interface) : (s.modVi d n f).coves = s.coves := by
  cases d <;> rfl
@[simp] theorem State.modVi_crews (s : State) (d : DieId) (n : Nat) (f : Interface → Interface) : (s.modVi d n f).crews = s.crews := by
  cases d <;> rfl
@[simp] theorem State.modVi_threads (s : State) (d : DieId) (n : Nat) (f : Interface → Interface) : (s.modVi d n f).threads = s.threads := by
  cases d <;> rfl
@[simp] theorem State.modVi_upsets (s : State) (d : DieId) (n : Nat) (f : Interface → Interface) : (s.modVi d n f).upsets = s.upsets := by
  cases d <;> rfl
@[simp] theorem State.modVi_reports (s : State) (d : DieId) (n : Nat) (f : Interface → Interface) : (s.modVi d n f).reports = s.reports := by
  cases d <;> rfl
@[simp] theorem State.modVi_issue (s : State) (d : DieId) (n : Nat) (f : Interface → Interface) : (s.modVi d n f).issue = s.issue := by
  cases d <;> rfl
@[simp] theorem State.modVi_agenda (s : State) (d : DieId) (n : Nat) (f : Interface → Interface) : (s.modVi d n f).agenda = s.agenda := by
  cases d <;> rfl
@[simp] theorem State.modVi_turn (s : State) (d : DieId) (n : Nat) (f : Interface → Interface) : (s.modVi d n f).turn = s.turn := by
  cases d <;> rfl
@[simp] theorem State.modVi_fresh (s : State) (d : DieId) (n : Nat) (f : Interface → Interface) : (s.modVi d n f).fresh = s.fresh := by
  cases d <;> rfl
@[simp] theorem State.modEntry_link (s : State) (d : DieId) (n : Nat) (f : Entry → Entry) : (s.modEntry d n f).link = s.link := by
  cases d <;> rfl
@[simp] theorem State.modEntry_hostBuffer (s : State) (d : DieId) (n : Nat) (f : Entry → Entry) : (s.modEntry d n f).hostBuffer = s.hostBuffer := by
  cases d <;> rfl
@[simp] theorem State.modEntry_contexts (s : State) (d : DieId) (n : Nat) (f : Entry → Entry) : (s.modEntry d n f).contexts = s.contexts := by
  cases d <;> rfl
@[simp] theorem State.modEntry_coves (s : State) (d : DieId) (n : Nat) (f : Entry → Entry) : (s.modEntry d n f).coves = s.coves := by
  cases d <;> rfl
@[simp] theorem State.modEntry_crews (s : State) (d : DieId) (n : Nat) (f : Entry → Entry) : (s.modEntry d n f).crews = s.crews := by
  cases d <;> rfl
@[simp] theorem State.modEntry_threads (s : State) (d : DieId) (n : Nat) (f : Entry → Entry) : (s.modEntry d n f).threads = s.threads := by
  cases d <;> rfl
@[simp] theorem State.modEntry_upsets (s : State) (d : DieId) (n : Nat) (f : Entry → Entry) : (s.modEntry d n f).upsets = s.upsets := by
  cases d <;> rfl
@[simp] theorem State.modEntry_reports (s : State) (d : DieId) (n : Nat) (f : Entry → Entry) : (s.modEntry d n f).reports = s.reports := by
  cases d <;> rfl
@[simp] theorem State.modEntry_issue (s : State) (d : DieId) (n : Nat) (f : Entry → Entry) : (s.modEntry d n f).issue = s.issue := by
  cases d <;> rfl
@[simp] theorem State.modEntry_agenda (s : State) (d : DieId) (n : Nat) (f : Entry → Entry) : (s.modEntry d n f).agenda = s.agenda := by
  cases d <;> rfl
@[simp] theorem State.modEntry_turn (s : State) (d : DieId) (n : Nat) (f : Entry → Entry) : (s.modEntry d n f).turn = s.turn := by
  cases d <;> rfl
@[simp] theorem State.modEntry_fresh (s : State) (d : DieId) (n : Nat) (f : Entry → Entry) : (s.modEntry d n f).fresh = s.fresh := by
  cases d <;> rfl
@[simp] theorem State.modHead_link (s : State) (d : DieId) (n : Nat) (f : Head → Head) : (s.modHead d n f).link = s.link := by
  cases d <;> rfl
@[simp] theorem State.modHead_hostBuffer (s : State) (d : DieId) (n : Nat) (f : Head → Head) : (s.modHead d n f).hostBuffer = s.hostBuffer := by
  cases d <;> rfl
@[simp] theorem State.modHead_contexts (s : State) (d : DieId) (n : Nat) (f : Head → Head) : (s.modHead d n f).contexts = s.contexts := by
  cases d <;> rfl
@[simp] theorem State.modHead_coves (s : State) (d : DieId) (n : Nat) (f : Head → Head) : (s.modHead d n f).coves = s.coves := by
  cases d <;> rfl
@[simp] theorem State.modHead_crews (s : State) (d : DieId) (n : Nat) (f : Head → Head) : (s.modHead d n f).crews = s.crews := by
  cases d <;> rfl
@[simp] theorem State.modHead_threads (s : State) (d : DieId) (n : Nat) (f : Head → Head) : (s.modHead d n f).threads = s.threads := by
  cases d <;> rfl
@[simp] theorem State.modHead_upsets (s : State) (d : DieId) (n : Nat) (f : Head → Head) : (s.modHead d n f).upsets = s.upsets := by
  cases d <;> rfl
@[simp] theorem State.modHead_reports (s : State) (d : DieId) (n : Nat) (f : Head → Head) : (s.modHead d n f).reports = s.reports := by
  cases d <;> rfl
@[simp] theorem State.modHead_issue (s : State) (d : DieId) (n : Nat) (f : Head → Head) : (s.modHead d n f).issue = s.issue := by
  cases d <;> rfl
@[simp] theorem State.modHead_agenda (s : State) (d : DieId) (n : Nat) (f : Head → Head) : (s.modHead d n f).agenda = s.agenda := by
  cases d <;> rfl
@[simp] theorem State.modHead_turn (s : State) (d : DieId) (n : Nat) (f : Head → Head) : (s.modHead d n f).turn = s.turn := by
  cases d <;> rfl
@[simp] theorem State.modHead_fresh (s : State) (d : DieId) (n : Nat) (f : Head → Head) : (s.modHead d n f).fresh = s.fresh := by
  cases d <;> rfl

@[simp] theorem State.setDie_die (s : State) (d e : DieId) (x : Die) :
    (s.setDie d x).die e = if e = d then x else s.die e := by cases d <;> cases e <;> rfl
@[simp] theorem State.modDie_die (s : State) (d e : DieId) (f : Die → Die) :
    (s.modDie d f).die e = if e = d then f (s.die d) else s.die e := by cases d <;> cases e <;> rfl

@[simp] theorem State.modCore_die_dram (s : State) (d : DieId) (n : Nat) (f : Core → Core) (e : DieId) :
    ((s.modCore d n f).die e).dram = (s.die e).dram := by cases d <;> cases e <;> rfl
@[simp] theorem State.modCore_die_tags (s : State) (d : DieId) (n : Nat) (f : Core → Core) (e : DieId) :
    ((s.modCore d n f).die e).tags = (s.die e).tags := by cases d <;> cases e <;> rfl
@[simp] theorem State.modCore_die_poisoned (s : State) (d : DieId) (n : Nat) (f : Core → Core) (e : DieId) :
    ((s.modCore d n f).die e).poisoned = (s.die e).poisoned := by cases d <;> cases e <;> rfl
@[simp] theorem State.modCore_die_retired (s : State) (d : DieId) (n : Nat) (f : Core → Core) (e : DieId) :
    ((s.modCore d n f).die e).retired = (s.die e).retired := by cases d <;> cases e <;> rfl
@[simp] theorem State.modCore_die_directory (s : State) (d : DieId) (n : Nat) (f : Core → Core) (e : DieId) :
    ((s.modCore d n f).die e).directory = (s.die e).directory := by cases d <;> cases e <;> rfl
@[simp] theorem State.modCore_die_cipher (s : State) (d : DieId) (n : Nat) (f : Core → Core) (e : DieId) :
    ((s.modCore d n f).die e).cipher = (s.die e).cipher := by cases d <;> cases e <;> rfl
@[simp] theorem State.modCore_die_pool (s : State) (d : DieId) (n : Nat) (f : Core → Core) (e : DieId) :
    ((s.modCore d n f).die e).pool = (s.die e).pool := by cases d <;> cases e <;> rfl
@[simp] theorem State.modCore_die_poolGranules (s : State) (d : DieId) (n : Nat) (f : Core → Core) (e : DieId) :
    ((s.modCore d n f).die e).poolGranules = (s.die e).poolGranules := by cases d <;> cases e <;> rfl
@[simp] theorem State.modCore_die_replicas (s : State) (d : DieId) (n : Nat) (f : Core → Core) (e : DieId) :
    ((s.modCore d n f).die e).replicas = (s.die e).replicas := by cases d <;> cases e <;> rfl
@[simp] theorem State.modCore_die_tlb2 (s : State) (d : DieId) (n : Nat) (f : Core → Core) (e : DieId) :
    ((s.modCore d n f).die e).tlb2 = (s.die e).tlb2 := by cases d <;> cases e <;> rfl
@[simp] theorem State.modCore_die_remaps (s : State) (d : DieId) (n : Nat) (f : Core → Core) (e : DieId) :
    ((s.modCore d n f).die e).remaps = (s.die e).remaps := by cases d <;> cases e <;> rfl
@[simp] theorem State.modCore_die_vis (s : State) (d : DieId) (n : Nat) (f : Core → Core) (e : DieId) :
    ((s.modCore d n f).die e).vis = (s.die e).vis := by cases d <;> cases e <;> rfl
@[simp] theorem State.modCore_die_entries (s : State) (d : DieId) (n : Nat) (f : Core → Core) (e : DieId) :
    ((s.modCore d n f).die e).entries = (s.die e).entries := by cases d <;> cases e <;> rfl
@[simp] theorem State.modCore_die_slots (s : State) (d : DieId) (n : Nat) (f : Core → Core) (e : DieId) :
    ((s.modCore d n f).die e).slots = (s.die e).slots := by cases d <;> cases e <;> rfl
@[simp] theorem State.modCore_die_scrub (s : State) (d : DieId) (n : Nat) (f : Core → Core) (e : DieId) :
    ((s.modCore d n f).die e).scrub = (s.die e).scrub := by cases d <;> cases e <;> rfl
@[simp] theorem State.modCore_die_scrubPos (s : State) (d : DieId) (n : Nat) (f : Core → Core) (e : DieId) :
    ((s.modCore d n f).die e).scrubPos = (s.die e).scrubPos := by cases d <;> cases e <;> rfl
@[simp] theorem State.modCore_die_scrubDone (s : State) (d : DieId) (n : Nat) (f : Core → Core) (e : DieId) :
    ((s.modCore d n f).die e).scrubDone = (s.die e).scrubDone := by cases d <;> cases e <;> rfl
@[simp] theorem State.modCore_die_scrubWait (s : State) (d : DieId) (n : Nat) (f : Core → Core) (e : DieId) :
    ((s.modCore d n f).die e).scrubWait = (s.die e).scrubWait := by cases d <;> cases e <;> rfl
@[simp] theorem State.modCore_die_heads (s : State) (d : DieId) (n : Nat) (f : Core → Core) (e : DieId) :
    ((s.modCore d n f).die e).heads = (s.die e).heads := by cases d <;> cases e <;> rfl
@[simp] theorem State.modCore_die_memErrors (s : State) (d : DieId) (n : Nat) (f : Core → Core) (e : DieId) :
    ((s.modCore d n f).die e).memErrors = (s.die e).memErrors := by cases d <;> cases e <;> rfl
@[simp] theorem State.modCore_die_poisonCount (s : State) (d : DieId) (n : Nat) (f : Core → Core) (e : DieId) :
    ((s.modCore d n f).die e).poisonCount = (s.die e).poisonCount := by cases d <;> cases e <;> rfl
@[simp] theorem State.modCore_die_entropy (s : State) (d : DieId) (n : Nat) (f : Core → Core) (e : DieId) :
    ((s.modCore d n f).die e).entropy = (s.die e).entropy := by cases d <;> cases e <;> rfl
@[simp] theorem State.modCore_die_sram (s : State) (d : DieId) (n : Nat) (f : Core → Core) (e : DieId) :
    ((s.modCore d n f).die e).sram = (s.die e).sram := by cases d <;> cases e <;> rfl
@[simp] theorem State.modCore_die_measures (s : State) (d : DieId) (n : Nat) (f : Core → Core) (e : DieId) :
    ((s.modCore d n f).die e).measures = (s.die e).measures := by cases d <;> cases e <;> rfl
@[simp] theorem State.modCore_die_identity (s : State) (d : DieId) (n : Nat) (f : Core → Core) (e : DieId) :
    ((s.modCore d n f).die e).identity = (s.die e).identity := by cases d <;> cases e <;> rfl
@[simp] theorem State.modCore_die_version (s : State) (d : DieId) (n : Nat) (f : Core → Core) (e : DieId) :
    ((s.modCore d n f).die e).version = (s.die e).version := by cases d <;> cases e <;> rfl
@[simp] theorem State.modCore_die_lifeCycle (s : State) (d : DieId) (n : Nat) (f : Core → Core) (e : DieId) :
    ((s.modCore d n f).die e).lifeCycle = (s.die e).lifeCycle := by cases d <;> cases e <;> rfl
@[simp] theorem State.modCore_die_power (s : State) (d : DieId) (n : Nat) (f : Core → Core) (e : DieId) :
    ((s.modCore d n f).die e).power = (s.die e).power := by cases d <;> cases e <;> rfl
@[simp] theorem State.modCore_die_description (s : State) (d : DieId) (n : Nat) (f : Core → Core) (e : DieId) :
    ((s.modCore d n f).die e).description = (s.die e).description := by cases d <;> cases e <;> rfl
@[simp] theorem State.modCore_die_report (s : State) (d : DieId) (n : Nat) (f : Core → Core) (e : DieId) :
    ((s.modCore d n f).die e).report = (s.die e).report := by cases d <;> cases e <;> rfl
@[simp] theorem State.modCore_die_clocks (s : State) (d : DieId) (n : Nat) (f : Core → Core) (e : DieId) :
    ((s.modCore d n f).die e).clocks = (s.die e).clocks := by cases d <;> cases e <;> rfl
@[simp] theorem State.modCore_die_spent (s : State) (d : DieId) (n : Nat) (f : Core → Core) (e : DieId) :
    ((s.modCore d n f).die e).spent = (s.die e).spent := by cases d <;> cases e <;> rfl
@[simp] theorem State.modCore_die_latched (s : State) (d : DieId) (n : Nat) (f : Core → Core) (e : DieId) :
    ((s.modCore d n f).die e).latched = (s.die e).latched := by cases d <;> cases e <;> rfl
@[simp] theorem State.modCore_die_seen (s : State) (d : DieId) (n : Nat) (f : Core → Core) (e : DieId) :
    ((s.modCore d n f).die e).seen = (s.die e).seen := by cases d <;> cases e <;> rfl
@[simp] theorem State.modCore_die_faultKinds (s : State) (d : DieId) (n : Nat) (f : Core → Core) (e : DieId) :
    ((s.modCore d n f).die e).faultKinds = (s.die e).faultKinds := by cases d <;> cases e <;> rfl
@[simp] theorem State.modCore_die_flash (s : State) (d : DieId) (n : Nat) (f : Core → Core) (e : DieId) :
    ((s.modCore d n f).die e).flash = (s.die e).flash := by cases d <;> cases e <;> rfl
@[simp] theorem State.modCore_die_publicKey (s : State) (d : DieId) (n : Nat) (f : Core → Core) (e : DieId) :
    ((s.modCore d n f).die e).publicKey = (s.die e).publicKey := by cases d <;> cases e <;> rfl
@[simp] theorem State.modCore_die_certificate (s : State) (d : DieId) (n : Nat) (f : Core → Core) (e : DieId) :
    ((s.modCore d n f).die e).certificate = (s.die e).certificate := by cases d <;> cases e <;> rfl
@[simp] theorem State.modVi_die_dram (s : State) (d : DieId) (n : Nat) (f : Interface → Interface) (e : DieId) :
    ((s.modVi d n f).die e).dram = (s.die e).dram := by cases d <;> cases e <;> rfl
@[simp] theorem State.modVi_die_tags (s : State) (d : DieId) (n : Nat) (f : Interface → Interface) (e : DieId) :
    ((s.modVi d n f).die e).tags = (s.die e).tags := by cases d <;> cases e <;> rfl
@[simp] theorem State.modVi_die_poisoned (s : State) (d : DieId) (n : Nat) (f : Interface → Interface) (e : DieId) :
    ((s.modVi d n f).die e).poisoned = (s.die e).poisoned := by cases d <;> cases e <;> rfl
@[simp] theorem State.modVi_die_retired (s : State) (d : DieId) (n : Nat) (f : Interface → Interface) (e : DieId) :
    ((s.modVi d n f).die e).retired = (s.die e).retired := by cases d <;> cases e <;> rfl
@[simp] theorem State.modVi_die_directory (s : State) (d : DieId) (n : Nat) (f : Interface → Interface) (e : DieId) :
    ((s.modVi d n f).die e).directory = (s.die e).directory := by cases d <;> cases e <;> rfl
@[simp] theorem State.modVi_die_cipher (s : State) (d : DieId) (n : Nat) (f : Interface → Interface) (e : DieId) :
    ((s.modVi d n f).die e).cipher = (s.die e).cipher := by cases d <;> cases e <;> rfl
@[simp] theorem State.modVi_die_pool (s : State) (d : DieId) (n : Nat) (f : Interface → Interface) (e : DieId) :
    ((s.modVi d n f).die e).pool = (s.die e).pool := by cases d <;> cases e <;> rfl
@[simp] theorem State.modVi_die_poolGranules (s : State) (d : DieId) (n : Nat) (f : Interface → Interface) (e : DieId) :
    ((s.modVi d n f).die e).poolGranules = (s.die e).poolGranules := by cases d <;> cases e <;> rfl
@[simp] theorem State.modVi_die_replicas (s : State) (d : DieId) (n : Nat) (f : Interface → Interface) (e : DieId) :
    ((s.modVi d n f).die e).replicas = (s.die e).replicas := by cases d <;> cases e <;> rfl
@[simp] theorem State.modVi_die_cores (s : State) (d : DieId) (n : Nat) (f : Interface → Interface) (e : DieId) :
    ((s.modVi d n f).die e).cores = (s.die e).cores := by cases d <;> cases e <;> rfl
@[simp] theorem State.modVi_die_tlb2 (s : State) (d : DieId) (n : Nat) (f : Interface → Interface) (e : DieId) :
    ((s.modVi d n f).die e).tlb2 = (s.die e).tlb2 := by cases d <;> cases e <;> rfl
@[simp] theorem State.modVi_die_remaps (s : State) (d : DieId) (n : Nat) (f : Interface → Interface) (e : DieId) :
    ((s.modVi d n f).die e).remaps = (s.die e).remaps := by cases d <;> cases e <;> rfl
@[simp] theorem State.modVi_die_entries (s : State) (d : DieId) (n : Nat) (f : Interface → Interface) (e : DieId) :
    ((s.modVi d n f).die e).entries = (s.die e).entries := by cases d <;> cases e <;> rfl
@[simp] theorem State.modVi_die_slots (s : State) (d : DieId) (n : Nat) (f : Interface → Interface) (e : DieId) :
    ((s.modVi d n f).die e).slots = (s.die e).slots := by cases d <;> cases e <;> rfl
@[simp] theorem State.modVi_die_scrub (s : State) (d : DieId) (n : Nat) (f : Interface → Interface) (e : DieId) :
    ((s.modVi d n f).die e).scrub = (s.die e).scrub := by cases d <;> cases e <;> rfl
@[simp] theorem State.modVi_die_scrubPos (s : State) (d : DieId) (n : Nat) (f : Interface → Interface) (e : DieId) :
    ((s.modVi d n f).die e).scrubPos = (s.die e).scrubPos := by cases d <;> cases e <;> rfl
@[simp] theorem State.modVi_die_scrubDone (s : State) (d : DieId) (n : Nat) (f : Interface → Interface) (e : DieId) :
    ((s.modVi d n f).die e).scrubDone = (s.die e).scrubDone := by cases d <;> cases e <;> rfl
@[simp] theorem State.modVi_die_scrubWait (s : State) (d : DieId) (n : Nat) (f : Interface → Interface) (e : DieId) :
    ((s.modVi d n f).die e).scrubWait = (s.die e).scrubWait := by cases d <;> cases e <;> rfl
@[simp] theorem State.modVi_die_heads (s : State) (d : DieId) (n : Nat) (f : Interface → Interface) (e : DieId) :
    ((s.modVi d n f).die e).heads = (s.die e).heads := by cases d <;> cases e <;> rfl
@[simp] theorem State.modVi_die_memErrors (s : State) (d : DieId) (n : Nat) (f : Interface → Interface) (e : DieId) :
    ((s.modVi d n f).die e).memErrors = (s.die e).memErrors := by cases d <;> cases e <;> rfl
@[simp] theorem State.modVi_die_poisonCount (s : State) (d : DieId) (n : Nat) (f : Interface → Interface) (e : DieId) :
    ((s.modVi d n f).die e).poisonCount = (s.die e).poisonCount := by cases d <;> cases e <;> rfl
@[simp] theorem State.modVi_die_entropy (s : State) (d : DieId) (n : Nat) (f : Interface → Interface) (e : DieId) :
    ((s.modVi d n f).die e).entropy = (s.die e).entropy := by cases d <;> cases e <;> rfl
@[simp] theorem State.modVi_die_sram (s : State) (d : DieId) (n : Nat) (f : Interface → Interface) (e : DieId) :
    ((s.modVi d n f).die e).sram = (s.die e).sram := by cases d <;> cases e <;> rfl
@[simp] theorem State.modVi_die_measures (s : State) (d : DieId) (n : Nat) (f : Interface → Interface) (e : DieId) :
    ((s.modVi d n f).die e).measures = (s.die e).measures := by cases d <;> cases e <;> rfl
@[simp] theorem State.modVi_die_identity (s : State) (d : DieId) (n : Nat) (f : Interface → Interface) (e : DieId) :
    ((s.modVi d n f).die e).identity = (s.die e).identity := by cases d <;> cases e <;> rfl
@[simp] theorem State.modVi_die_version (s : State) (d : DieId) (n : Nat) (f : Interface → Interface) (e : DieId) :
    ((s.modVi d n f).die e).version = (s.die e).version := by cases d <;> cases e <;> rfl
@[simp] theorem State.modVi_die_lifeCycle (s : State) (d : DieId) (n : Nat) (f : Interface → Interface) (e : DieId) :
    ((s.modVi d n f).die e).lifeCycle = (s.die e).lifeCycle := by cases d <;> cases e <;> rfl
@[simp] theorem State.modVi_die_power (s : State) (d : DieId) (n : Nat) (f : Interface → Interface) (e : DieId) :
    ((s.modVi d n f).die e).power = (s.die e).power := by cases d <;> cases e <;> rfl
@[simp] theorem State.modVi_die_description (s : State) (d : DieId) (n : Nat) (f : Interface → Interface) (e : DieId) :
    ((s.modVi d n f).die e).description = (s.die e).description := by cases d <;> cases e <;> rfl
@[simp] theorem State.modVi_die_report (s : State) (d : DieId) (n : Nat) (f : Interface → Interface) (e : DieId) :
    ((s.modVi d n f).die e).report = (s.die e).report := by cases d <;> cases e <;> rfl
@[simp] theorem State.modVi_die_clocks (s : State) (d : DieId) (n : Nat) (f : Interface → Interface) (e : DieId) :
    ((s.modVi d n f).die e).clocks = (s.die e).clocks := by cases d <;> cases e <;> rfl
@[simp] theorem State.modVi_die_spent (s : State) (d : DieId) (n : Nat) (f : Interface → Interface) (e : DieId) :
    ((s.modVi d n f).die e).spent = (s.die e).spent := by cases d <;> cases e <;> rfl
@[simp] theorem State.modVi_die_latched (s : State) (d : DieId) (n : Nat) (f : Interface → Interface) (e : DieId) :
    ((s.modVi d n f).die e).latched = (s.die e).latched := by cases d <;> cases e <;> rfl
@[simp] theorem State.modVi_die_seen (s : State) (d : DieId) (n : Nat) (f : Interface → Interface) (e : DieId) :
    ((s.modVi d n f).die e).seen = (s.die e).seen := by cases d <;> cases e <;> rfl
@[simp] theorem State.modVi_die_faultKinds (s : State) (d : DieId) (n : Nat) (f : Interface → Interface) (e : DieId) :
    ((s.modVi d n f).die e).faultKinds = (s.die e).faultKinds := by cases d <;> cases e <;> rfl
@[simp] theorem State.modVi_die_flash (s : State) (d : DieId) (n : Nat) (f : Interface → Interface) (e : DieId) :
    ((s.modVi d n f).die e).flash = (s.die e).flash := by cases d <;> cases e <;> rfl
@[simp] theorem State.modVi_die_publicKey (s : State) (d : DieId) (n : Nat) (f : Interface → Interface) (e : DieId) :
    ((s.modVi d n f).die e).publicKey = (s.die e).publicKey := by cases d <;> cases e <;> rfl
@[simp] theorem State.modVi_die_certificate (s : State) (d : DieId) (n : Nat) (f : Interface → Interface) (e : DieId) :
    ((s.modVi d n f).die e).certificate = (s.die e).certificate := by cases d <;> cases e <;> rfl
@[simp] theorem State.modEntry_die_dram (s : State) (d : DieId) (n : Nat) (f : Entry → Entry) (e : DieId) :
    ((s.modEntry d n f).die e).dram = (s.die e).dram := by cases d <;> cases e <;> rfl
@[simp] theorem State.modEntry_die_tags (s : State) (d : DieId) (n : Nat) (f : Entry → Entry) (e : DieId) :
    ((s.modEntry d n f).die e).tags = (s.die e).tags := by cases d <;> cases e <;> rfl
@[simp] theorem State.modEntry_die_poisoned (s : State) (d : DieId) (n : Nat) (f : Entry → Entry) (e : DieId) :
    ((s.modEntry d n f).die e).poisoned = (s.die e).poisoned := by cases d <;> cases e <;> rfl
@[simp] theorem State.modEntry_die_retired (s : State) (d : DieId) (n : Nat) (f : Entry → Entry) (e : DieId) :
    ((s.modEntry d n f).die e).retired = (s.die e).retired := by cases d <;> cases e <;> rfl
@[simp] theorem State.modEntry_die_directory (s : State) (d : DieId) (n : Nat) (f : Entry → Entry) (e : DieId) :
    ((s.modEntry d n f).die e).directory = (s.die e).directory := by cases d <;> cases e <;> rfl
@[simp] theorem State.modEntry_die_cipher (s : State) (d : DieId) (n : Nat) (f : Entry → Entry) (e : DieId) :
    ((s.modEntry d n f).die e).cipher = (s.die e).cipher := by cases d <;> cases e <;> rfl
@[simp] theorem State.modEntry_die_pool (s : State) (d : DieId) (n : Nat) (f : Entry → Entry) (e : DieId) :
    ((s.modEntry d n f).die e).pool = (s.die e).pool := by cases d <;> cases e <;> rfl
@[simp] theorem State.modEntry_die_poolGranules (s : State) (d : DieId) (n : Nat) (f : Entry → Entry) (e : DieId) :
    ((s.modEntry d n f).die e).poolGranules = (s.die e).poolGranules := by cases d <;> cases e <;> rfl
@[simp] theorem State.modEntry_die_replicas (s : State) (d : DieId) (n : Nat) (f : Entry → Entry) (e : DieId) :
    ((s.modEntry d n f).die e).replicas = (s.die e).replicas := by cases d <;> cases e <;> rfl
@[simp] theorem State.modEntry_die_cores (s : State) (d : DieId) (n : Nat) (f : Entry → Entry) (e : DieId) :
    ((s.modEntry d n f).die e).cores = (s.die e).cores := by cases d <;> cases e <;> rfl
@[simp] theorem State.modEntry_die_tlb2 (s : State) (d : DieId) (n : Nat) (f : Entry → Entry) (e : DieId) :
    ((s.modEntry d n f).die e).tlb2 = (s.die e).tlb2 := by cases d <;> cases e <;> rfl
@[simp] theorem State.modEntry_die_remaps (s : State) (d : DieId) (n : Nat) (f : Entry → Entry) (e : DieId) :
    ((s.modEntry d n f).die e).remaps = (s.die e).remaps := by cases d <;> cases e <;> rfl
@[simp] theorem State.modEntry_die_vis (s : State) (d : DieId) (n : Nat) (f : Entry → Entry) (e : DieId) :
    ((s.modEntry d n f).die e).vis = (s.die e).vis := by cases d <;> cases e <;> rfl
@[simp] theorem State.modEntry_die_slots (s : State) (d : DieId) (n : Nat) (f : Entry → Entry) (e : DieId) :
    ((s.modEntry d n f).die e).slots = (s.die e).slots := by cases d <;> cases e <;> rfl
@[simp] theorem State.modEntry_die_scrub (s : State) (d : DieId) (n : Nat) (f : Entry → Entry) (e : DieId) :
    ((s.modEntry d n f).die e).scrub = (s.die e).scrub := by cases d <;> cases e <;> rfl
@[simp] theorem State.modEntry_die_scrubPos (s : State) (d : DieId) (n : Nat) (f : Entry → Entry) (e : DieId) :
    ((s.modEntry d n f).die e).scrubPos = (s.die e).scrubPos := by cases d <;> cases e <;> rfl
@[simp] theorem State.modEntry_die_scrubDone (s : State) (d : DieId) (n : Nat) (f : Entry → Entry) (e : DieId) :
    ((s.modEntry d n f).die e).scrubDone = (s.die e).scrubDone := by cases d <;> cases e <;> rfl
@[simp] theorem State.modEntry_die_scrubWait (s : State) (d : DieId) (n : Nat) (f : Entry → Entry) (e : DieId) :
    ((s.modEntry d n f).die e).scrubWait = (s.die e).scrubWait := by cases d <;> cases e <;> rfl
@[simp] theorem State.modEntry_die_heads (s : State) (d : DieId) (n : Nat) (f : Entry → Entry) (e : DieId) :
    ((s.modEntry d n f).die e).heads = (s.die e).heads := by cases d <;> cases e <;> rfl
@[simp] theorem State.modEntry_die_memErrors (s : State) (d : DieId) (n : Nat) (f : Entry → Entry) (e : DieId) :
    ((s.modEntry d n f).die e).memErrors = (s.die e).memErrors := by cases d <;> cases e <;> rfl
@[simp] theorem State.modEntry_die_poisonCount (s : State) (d : DieId) (n : Nat) (f : Entry → Entry) (e : DieId) :
    ((s.modEntry d n f).die e).poisonCount = (s.die e).poisonCount := by cases d <;> cases e <;> rfl
@[simp] theorem State.modEntry_die_entropy (s : State) (d : DieId) (n : Nat) (f : Entry → Entry) (e : DieId) :
    ((s.modEntry d n f).die e).entropy = (s.die e).entropy := by cases d <;> cases e <;> rfl
@[simp] theorem State.modEntry_die_sram (s : State) (d : DieId) (n : Nat) (f : Entry → Entry) (e : DieId) :
    ((s.modEntry d n f).die e).sram = (s.die e).sram := by cases d <;> cases e <;> rfl
@[simp] theorem State.modEntry_die_measures (s : State) (d : DieId) (n : Nat) (f : Entry → Entry) (e : DieId) :
    ((s.modEntry d n f).die e).measures = (s.die e).measures := by cases d <;> cases e <;> rfl
@[simp] theorem State.modEntry_die_identity (s : State) (d : DieId) (n : Nat) (f : Entry → Entry) (e : DieId) :
    ((s.modEntry d n f).die e).identity = (s.die e).identity := by cases d <;> cases e <;> rfl
@[simp] theorem State.modEntry_die_version (s : State) (d : DieId) (n : Nat) (f : Entry → Entry) (e : DieId) :
    ((s.modEntry d n f).die e).version = (s.die e).version := by cases d <;> cases e <;> rfl
@[simp] theorem State.modEntry_die_lifeCycle (s : State) (d : DieId) (n : Nat) (f : Entry → Entry) (e : DieId) :
    ((s.modEntry d n f).die e).lifeCycle = (s.die e).lifeCycle := by cases d <;> cases e <;> rfl
@[simp] theorem State.modEntry_die_power (s : State) (d : DieId) (n : Nat) (f : Entry → Entry) (e : DieId) :
    ((s.modEntry d n f).die e).power = (s.die e).power := by cases d <;> cases e <;> rfl
@[simp] theorem State.modEntry_die_description (s : State) (d : DieId) (n : Nat) (f : Entry → Entry) (e : DieId) :
    ((s.modEntry d n f).die e).description = (s.die e).description := by cases d <;> cases e <;> rfl
@[simp] theorem State.modEntry_die_report (s : State) (d : DieId) (n : Nat) (f : Entry → Entry) (e : DieId) :
    ((s.modEntry d n f).die e).report = (s.die e).report := by cases d <;> cases e <;> rfl
@[simp] theorem State.modEntry_die_clocks (s : State) (d : DieId) (n : Nat) (f : Entry → Entry) (e : DieId) :
    ((s.modEntry d n f).die e).clocks = (s.die e).clocks := by cases d <;> cases e <;> rfl
@[simp] theorem State.modEntry_die_spent (s : State) (d : DieId) (n : Nat) (f : Entry → Entry) (e : DieId) :
    ((s.modEntry d n f).die e).spent = (s.die e).spent := by cases d <;> cases e <;> rfl
@[simp] theorem State.modEntry_die_latched (s : State) (d : DieId) (n : Nat) (f : Entry → Entry) (e : DieId) :
    ((s.modEntry d n f).die e).latched = (s.die e).latched := by cases d <;> cases e <;> rfl
@[simp] theorem State.modEntry_die_seen (s : State) (d : DieId) (n : Nat) (f : Entry → Entry) (e : DieId) :
    ((s.modEntry d n f).die e).seen = (s.die e).seen := by cases d <;> cases e <;> rfl
@[simp] theorem State.modEntry_die_faultKinds (s : State) (d : DieId) (n : Nat) (f : Entry → Entry) (e : DieId) :
    ((s.modEntry d n f).die e).faultKinds = (s.die e).faultKinds := by cases d <;> cases e <;> rfl
@[simp] theorem State.modEntry_die_flash (s : State) (d : DieId) (n : Nat) (f : Entry → Entry) (e : DieId) :
    ((s.modEntry d n f).die e).flash = (s.die e).flash := by cases d <;> cases e <;> rfl
@[simp] theorem State.modEntry_die_publicKey (s : State) (d : DieId) (n : Nat) (f : Entry → Entry) (e : DieId) :
    ((s.modEntry d n f).die e).publicKey = (s.die e).publicKey := by cases d <;> cases e <;> rfl
@[simp] theorem State.modEntry_die_certificate (s : State) (d : DieId) (n : Nat) (f : Entry → Entry) (e : DieId) :
    ((s.modEntry d n f).die e).certificate = (s.die e).certificate := by cases d <;> cases e <;> rfl
@[simp] theorem State.modHead_die_dram (s : State) (d : DieId) (n : Nat) (f : Head → Head) (e : DieId) :
    ((s.modHead d n f).die e).dram = (s.die e).dram := by cases d <;> cases e <;> rfl
@[simp] theorem State.modHead_die_tags (s : State) (d : DieId) (n : Nat) (f : Head → Head) (e : DieId) :
    ((s.modHead d n f).die e).tags = (s.die e).tags := by cases d <;> cases e <;> rfl
@[simp] theorem State.modHead_die_poisoned (s : State) (d : DieId) (n : Nat) (f : Head → Head) (e : DieId) :
    ((s.modHead d n f).die e).poisoned = (s.die e).poisoned := by cases d <;> cases e <;> rfl
@[simp] theorem State.modHead_die_retired (s : State) (d : DieId) (n : Nat) (f : Head → Head) (e : DieId) :
    ((s.modHead d n f).die e).retired = (s.die e).retired := by cases d <;> cases e <;> rfl
@[simp] theorem State.modHead_die_directory (s : State) (d : DieId) (n : Nat) (f : Head → Head) (e : DieId) :
    ((s.modHead d n f).die e).directory = (s.die e).directory := by cases d <;> cases e <;> rfl
@[simp] theorem State.modHead_die_cipher (s : State) (d : DieId) (n : Nat) (f : Head → Head) (e : DieId) :
    ((s.modHead d n f).die e).cipher = (s.die e).cipher := by cases d <;> cases e <;> rfl
@[simp] theorem State.modHead_die_pool (s : State) (d : DieId) (n : Nat) (f : Head → Head) (e : DieId) :
    ((s.modHead d n f).die e).pool = (s.die e).pool := by cases d <;> cases e <;> rfl
@[simp] theorem State.modHead_die_poolGranules (s : State) (d : DieId) (n : Nat) (f : Head → Head) (e : DieId) :
    ((s.modHead d n f).die e).poolGranules = (s.die e).poolGranules := by cases d <;> cases e <;> rfl
@[simp] theorem State.modHead_die_replicas (s : State) (d : DieId) (n : Nat) (f : Head → Head) (e : DieId) :
    ((s.modHead d n f).die e).replicas = (s.die e).replicas := by cases d <;> cases e <;> rfl
@[simp] theorem State.modHead_die_cores (s : State) (d : DieId) (n : Nat) (f : Head → Head) (e : DieId) :
    ((s.modHead d n f).die e).cores = (s.die e).cores := by cases d <;> cases e <;> rfl
@[simp] theorem State.modHead_die_tlb2 (s : State) (d : DieId) (n : Nat) (f : Head → Head) (e : DieId) :
    ((s.modHead d n f).die e).tlb2 = (s.die e).tlb2 := by cases d <;> cases e <;> rfl
@[simp] theorem State.modHead_die_remaps (s : State) (d : DieId) (n : Nat) (f : Head → Head) (e : DieId) :
    ((s.modHead d n f).die e).remaps = (s.die e).remaps := by cases d <;> cases e <;> rfl
@[simp] theorem State.modHead_die_vis (s : State) (d : DieId) (n : Nat) (f : Head → Head) (e : DieId) :
    ((s.modHead d n f).die e).vis = (s.die e).vis := by cases d <;> cases e <;> rfl
@[simp] theorem State.modHead_die_entries (s : State) (d : DieId) (n : Nat) (f : Head → Head) (e : DieId) :
    ((s.modHead d n f).die e).entries = (s.die e).entries := by cases d <;> cases e <;> rfl
@[simp] theorem State.modHead_die_slots (s : State) (d : DieId) (n : Nat) (f : Head → Head) (e : DieId) :
    ((s.modHead d n f).die e).slots = (s.die e).slots := by cases d <;> cases e <;> rfl
@[simp] theorem State.modHead_die_scrub (s : State) (d : DieId) (n : Nat) (f : Head → Head) (e : DieId) :
    ((s.modHead d n f).die e).scrub = (s.die e).scrub := by cases d <;> cases e <;> rfl
@[simp] theorem State.modHead_die_scrubPos (s : State) (d : DieId) (n : Nat) (f : Head → Head) (e : DieId) :
    ((s.modHead d n f).die e).scrubPos = (s.die e).scrubPos := by cases d <;> cases e <;> rfl
@[simp] theorem State.modHead_die_scrubDone (s : State) (d : DieId) (n : Nat) (f : Head → Head) (e : DieId) :
    ((s.modHead d n f).die e).scrubDone = (s.die e).scrubDone := by cases d <;> cases e <;> rfl
@[simp] theorem State.modHead_die_scrubWait (s : State) (d : DieId) (n : Nat) (f : Head → Head) (e : DieId) :
    ((s.modHead d n f).die e).scrubWait = (s.die e).scrubWait := by cases d <;> cases e <;> rfl
@[simp] theorem State.modHead_die_memErrors (s : State) (d : DieId) (n : Nat) (f : Head → Head) (e : DieId) :
    ((s.modHead d n f).die e).memErrors = (s.die e).memErrors := by cases d <;> cases e <;> rfl
@[simp] theorem State.modHead_die_poisonCount (s : State) (d : DieId) (n : Nat) (f : Head → Head) (e : DieId) :
    ((s.modHead d n f).die e).poisonCount = (s.die e).poisonCount := by cases d <;> cases e <;> rfl
@[simp] theorem State.modHead_die_entropy (s : State) (d : DieId) (n : Nat) (f : Head → Head) (e : DieId) :
    ((s.modHead d n f).die e).entropy = (s.die e).entropy := by cases d <;> cases e <;> rfl
@[simp] theorem State.modHead_die_sram (s : State) (d : DieId) (n : Nat) (f : Head → Head) (e : DieId) :
    ((s.modHead d n f).die e).sram = (s.die e).sram := by cases d <;> cases e <;> rfl
@[simp] theorem State.modHead_die_measures (s : State) (d : DieId) (n : Nat) (f : Head → Head) (e : DieId) :
    ((s.modHead d n f).die e).measures = (s.die e).measures := by cases d <;> cases e <;> rfl
@[simp] theorem State.modHead_die_identity (s : State) (d : DieId) (n : Nat) (f : Head → Head) (e : DieId) :
    ((s.modHead d n f).die e).identity = (s.die e).identity := by cases d <;> cases e <;> rfl
@[simp] theorem State.modHead_die_version (s : State) (d : DieId) (n : Nat) (f : Head → Head) (e : DieId) :
    ((s.modHead d n f).die e).version = (s.die e).version := by cases d <;> cases e <;> rfl
@[simp] theorem State.modHead_die_lifeCycle (s : State) (d : DieId) (n : Nat) (f : Head → Head) (e : DieId) :
    ((s.modHead d n f).die e).lifeCycle = (s.die e).lifeCycle := by cases d <;> cases e <;> rfl
@[simp] theorem State.modHead_die_power (s : State) (d : DieId) (n : Nat) (f : Head → Head) (e : DieId) :
    ((s.modHead d n f).die e).power = (s.die e).power := by cases d <;> cases e <;> rfl
@[simp] theorem State.modHead_die_description (s : State) (d : DieId) (n : Nat) (f : Head → Head) (e : DieId) :
    ((s.modHead d n f).die e).description = (s.die e).description := by cases d <;> cases e <;> rfl
@[simp] theorem State.modHead_die_report (s : State) (d : DieId) (n : Nat) (f : Head → Head) (e : DieId) :
    ((s.modHead d n f).die e).report = (s.die e).report := by cases d <;> cases e <;> rfl
@[simp] theorem State.modHead_die_clocks (s : State) (d : DieId) (n : Nat) (f : Head → Head) (e : DieId) :
    ((s.modHead d n f).die e).clocks = (s.die e).clocks := by cases d <;> cases e <;> rfl
@[simp] theorem State.modHead_die_spent (s : State) (d : DieId) (n : Nat) (f : Head → Head) (e : DieId) :
    ((s.modHead d n f).die e).spent = (s.die e).spent := by cases d <;> cases e <;> rfl
@[simp] theorem State.modHead_die_latched (s : State) (d : DieId) (n : Nat) (f : Head → Head) (e : DieId) :
    ((s.modHead d n f).die e).latched = (s.die e).latched := by cases d <;> cases e <;> rfl
@[simp] theorem State.modHead_die_seen (s : State) (d : DieId) (n : Nat) (f : Head → Head) (e : DieId) :
    ((s.modHead d n f).die e).seen = (s.die e).seen := by cases d <;> cases e <;> rfl
@[simp] theorem State.modHead_die_faultKinds (s : State) (d : DieId) (n : Nat) (f : Head → Head) (e : DieId) :
    ((s.modHead d n f).die e).faultKinds = (s.die e).faultKinds := by cases d <;> cases e <;> rfl
@[simp] theorem State.modHead_die_flash (s : State) (d : DieId) (n : Nat) (f : Head → Head) (e : DieId) :
    ((s.modHead d n f).die e).flash = (s.die e).flash := by cases d <;> cases e <;> rfl
@[simp] theorem State.modHead_die_publicKey (s : State) (d : DieId) (n : Nat) (f : Head → Head) (e : DieId) :
    ((s.modHead d n f).die e).publicKey = (s.die e).publicKey := by cases d <;> cases e <;> rfl
@[simp] theorem State.modHead_die_certificate (s : State) (d : DieId) (n : Nat) (f : Head → Head) (e : DieId) :
    ((s.modHead d n f).die e).certificate = (s.die e).certificate := by cases d <;> cases e <;> rfl

theorem State.modCore_core (s : State) (d e : DieId) (n k : Nat) (f : Core → Core) :
    (s.modCore d n f).core e k = if e = d ∧ k = n then f (s.core d n) else s.core e k := by
  by_cases h : e = d
  · subst h
    by_cases hk : k = n
    · subst hk
      simp [State.core, State.modCore, Die.core, aget_aput]
    · simp [State.core, State.modCore, Die.core, aget_aput, hk]
  · simp [State.core, State.modCore, h]

theorem State.modHead_head (s : State) (d e : DieId) (n k : Nat) (f : Head → Head) :
    (s.modHead d n f).head e k = if e = d ∧ k = n then f (s.head d n) else s.head e k := by
  by_cases h : e = d
  · subst h
    by_cases hk : k = n
    · subst hk
      simp [State.head, State.modHead, Die.head, aget_aput]
    · simp [State.head, State.modHead, Die.head, aget_aput, hk]
  · simp [State.head, State.modHead, h]

theorem State.modVi_vi (s : State) (d e : DieId) (n k : Nat) (f : Interface → Interface) :
    (s.modVi d n f).vi e k = if e = d ∧ k = n then f (s.vi d n) else s.vi e k := by
  by_cases h : e = d
  · subst h
    by_cases hk : k = n
    · subst hk
      simp [State.vi, State.modVi, Die.vi, aget_aput]
    · simp [State.vi, State.modVi, Die.vi, aget_aput, hk]
  · simp [State.vi, State.modVi, h]

/-! The thread: a register group, a handle, the flags, a predicate and a producer value written. -/

@[simp] theorem Thread.write_cove (t : Thread) (n : Nat) (w : Width) (v : Quad) (tag : Bool) : (t.write n w v tag).cove = t.cove := rfl
@[simp] theorem Thread.write_crew (t : Thread) (n : Nat) (w : Width) (v : Quad) (tag : Bool) : (t.write n w v tag).crew = t.crew := rfl
@[simp] theorem Thread.write_vlane (t : Thread) (n : Nat) (w : Width) (v : Quad) (tag : Bool) : (t.write n w v tag).vlane = t.vlane := rfl
@[simp] theorem Thread.write_status (t : Thread) (n : Nat) (w : Width) (v : Quad) (tag : Bool) : (t.write n w v tag).status = t.status := rfl
@[simp] theorem Thread.write_pc (t : Thread) (n : Nat) (w : Width) (v : Quad) (tag : Bool) : (t.write n w v tag).pc = t.pc := rfl
@[simp] theorem Thread.write_resume (t : Thread) (n : Nat) (w : Width) (v : Quad) (tag : Bool) : (t.write n w v tag).resume = t.resume := rfl
@[simp] theorem Thread.write_hold (t : Thread) (n : Nat) (w : Width) (v : Quad) (tag : Bool) : (t.write n w v tag).hold = t.hold := rfl
@[simp] theorem Thread.write_landFrom (t : Thread) (n : Nat) (w : Width) (v : Quad) (tag : Bool) : (t.write n w v tag).landFrom = t.landFrom := rfl
@[simp] theorem Thread.write_jump (t : Thread) (n : Nat) (w : Width) (v : Quad) (tag : Bool) : (t.write n w v tag).jump = t.jump := rfl
@[simp] theorem Thread.write_cont (t : Thread) (n : Nat) (w : Width) (v : Quad) (tag : Bool) : (t.write n w v tag).cont = t.cont := rfl
@[simp] theorem Thread.write_contSlot (t : Thread) (n : Nat) (w : Width) (v : Quad) (tag : Bool) : (t.write n w v tag).contSlot = t.contSlot := rfl
@[simp] theorem Thread.write_preds (t : Thread) (n : Nat) (w : Width) (v : Quad) (tag : Bool) : (t.write n w v tag).preds = t.preds := rfl
@[simp] theorem Thread.write_handles (t : Thread) (n : Nat) (w : Width) (v : Quad) (tag : Bool) : (t.write n w v tag).handles = t.handles := rfl
@[simp] theorem Thread.write_fstat (t : Thread) (n : Nat) (w : Width) (v : Quad) (tag : Bool) : (t.write n w v tag).fstat = t.fstat := rfl
@[simp] theorem Thread.write_tcause (t : Thread) (n : Nat) (w : Width) (v : Quad) (tag : Bool) : (t.write n w v tag).tcause = t.tcause := rfl
@[simp] theorem Thread.write_tstat (t : Thread) (n : Nat) (w : Width) (v : Quad) (tag : Bool) : (t.write n w v tag).tstat = t.tstat := rfl
@[simp] theorem Thread.write_tpc (t : Thread) (n : Nat) (w : Width) (v : Quad) (tag : Bool) : (t.write n w v tag).tpc = t.tpc := rfl
@[simp] theorem Thread.write_tval (t : Thread) (n : Nat) (w : Width) (v : Quad) (tag : Bool) : (t.write n w v tag).tval = t.tval := rfl
@[simp] theorem Thread.write_thandler (t : Thread) (n : Nat) (w : Width) (v : Quad) (tag : Bool) : (t.write n w v tag).thandler = t.thandler := rfl
@[simp] theorem Thread.write_prods (t : Thread) (n : Nat) (w : Width) (v : Quad) (tag : Bool) : (t.write n w v tag).prods = t.prods := rfl
@[simp] theorem Thread.write_before (t : Thread) (n : Nat) (w : Width) (v : Quad) (tag : Bool) : (t.write n w v tag).before = t.before := rfl
@[simp] theorem Thread.write_defer (t : Thread) (n : Nat) (w : Width) (v : Quad) (tag : Bool) : (t.write n w v tag).defer = t.defer := rfl
@[simp] theorem Thread.write_latches (t : Thread) (n : Nat) (w : Width) (v : Quad) (tag : Bool) : (t.write n w v tag).latches = t.latches := rfl
@[simp] theorem Thread.write_entry (t : Thread) (n : Nat) (w : Width) (v : Quad) (tag : Bool) : (t.write n w v tag).entry = t.entry := rfl
@[simp] theorem Thread.write_pending (t : Thread) (n : Nat) (w : Width) (v : Quad) (tag : Bool) : (t.write n w v tag).pending = t.pending := rfl
@[simp] theorem Thread.write_due (t : Thread) (n : Nat) (w : Width) (v : Quad) (tag : Bool) : (t.write n w v tag).due = t.due := rfl
@[simp] theorem Thread.write_stopper (t : Thread) (n : Nat) (w : Width) (v : Quad) (tag : Bool) : (t.write n w v tag).stopper = t.stopper := rfl
@[simp] theorem Thread.write_exiting (t : Thread) (n : Nat) (w : Width) (v : Quad) (tag : Bool) : (t.write n w v tag).exiting = t.exiting := rfl
@[simp] theorem Thread.write_passed (t : Thread) (n : Nat) (w : Width) (v : Quad) (tag : Bool) : (t.write n w v tag).passed = t.passed := rfl
@[simp] theorem Thread.write_yielded (t : Thread) (n : Nat) (w : Width) (v : Quad) (tag : Bool) : (t.write n w v tag).yielded = t.yielded := rfl
@[simp] theorem Thread.write_stepDue (t : Thread) (n : Nat) (w : Width) (v : Quad) (tag : Bool) : (t.write n w v tag).stepDue = t.stepDue := rfl
@[simp] theorem Thread.write_firstReq (t : Thread) (n : Nat) (w : Width) (v : Quad) (tag : Bool) : (t.write n w v tag).firstReq = t.firstReq := rfl
@[simp] theorem Thread.setHandle_cove (t : Thread) (n : Nat) (v : DWord) : (t.setHandle n v).cove = t.cove := rfl
@[simp] theorem Thread.setHandle_crew (t : Thread) (n : Nat) (v : DWord) : (t.setHandle n v).crew = t.crew := rfl
@[simp] theorem Thread.setHandle_vlane (t : Thread) (n : Nat) (v : DWord) : (t.setHandle n v).vlane = t.vlane := rfl
@[simp] theorem Thread.setHandle_status (t : Thread) (n : Nat) (v : DWord) : (t.setHandle n v).status = t.status := rfl
@[simp] theorem Thread.setHandle_pc (t : Thread) (n : Nat) (v : DWord) : (t.setHandle n v).pc = t.pc := rfl
@[simp] theorem Thread.setHandle_resume (t : Thread) (n : Nat) (v : DWord) : (t.setHandle n v).resume = t.resume := rfl
@[simp] theorem Thread.setHandle_hold (t : Thread) (n : Nat) (v : DWord) : (t.setHandle n v).hold = t.hold := rfl
@[simp] theorem Thread.setHandle_landFrom (t : Thread) (n : Nat) (v : DWord) : (t.setHandle n v).landFrom = t.landFrom := rfl
@[simp] theorem Thread.setHandle_jump (t : Thread) (n : Nat) (v : DWord) : (t.setHandle n v).jump = t.jump := rfl
@[simp] theorem Thread.setHandle_cont (t : Thread) (n : Nat) (v : DWord) : (t.setHandle n v).cont = t.cont := rfl
@[simp] theorem Thread.setHandle_contSlot (t : Thread) (n : Nat) (v : DWord) : (t.setHandle n v).contSlot = t.contSlot := rfl
@[simp] theorem Thread.setHandle_regs (t : Thread) (n : Nat) (v : DWord) : (t.setHandle n v).regs = t.regs := rfl
@[simp] theorem Thread.setHandle_tags (t : Thread) (n : Nat) (v : DWord) : (t.setHandle n v).tags = t.tags := rfl
@[simp] theorem Thread.setHandle_poison (t : Thread) (n : Nat) (v : DWord) : (t.setHandle n v).poison = t.poison := rfl
@[simp] theorem Thread.setHandle_preds (t : Thread) (n : Nat) (v : DWord) : (t.setHandle n v).preds = t.preds := rfl
@[simp] theorem Thread.setHandle_fstat (t : Thread) (n : Nat) (v : DWord) : (t.setHandle n v).fstat = t.fstat := rfl
@[simp] theorem Thread.setHandle_tcause (t : Thread) (n : Nat) (v : DWord) : (t.setHandle n v).tcause = t.tcause := rfl
@[simp] theorem Thread.setHandle_tstat (t : Thread) (n : Nat) (v : DWord) : (t.setHandle n v).tstat = t.tstat := rfl
@[simp] theorem Thread.setHandle_tpc (t : Thread) (n : Nat) (v : DWord) : (t.setHandle n v).tpc = t.tpc := rfl
@[simp] theorem Thread.setHandle_tval (t : Thread) (n : Nat) (v : DWord) : (t.setHandle n v).tval = t.tval := rfl
@[simp] theorem Thread.setHandle_thandler (t : Thread) (n : Nat) (v : DWord) : (t.setHandle n v).thandler = t.thandler := rfl
@[simp] theorem Thread.setHandle_prods (t : Thread) (n : Nat) (v : DWord) : (t.setHandle n v).prods = t.prods := rfl
@[simp] theorem Thread.setHandle_before (t : Thread) (n : Nat) (v : DWord) : (t.setHandle n v).before = t.before := rfl
@[simp] theorem Thread.setHandle_defer (t : Thread) (n : Nat) (v : DWord) : (t.setHandle n v).defer = t.defer := rfl
@[simp] theorem Thread.setHandle_latches (t : Thread) (n : Nat) (v : DWord) : (t.setHandle n v).latches = t.latches := rfl
@[simp] theorem Thread.setHandle_entry (t : Thread) (n : Nat) (v : DWord) : (t.setHandle n v).entry = t.entry := rfl
@[simp] theorem Thread.setHandle_pending (t : Thread) (n : Nat) (v : DWord) : (t.setHandle n v).pending = t.pending := rfl
@[simp] theorem Thread.setHandle_due (t : Thread) (n : Nat) (v : DWord) : (t.setHandle n v).due = t.due := rfl
@[simp] theorem Thread.setHandle_stopper (t : Thread) (n : Nat) (v : DWord) : (t.setHandle n v).stopper = t.stopper := rfl
@[simp] theorem Thread.setHandle_exiting (t : Thread) (n : Nat) (v : DWord) : (t.setHandle n v).exiting = t.exiting := rfl
@[simp] theorem Thread.setHandle_passed (t : Thread) (n : Nat) (v : DWord) : (t.setHandle n v).passed = t.passed := rfl
@[simp] theorem Thread.setHandle_yielded (t : Thread) (n : Nat) (v : DWord) : (t.setHandle n v).yielded = t.yielded := rfl
@[simp] theorem Thread.setHandle_stepDue (t : Thread) (n : Nat) (v : DWord) : (t.setHandle n v).stepDue = t.stepDue := rfl
@[simp] theorem Thread.setHandle_firstReq (t : Thread) (n : Nat) (v : DWord) : (t.setHandle n v).firstReq = t.firstReq := rfl
@[simp] theorem Thread.orFlags_cove (t : Thread) (f : Word) : (t.orFlags f).cove = t.cove := rfl
@[simp] theorem Thread.orFlags_crew (t : Thread) (f : Word) : (t.orFlags f).crew = t.crew := rfl
@[simp] theorem Thread.orFlags_vlane (t : Thread) (f : Word) : (t.orFlags f).vlane = t.vlane := rfl
@[simp] theorem Thread.orFlags_status (t : Thread) (f : Word) : (t.orFlags f).status = t.status := rfl
@[simp] theorem Thread.orFlags_pc (t : Thread) (f : Word) : (t.orFlags f).pc = t.pc := rfl
@[simp] theorem Thread.orFlags_resume (t : Thread) (f : Word) : (t.orFlags f).resume = t.resume := rfl
@[simp] theorem Thread.orFlags_hold (t : Thread) (f : Word) : (t.orFlags f).hold = t.hold := rfl
@[simp] theorem Thread.orFlags_landFrom (t : Thread) (f : Word) : (t.orFlags f).landFrom = t.landFrom := rfl
@[simp] theorem Thread.orFlags_jump (t : Thread) (f : Word) : (t.orFlags f).jump = t.jump := rfl
@[simp] theorem Thread.orFlags_cont (t : Thread) (f : Word) : (t.orFlags f).cont = t.cont := rfl
@[simp] theorem Thread.orFlags_contSlot (t : Thread) (f : Word) : (t.orFlags f).contSlot = t.contSlot := rfl
@[simp] theorem Thread.orFlags_regs (t : Thread) (f : Word) : (t.orFlags f).regs = t.regs := rfl
@[simp] theorem Thread.orFlags_tags (t : Thread) (f : Word) : (t.orFlags f).tags = t.tags := rfl
@[simp] theorem Thread.orFlags_poison (t : Thread) (f : Word) : (t.orFlags f).poison = t.poison := rfl
@[simp] theorem Thread.orFlags_preds (t : Thread) (f : Word) : (t.orFlags f).preds = t.preds := rfl
@[simp] theorem Thread.orFlags_handles (t : Thread) (f : Word) : (t.orFlags f).handles = t.handles := rfl
@[simp] theorem Thread.orFlags_tcause (t : Thread) (f : Word) : (t.orFlags f).tcause = t.tcause := rfl
@[simp] theorem Thread.orFlags_tstat (t : Thread) (f : Word) : (t.orFlags f).tstat = t.tstat := rfl
@[simp] theorem Thread.orFlags_tpc (t : Thread) (f : Word) : (t.orFlags f).tpc = t.tpc := rfl
@[simp] theorem Thread.orFlags_tval (t : Thread) (f : Word) : (t.orFlags f).tval = t.tval := rfl
@[simp] theorem Thread.orFlags_thandler (t : Thread) (f : Word) : (t.orFlags f).thandler = t.thandler := rfl
@[simp] theorem Thread.orFlags_prods (t : Thread) (f : Word) : (t.orFlags f).prods = t.prods := rfl
@[simp] theorem Thread.orFlags_before (t : Thread) (f : Word) : (t.orFlags f).before = t.before := rfl
@[simp] theorem Thread.orFlags_defer (t : Thread) (f : Word) : (t.orFlags f).defer = t.defer := rfl
@[simp] theorem Thread.orFlags_latches (t : Thread) (f : Word) : (t.orFlags f).latches = t.latches := rfl
@[simp] theorem Thread.orFlags_entry (t : Thread) (f : Word) : (t.orFlags f).entry = t.entry := rfl
@[simp] theorem Thread.orFlags_pending (t : Thread) (f : Word) : (t.orFlags f).pending = t.pending := rfl
@[simp] theorem Thread.orFlags_due (t : Thread) (f : Word) : (t.orFlags f).due = t.due := rfl
@[simp] theorem Thread.orFlags_stopper (t : Thread) (f : Word) : (t.orFlags f).stopper = t.stopper := rfl
@[simp] theorem Thread.orFlags_exiting (t : Thread) (f : Word) : (t.orFlags f).exiting = t.exiting := rfl
@[simp] theorem Thread.orFlags_passed (t : Thread) (f : Word) : (t.orFlags f).passed = t.passed := rfl
@[simp] theorem Thread.orFlags_yielded (t : Thread) (f : Word) : (t.orFlags f).yielded = t.yielded := rfl
@[simp] theorem Thread.orFlags_stepDue (t : Thread) (f : Word) : (t.orFlags f).stepDue = t.stepDue := rfl
@[simp] theorem Thread.orFlags_firstReq (t : Thread) (f : Word) : (t.orFlags f).firstReq = t.firstReq := rfl
@[simp] theorem Thread.produce_cove (t : Thread) (w : Width) (v : Quad) (tag : Bool) : (t.produce w v tag).cove = t.cove := rfl
@[simp] theorem Thread.produce_crew (t : Thread) (w : Width) (v : Quad) (tag : Bool) : (t.produce w v tag).crew = t.crew := rfl
@[simp] theorem Thread.produce_vlane (t : Thread) (w : Width) (v : Quad) (tag : Bool) : (t.produce w v tag).vlane = t.vlane := rfl
@[simp] theorem Thread.produce_status (t : Thread) (w : Width) (v : Quad) (tag : Bool) : (t.produce w v tag).status = t.status := rfl
@[simp] theorem Thread.produce_pc (t : Thread) (w : Width) (v : Quad) (tag : Bool) : (t.produce w v tag).pc = t.pc := rfl
@[simp] theorem Thread.produce_resume (t : Thread) (w : Width) (v : Quad) (tag : Bool) : (t.produce w v tag).resume = t.resume := rfl
@[simp] theorem Thread.produce_hold (t : Thread) (w : Width) (v : Quad) (tag : Bool) : (t.produce w v tag).hold = t.hold := rfl
@[simp] theorem Thread.produce_landFrom (t : Thread) (w : Width) (v : Quad) (tag : Bool) : (t.produce w v tag).landFrom = t.landFrom := rfl
@[simp] theorem Thread.produce_jump (t : Thread) (w : Width) (v : Quad) (tag : Bool) : (t.produce w v tag).jump = t.jump := rfl
@[simp] theorem Thread.produce_cont (t : Thread) (w : Width) (v : Quad) (tag : Bool) : (t.produce w v tag).cont = t.cont := rfl
@[simp] theorem Thread.produce_contSlot (t : Thread) (w : Width) (v : Quad) (tag : Bool) : (t.produce w v tag).contSlot = t.contSlot := rfl
@[simp] theorem Thread.produce_regs (t : Thread) (w : Width) (v : Quad) (tag : Bool) : (t.produce w v tag).regs = t.regs := rfl
@[simp] theorem Thread.produce_tags (t : Thread) (w : Width) (v : Quad) (tag : Bool) : (t.produce w v tag).tags = t.tags := rfl
@[simp] theorem Thread.produce_poison (t : Thread) (w : Width) (v : Quad) (tag : Bool) : (t.produce w v tag).poison = t.poison := rfl
@[simp] theorem Thread.produce_preds (t : Thread) (w : Width) (v : Quad) (tag : Bool) : (t.produce w v tag).preds = t.preds := rfl
@[simp] theorem Thread.produce_handles (t : Thread) (w : Width) (v : Quad) (tag : Bool) : (t.produce w v tag).handles = t.handles := rfl
@[simp] theorem Thread.produce_fstat (t : Thread) (w : Width) (v : Quad) (tag : Bool) : (t.produce w v tag).fstat = t.fstat := rfl
@[simp] theorem Thread.produce_tcause (t : Thread) (w : Width) (v : Quad) (tag : Bool) : (t.produce w v tag).tcause = t.tcause := rfl
@[simp] theorem Thread.produce_tstat (t : Thread) (w : Width) (v : Quad) (tag : Bool) : (t.produce w v tag).tstat = t.tstat := rfl
@[simp] theorem Thread.produce_tpc (t : Thread) (w : Width) (v : Quad) (tag : Bool) : (t.produce w v tag).tpc = t.tpc := rfl
@[simp] theorem Thread.produce_tval (t : Thread) (w : Width) (v : Quad) (tag : Bool) : (t.produce w v tag).tval = t.tval := rfl
@[simp] theorem Thread.produce_thandler (t : Thread) (w : Width) (v : Quad) (tag : Bool) : (t.produce w v tag).thandler = t.thandler := rfl
@[simp] theorem Thread.produce_before (t : Thread) (w : Width) (v : Quad) (tag : Bool) : (t.produce w v tag).before = t.before := rfl
@[simp] theorem Thread.produce_defer (t : Thread) (w : Width) (v : Quad) (tag : Bool) : (t.produce w v tag).defer = t.defer := rfl
@[simp] theorem Thread.produce_latches (t : Thread) (w : Width) (v : Quad) (tag : Bool) : (t.produce w v tag).latches = t.latches := rfl
@[simp] theorem Thread.produce_entry (t : Thread) (w : Width) (v : Quad) (tag : Bool) : (t.produce w v tag).entry = t.entry := rfl
@[simp] theorem Thread.produce_pending (t : Thread) (w : Width) (v : Quad) (tag : Bool) : (t.produce w v tag).pending = t.pending := rfl
@[simp] theorem Thread.produce_due (t : Thread) (w : Width) (v : Quad) (tag : Bool) : (t.produce w v tag).due = t.due := rfl
@[simp] theorem Thread.produce_stopper (t : Thread) (w : Width) (v : Quad) (tag : Bool) : (t.produce w v tag).stopper = t.stopper := rfl
@[simp] theorem Thread.produce_exiting (t : Thread) (w : Width) (v : Quad) (tag : Bool) : (t.produce w v tag).exiting = t.exiting := rfl
@[simp] theorem Thread.produce_passed (t : Thread) (w : Width) (v : Quad) (tag : Bool) : (t.produce w v tag).passed = t.passed := rfl
@[simp] theorem Thread.produce_yielded (t : Thread) (w : Width) (v : Quad) (tag : Bool) : (t.produce w v tag).yielded = t.yielded := rfl
@[simp] theorem Thread.produce_stepDue (t : Thread) (w : Width) (v : Quad) (tag : Bool) : (t.produce w v tag).stepDue = t.stepDue := rfl
@[simp] theorem Thread.produce_firstReq (t : Thread) (w : Width) (v : Quad) (tag : Bool) : (t.produce w v tag).firstReq = t.firstReq := rfl
@[simp] theorem Thread.writePred_cove (t : Thread) (p : Option (Nat × Bool)) :
    (t.writePred p).cove = t.cove := by cases p <;> rfl
@[simp] theorem Thread.writePred_crew (t : Thread) (p : Option (Nat × Bool)) :
    (t.writePred p).crew = t.crew := by cases p <;> rfl
@[simp] theorem Thread.writePred_vlane (t : Thread) (p : Option (Nat × Bool)) :
    (t.writePred p).vlane = t.vlane := by cases p <;> rfl
@[simp] theorem Thread.writePred_status (t : Thread) (p : Option (Nat × Bool)) :
    (t.writePred p).status = t.status := by cases p <;> rfl
@[simp] theorem Thread.writePred_pc (t : Thread) (p : Option (Nat × Bool)) :
    (t.writePred p).pc = t.pc := by cases p <;> rfl
@[simp] theorem Thread.writePred_resume (t : Thread) (p : Option (Nat × Bool)) :
    (t.writePred p).resume = t.resume := by cases p <;> rfl
@[simp] theorem Thread.writePred_hold (t : Thread) (p : Option (Nat × Bool)) :
    (t.writePred p).hold = t.hold := by cases p <;> rfl
@[simp] theorem Thread.writePred_landFrom (t : Thread) (p : Option (Nat × Bool)) :
    (t.writePred p).landFrom = t.landFrom := by cases p <;> rfl
@[simp] theorem Thread.writePred_jump (t : Thread) (p : Option (Nat × Bool)) :
    (t.writePred p).jump = t.jump := by cases p <;> rfl
@[simp] theorem Thread.writePred_cont (t : Thread) (p : Option (Nat × Bool)) :
    (t.writePred p).cont = t.cont := by cases p <;> rfl
@[simp] theorem Thread.writePred_contSlot (t : Thread) (p : Option (Nat × Bool)) :
    (t.writePred p).contSlot = t.contSlot := by cases p <;> rfl
@[simp] theorem Thread.writePred_regs (t : Thread) (p : Option (Nat × Bool)) :
    (t.writePred p).regs = t.regs := by cases p <;> rfl
@[simp] theorem Thread.writePred_tags (t : Thread) (p : Option (Nat × Bool)) :
    (t.writePred p).tags = t.tags := by cases p <;> rfl
@[simp] theorem Thread.writePred_poison (t : Thread) (p : Option (Nat × Bool)) :
    (t.writePred p).poison = t.poison := by cases p <;> rfl
@[simp] theorem Thread.writePred_handles (t : Thread) (p : Option (Nat × Bool)) :
    (t.writePred p).handles = t.handles := by cases p <;> rfl
@[simp] theorem Thread.writePred_fstat (t : Thread) (p : Option (Nat × Bool)) :
    (t.writePred p).fstat = t.fstat := by cases p <;> rfl
@[simp] theorem Thread.writePred_tcause (t : Thread) (p : Option (Nat × Bool)) :
    (t.writePred p).tcause = t.tcause := by cases p <;> rfl
@[simp] theorem Thread.writePred_tstat (t : Thread) (p : Option (Nat × Bool)) :
    (t.writePred p).tstat = t.tstat := by cases p <;> rfl
@[simp] theorem Thread.writePred_tpc (t : Thread) (p : Option (Nat × Bool)) :
    (t.writePred p).tpc = t.tpc := by cases p <;> rfl
@[simp] theorem Thread.writePred_tval (t : Thread) (p : Option (Nat × Bool)) :
    (t.writePred p).tval = t.tval := by cases p <;> rfl
@[simp] theorem Thread.writePred_thandler (t : Thread) (p : Option (Nat × Bool)) :
    (t.writePred p).thandler = t.thandler := by cases p <;> rfl
@[simp] theorem Thread.writePred_prods (t : Thread) (p : Option (Nat × Bool)) :
    (t.writePred p).prods = t.prods := by cases p <;> rfl
@[simp] theorem Thread.writePred_before (t : Thread) (p : Option (Nat × Bool)) :
    (t.writePred p).before = t.before := by cases p <;> rfl
@[simp] theorem Thread.writePred_defer (t : Thread) (p : Option (Nat × Bool)) :
    (t.writePred p).defer = t.defer := by cases p <;> rfl
@[simp] theorem Thread.writePred_latches (t : Thread) (p : Option (Nat × Bool)) :
    (t.writePred p).latches = t.latches := by cases p <;> rfl
@[simp] theorem Thread.writePred_entry (t : Thread) (p : Option (Nat × Bool)) :
    (t.writePred p).entry = t.entry := by cases p <;> rfl
@[simp] theorem Thread.writePred_pending (t : Thread) (p : Option (Nat × Bool)) :
    (t.writePred p).pending = t.pending := by cases p <;> rfl
@[simp] theorem Thread.writePred_due (t : Thread) (p : Option (Nat × Bool)) :
    (t.writePred p).due = t.due := by cases p <;> rfl
@[simp] theorem Thread.writePred_stopper (t : Thread) (p : Option (Nat × Bool)) :
    (t.writePred p).stopper = t.stopper := by cases p <;> rfl
@[simp] theorem Thread.writePred_exiting (t : Thread) (p : Option (Nat × Bool)) :
    (t.writePred p).exiting = t.exiting := by cases p <;> rfl
@[simp] theorem Thread.writePred_passed (t : Thread) (p : Option (Nat × Bool)) :
    (t.writePred p).passed = t.passed := by cases p <;> rfl
@[simp] theorem Thread.writePred_yielded (t : Thread) (p : Option (Nat × Bool)) :
    (t.writePred p).yielded = t.yielded := by cases p <;> rfl
@[simp] theorem Thread.writePred_stepDue (t : Thread) (p : Option (Nat × Bool)) :
    (t.writePred p).stepDue = t.stepDue := by cases p <;> rfl
@[simp] theorem Thread.writePred_firstReq (t : Thread) (p : Option (Nat × Bool)) :
    (t.writePred p).firstReq = t.firstReq := by cases p <;> rfl
@[simp] theorem Thread.writeOpnd_cove (t : Thread) (d : Opnd) (w : Width) (v : Quad) (tag : Bool) :
    (t.writeOpnd d w v tag).cove = t.cove := by cases d <;> rfl
@[simp] theorem Thread.writeOpnd_crew (t : Thread) (d : Opnd) (w : Width) (v : Quad) (tag : Bool) :
    (t.writeOpnd d w v tag).crew = t.crew := by cases d <;> rfl
@[simp] theorem Thread.writeOpnd_vlane (t : Thread) (d : Opnd) (w : Width) (v : Quad) (tag : Bool) :
    (t.writeOpnd d w v tag).vlane = t.vlane := by cases d <;> rfl
@[simp] theorem Thread.writeOpnd_status (t : Thread) (d : Opnd) (w : Width) (v : Quad) (tag : Bool) :
    (t.writeOpnd d w v tag).status = t.status := by cases d <;> rfl
@[simp] theorem Thread.writeOpnd_pc (t : Thread) (d : Opnd) (w : Width) (v : Quad) (tag : Bool) :
    (t.writeOpnd d w v tag).pc = t.pc := by cases d <;> rfl
@[simp] theorem Thread.writeOpnd_resume (t : Thread) (d : Opnd) (w : Width) (v : Quad) (tag : Bool) :
    (t.writeOpnd d w v tag).resume = t.resume := by cases d <;> rfl
@[simp] theorem Thread.writeOpnd_hold (t : Thread) (d : Opnd) (w : Width) (v : Quad) (tag : Bool) :
    (t.writeOpnd d w v tag).hold = t.hold := by cases d <;> rfl
@[simp] theorem Thread.writeOpnd_landFrom (t : Thread) (d : Opnd) (w : Width) (v : Quad) (tag : Bool) :
    (t.writeOpnd d w v tag).landFrom = t.landFrom := by cases d <;> rfl
@[simp] theorem Thread.writeOpnd_jump (t : Thread) (d : Opnd) (w : Width) (v : Quad) (tag : Bool) :
    (t.writeOpnd d w v tag).jump = t.jump := by cases d <;> rfl
@[simp] theorem Thread.writeOpnd_cont (t : Thread) (d : Opnd) (w : Width) (v : Quad) (tag : Bool) :
    (t.writeOpnd d w v tag).cont = t.cont := by cases d <;> rfl
@[simp] theorem Thread.writeOpnd_contSlot (t : Thread) (d : Opnd) (w : Width) (v : Quad) (tag : Bool) :
    (t.writeOpnd d w v tag).contSlot = t.contSlot := by cases d <;> rfl
@[simp] theorem Thread.writeOpnd_preds (t : Thread) (d : Opnd) (w : Width) (v : Quad) (tag : Bool) :
    (t.writeOpnd d w v tag).preds = t.preds := by cases d <;> rfl
@[simp] theorem Thread.writeOpnd_handles (t : Thread) (d : Opnd) (w : Width) (v : Quad) (tag : Bool) :
    (t.writeOpnd d w v tag).handles = t.handles := by cases d <;> rfl
@[simp] theorem Thread.writeOpnd_fstat (t : Thread) (d : Opnd) (w : Width) (v : Quad) (tag : Bool) :
    (t.writeOpnd d w v tag).fstat = t.fstat := by cases d <;> rfl
@[simp] theorem Thread.writeOpnd_tcause (t : Thread) (d : Opnd) (w : Width) (v : Quad) (tag : Bool) :
    (t.writeOpnd d w v tag).tcause = t.tcause := by cases d <;> rfl
@[simp] theorem Thread.writeOpnd_tstat (t : Thread) (d : Opnd) (w : Width) (v : Quad) (tag : Bool) :
    (t.writeOpnd d w v tag).tstat = t.tstat := by cases d <;> rfl
@[simp] theorem Thread.writeOpnd_tpc (t : Thread) (d : Opnd) (w : Width) (v : Quad) (tag : Bool) :
    (t.writeOpnd d w v tag).tpc = t.tpc := by cases d <;> rfl
@[simp] theorem Thread.writeOpnd_tval (t : Thread) (d : Opnd) (w : Width) (v : Quad) (tag : Bool) :
    (t.writeOpnd d w v tag).tval = t.tval := by cases d <;> rfl
@[simp] theorem Thread.writeOpnd_thandler (t : Thread) (d : Opnd) (w : Width) (v : Quad) (tag : Bool) :
    (t.writeOpnd d w v tag).thandler = t.thandler := by cases d <;> rfl
@[simp] theorem Thread.writeOpnd_prods (t : Thread) (d : Opnd) (w : Width) (v : Quad) (tag : Bool) :
    (t.writeOpnd d w v tag).prods = t.prods := by cases d <;> rfl
@[simp] theorem Thread.writeOpnd_before (t : Thread) (d : Opnd) (w : Width) (v : Quad) (tag : Bool) :
    (t.writeOpnd d w v tag).before = t.before := by cases d <;> rfl
@[simp] theorem Thread.writeOpnd_defer (t : Thread) (d : Opnd) (w : Width) (v : Quad) (tag : Bool) :
    (t.writeOpnd d w v tag).defer = t.defer := by cases d <;> rfl
@[simp] theorem Thread.writeOpnd_latches (t : Thread) (d : Opnd) (w : Width) (v : Quad) (tag : Bool) :
    (t.writeOpnd d w v tag).latches = t.latches := by cases d <;> rfl
@[simp] theorem Thread.writeOpnd_entry (t : Thread) (d : Opnd) (w : Width) (v : Quad) (tag : Bool) :
    (t.writeOpnd d w v tag).entry = t.entry := by cases d <;> rfl
@[simp] theorem Thread.writeOpnd_pending (t : Thread) (d : Opnd) (w : Width) (v : Quad) (tag : Bool) :
    (t.writeOpnd d w v tag).pending = t.pending := by cases d <;> rfl
@[simp] theorem Thread.writeOpnd_due (t : Thread) (d : Opnd) (w : Width) (v : Quad) (tag : Bool) :
    (t.writeOpnd d w v tag).due = t.due := by cases d <;> rfl
@[simp] theorem Thread.writeOpnd_stopper (t : Thread) (d : Opnd) (w : Width) (v : Quad) (tag : Bool) :
    (t.writeOpnd d w v tag).stopper = t.stopper := by cases d <;> rfl
@[simp] theorem Thread.writeOpnd_exiting (t : Thread) (d : Opnd) (w : Width) (v : Quad) (tag : Bool) :
    (t.writeOpnd d w v tag).exiting = t.exiting := by cases d <;> rfl
@[simp] theorem Thread.writeOpnd_passed (t : Thread) (d : Opnd) (w : Width) (v : Quad) (tag : Bool) :
    (t.writeOpnd d w v tag).passed = t.passed := by cases d <;> rfl
@[simp] theorem Thread.writeOpnd_yielded (t : Thread) (d : Opnd) (w : Width) (v : Quad) (tag : Bool) :
    (t.writeOpnd d w v tag).yielded = t.yielded := by cases d <;> rfl
@[simp] theorem Thread.writeOpnd_stepDue (t : Thread) (d : Opnd) (w : Width) (v : Quad) (tag : Bool) :
    (t.writeOpnd d w v tag).stepDue = t.stepDue := by cases d <;> rfl
@[simp] theorem Thread.writeOpnd_firstReq (t : Thread) (d : Opnd) (w : Width) (v : Quad) (tag : Bool) :
    (t.writeOpnd d w v tag).firstReq = t.firstReq := by cases d <;> rfl

end Sys2Proof.Machine
end

