-- ==== Sys2Proof/Laws/Memory.lean ====
section
/-! SUPPORT. Every memory operation keeps the canonical form of a byte memory, and the memories of the
reset state have it. -/

namespace Sys2Proof.Machine

/-- The canonical form says: no cell holds the unlisted value, and addresses rise. -/
theorem Memory.wf_iff (m : Mem) : Memory.wf m = true ↔
    (∀ c ∈ m, c.2 ≠ restByte) ∧ m.Pairwise fun x y => x.1 < y.1 := by
  induction m with
  | nil => simp [Memory.wf]
  | cons c m ih =>
    obtain ⟨a, b⟩ := c
    cases m with
    | nil => simp [Memory.wf]
    | cons c' m =>
      obtain ⟨a', b'⟩ := c'
      simp only [Memory.wf, Bool.and_eq_true, bne_iff_ne, ne_eq, decide_eq_true_eq, ih,
        List.pairwise_cons, List.mem_cons, forall_eq_or_imp]
      constructor
      · rintro ⟨⟨hb, ha⟩, ⟨hb', hm⟩, hp, hpm⟩
        exact ⟨⟨hb, hb', hm⟩, ⟨ha, fun c hc => Nat.lt_trans ha (hp c hc)⟩, hp, hpm⟩
      · rintro ⟨⟨hb, hb', hm⟩, ⟨ha, _⟩, hp, hpm⟩
        exact ⟨⟨hb, ha⟩, ⟨hb', hm⟩, hp, hpm⟩

/-- A cell of a written memory is the one written or a cell of the old memory. -/
theorem mem_memWrite {m : Mem} {a : Nat} {b : Byte} {c : Host.Cell} (h : c ∈ memWrite m a b) :
    c ∈ m ∨ c = (a, b) ∧ b ≠ restByte := by
  induction m with
  | nil =>
    by_cases hb : b = restByte <;> simp_all [memWrite]
  | cons e m ih =>
    obtain ⟨k, w⟩ := e
    by_cases hk : a < k
    · by_cases hb : b = restByte
      · simp_all [memWrite]
      · simp only [memWrite, hk, hb, if_true, if_false, List.mem_cons] at h ⊢
        grind
    · by_cases he : a = k
      · subst he
        by_cases hb : b = restByte
        · simp_all [memWrite]
        · simp only [memWrite, Nat.lt_irrefl, hb, if_false, if_true, List.mem_cons] at h ⊢
          grind
      · simp only [memWrite, hk, he, if_false, List.mem_cons] at h ⊢
        grind

theorem memWrite_wf {m : Mem} (a : Nat) (b : Byte) (h : Memory.wf m = true) :
    Memory.wf (memWrite m a b) = true := by
  rw [Memory.wf_iff] at h ⊢
  refine ⟨fun c hc => ?_, ?_⟩
  · rcases mem_memWrite hc with hm | ⟨rfl, hb⟩
    · exact h.1 c hm
    · exact hb
  · replace h := h.2
    induction m with
    | nil => by_cases hb : b = restByte <;> simp [memWrite, hb]
    | cons e m ih =>
      obtain ⟨k, w⟩ := e
      have hp := List.pairwise_cons.1 h
      by_cases hk : a < k
      · by_cases hb : b = restByte
        · simpa [memWrite, hk, hb] using h
        · simp only [memWrite, hk, hb, if_true, if_false]
          refine List.pairwise_cons.2 ⟨fun c hc => ?_, h⟩
          rcases List.mem_cons.1 hc with rfl | hc
          · exact hk
          · exact Nat.lt_trans hk (hp.1 c hc)
      · by_cases he : a = k
        · subst he
          by_cases hb : b = restByte
          · simpa [memWrite, hb] using hp.2
          · simp only [memWrite, Nat.lt_irrefl, hb, if_false, if_true]
            exact List.pairwise_cons.2 ⟨hp.1, hp.2⟩
        · simp only [memWrite, hk, he, if_false]
          refine List.pairwise_cons.2 ⟨fun c hc => ?_, ih hp.2⟩
          rcases mem_memWrite hc with hm | ⟨rfl, _⟩
          · exact hp.1 c hm
          · exact (by omega : k < a)

theorem memPut_wf {m : Mem} (a : Nat) (bs : List Byte) (h : Memory.wf m = true) :
    Memory.wf (memPut m a bs) = true := by
  induction bs generalizing m a with
  | nil => exact h
  | cons b bs ih => exact ih _ (memWrite_wf a b h)

theorem memZero_wf {m : Mem} (a n : Nat) (h : Memory.wf m = true) :
    Memory.wf (memZero m a n) = true := by
  rw [Memory.wf_iff] at h ⊢
  exact ⟨fun c hc => h.1 c ((List.mem_filter.1 hc).1), h.2.filter _⟩

/-- A byte beside the one written reads as before. -/
theorem memRead_memWrite_ne {m : Mem} {a x : Nat} (b : Byte) (h : Memory.wf m = true) (hx : x ≠ a) :
    memRead (memWrite m a b) x = memRead m x := by
  induction m with
  | nil => by_cases hb : b = restByte <;> simp [memWrite, memRead, hb, hx]
  | cons e m ih =>
    obtain ⟨k, w⟩ := e
    rw [Memory.wf_iff] at h
    have hp := List.pairwise_cons.1 h.2
    have hm : Memory.wf m = true :=
      (Memory.wf_iff m).2 ⟨fun c hc => h.1 c (List.mem_cons_of_mem _ hc), hp.2⟩
    by_cases hk : a < k
    · by_cases hb : b = restByte
      · simp [memWrite, hk, hb]
      · simp only [memWrite, hk, hb, if_true, if_false, memRead, hx]
        by_cases h1 : x < a
        · have h2 : x ≠ k := by omega
          have h3 : x < k := by omega
          simp [h1, h2, h3]
        · simp [h1]
    · by_cases he : a = k
      · subst he
        by_cases hb : b = restByte
        · simp only [memWrite, Nat.lt_irrefl, hb, if_false, if_true, memRead, hx]
          by_cases h1 : x < a
          · simp only [h1, if_true]
            cases m with
            | nil => rfl
            | cons c m =>
              have := hp.1 c List.mem_cons_self
              have h2 : x ≠ c.1 := by omega
              have h3 : x < c.1 := by omega
              simp [memRead, h2, h3]
          · simp [h1]
        · simp [memWrite, hb, memRead, hx]
      · simp only [memWrite, hk, he, if_false, memRead, ih hm]

/-- The memories of the reset state are in canonical form. -/
theorem reset_dram_wf (d : DieId) : Memory.wf (State.reset.die d).dram = true := by
  cases d <;> rfl

theorem reset_scratch_wf (d : DieId) (n : Nat) : Memory.wf (State.reset.core d n).scratch = true := by
  cases d <;> rfl

/-- Bytes written to a scratchpad: that memory is the bytes put, every other memory is as before. -/
theorem scratchPut_core_scratch (s : State) (d e : DieId) (c n a : Nat) (bs : List Byte) :
    ((s.scratchPut d c a bs).core e n).scratch
      = if e = d ∧ n = c then memPut (s.core d c).scratch a bs else (s.core e n).scratch := by
  have h : (s.scratchPut d c a bs).core e n
      = (s.modCore d c fun x => { x.heal a bs.length with
          scratch := memPut x.scratch a bs
          scratchTags := tagClear x.scratchTags a bs.length }).core e n := by
    cases d <;> cases e <;> rfl
  rw [h, State.modCore_core]
  split <;> rfl

theorem scratchPut_scratch_wf {s : State} (d : DieId) (c a : Nat) (bs : List Byte)
    (h : ∀ e n, Memory.wf (s.core e n).scratch = true) (e : DieId) (n : Nat) :
    Memory.wf ((s.scratchPut d c a bs).core e n).scratch = true := by
  rw [scratchPut_core_scratch]
  split
  · exact memPut_wf a bs (h d c)
  · exact h e n

/-- A change of a thread changes no memory. -/
theorem sameMemory_modThread (s : State) (r : TRef) (f : Thread → Thread) :
    sameMemory s (s.modThread r f) :=
  ⟨fun d _ => by rw [State.modThread_die], fun d => by rw [State.modThread_die],
    fun d n _ => by rw [State.modThread_core], fun d n => by rw [State.modThread_core]⟩

end Sys2Proof.Machine
end

