-- ==== Sys2Proof/Laws/Operands.lean ====
section
/-! SUPPORT. What the shared frames of the operand forms answer once the operands have been read. -/

namespace Sys2Proof.Machine

theorem runA_of_reads {s s1 : State} {gd : Guard} {d : Opnd} {w : Width}
    {srcs : List (Opnd × Width)} {cu : Cur} {vs : List (Quad × Bool)}
    {f : Cur → List (Quad × Bool) → ARes} (h : Reads s gd srcs [(d, w)] s1 cu vs) :
    runA s gd d w srcs f = cu.result s1 d w (f cu vs) := by
  obtain ⟨⟨c0, h0, hg, rfl⟩, hc, hv⟩ := h
  simp only [runA, withCur, h0, hg, if_true]
  rw [hc]
  simp only [hv, conclude, Cur.result]

theorem reading_of_reads {s s1 : State} {gd : Guard} {srcs : List (Opnd × Width)} {cu : Cur}
    {vs : List (Quad × Bool)} {k : State → Cur → List (Quad × Bool) → Except Stop State}
    (h : Reads s gd srcs [] s1 cu vs) : reading s srcs k = conclude s1 cu (k s1 cu vs) := by
  obtain ⟨⟨c0, h0, hg, rfl⟩, hc, hv⟩ := h
  simp only [List.append_nil] at hc hv ⊢
  simp only [reading, withCur, h0]
  rw [hc]
  simp only [hv]

theorem readingIf_of_reads {s s1 : State} {gd : Guard} {srcs : List (Opnd × Width)} {cu : Cur}
    {vs : List (Quad × Bool)} {k : State → Cur → List (Quad × Bool) → Except Stop State}
    (h : Reads s gd srcs [] s1 cu vs) : readingIf s gd srcs k = conclude s1 cu (k s1 cu vs) := by
  have h' := h
  obtain ⟨⟨c0, h0, hg, _⟩, _, _⟩ := h'
  simp only [readingIf, withCur, h0, hg, if_true]
  exact reading_of_reads h

theorem onceComparing_of_reads {s s1 : State} {gd : Guard} {srcs : List (Opnd × Width)} {cu : Cur}
    {vs : List (Quad × Bool)} {seen : List (Quad × Bool) → List (Quad × Bool)}
    {k : State → Cur → List (Quad × Bool) → Except (State × Stop) State}
    (h : ReadsOnce s gd srcs s1 cu vs) :
    onceComparing s gd srcs seen k = match k s1 cu vs with
      | .ok s2 => .next s2
      | .error (s2, e) => concludePair s2 cu (.error e) := by
  obtain ⟨⟨c0, h0, hg, hs, h1⟩, hc, hv, hp⟩ := h
  have hr : readPair s1 cu srcs seen = .ok vs := by
    simp only [readPair, hv]
    cases hpr : cu.cv.isProtected with
    | false => simp
    | true =>
      simp only [if_true]
      cases ht : s1.thread? (shadowOf cu.r) with
      | none => rfl
      | some t' => simp [hp hpr t' ht]
  simp only [onceComparing, withCur, h0, hg, hs, ← h1, hc, hr, Bool.not_true, Bool.or_self,
    Bool.false_eq_true, if_false]
  all_goals rfl

theorem onceReading_of_reads {s s1 : State} {gd : Guard} {srcs : List (Opnd × Width)} {cu : Cur}
    {vs : List (Quad × Bool)} {k : State → Cur → List (Quad × Bool) → Except Stop State}
    (h : ReadsOnce s gd srcs s1 cu vs) :
    onceReading s gd srcs k = match k s1 cu vs with
      | .ok s2 => .next s2
      | .error e => concludePair s1 cu (.error e) := by
  rw [onceReading, onceComparing_of_reads h]
  cases k s1 cu vs <;> rfl

/-- With no latent error in the machine, finding the errors of registers changes nothing. -/
theorem touch_of_no_upsets {s : State} (h : s.upsets = []) (r : TRef) (names : List RegName) :
    s.touch r names = s := by
  have one : ∀ n, s.touchName r n = s := by
    intro n
    cases n with
    | g k => simp [State.touchName, State.touchReg, State.findErrors, h]
    | k _ =>
      simp only [State.touchName, State.touchKey, State.touchLanes, State.findErrors, h]
      split <;> rfl
    | h _ => rfl
  induction names with
  | nil => rfl
  | cons n ns ih => simpa [State.touch, one] using ih

theorem keyMembers_of_reads {s : State} {c : Cur} {srcs : List Opnd} {f : List Word → Word}
    (ms : List (TRef × Thread)) (vals : List (TRef × List Word))
    (hm : vals.map Prod.fst = ms.map Prod.fst)
    (hv : ms.map (s.keySources c srcs) = vals.map fun v => .ok v.2) :
    (ms.filterMap fun m => (s.keySources c srcs m).toOption.map fun v => (m.1, f v))
        = vals.map (fun v => (v.1, f v.2))
      ∧ (ms.filter fun m => !(s.keySources c srcs m).isOk) = [] := by
  induction ms generalizing vals with
  | nil => cases vals <;> simp_all
  | cons m ms ih =>
    cases vals with
    | nil => simp at hm
    | cons v vals =>
      simp only [List.map_cons, List.cons.injEq] at hm hv
      obtain ⟨h1, h2⟩ := ih vals hm.2 hv.2
      have h3 : (Except.ok v.2 : Except Stop (List Word)).toOption = some v.2 := rfl
      have h4 : (Except.ok v.2 : Except Stop (List Word)).isOk = true := rfl
      simp only [List.filterMap_cons, List.filter_cons, List.map_cons, hv.1, hm.1, h1, h2, h3, h4,
        Option.map_some, Bool.not_true, Bool.false_eq_true, if_false, and_self]

/-- A key-class instruction whose members all read their sources. -/
theorem keyOp_of_reads {s : State} {c : Cur} {d : Opnd} {srcs : List Opnd}
    {vals : List (TRef × List Word)} {f : List Word → Word} (h : KeyReads s c srcs vals) :
    keyOp s d srcs f = c.keyResult s d (vals.map fun v => (v.1, f v.2)) := by
  obtain ⟨hc, hu, hm, hv⟩ := h
  have ht : ∀ ms : List (TRef × Thread), ∀ names,
      ms.foldl (fun s m => s.touch m.1 names) s = s := by
    intro ms names
    induction ms with
    | nil => rfl
    | cons m ms ih => simpa [touch_of_no_upsets hu] using ih
  obtain ⟨h1, h2⟩ := keyMembers_of_reads (f := f) _ vals hm hv
  simp only [keyOp, withCur, hc, ht, h1, h2, List.foldl_nil, Cur.keyResult, List.map_map]
  rw [show (Prod.fst ∘ fun v : TRef × List Word => (v.1, f v.2)) = Prod.fst from rfl, hm]

end Sys2Proof.Machine
end

