-- ==== Sys2Proof/Laws/Ops.lean ====
section
/-! SUPPORT. What the shared frames of the instructions answer: for the thread whose turn it is, under
its guard, once for a protected pair, and at a rendezvous or a gang; and that none of them is a
refusal where what they run is none. -/

namespace Sys2Proof.Machine

/-! The ends of an instruction. -/

@[simp] theorem conclude_ok (s s' : State) (c : Cur) : conclude s c (.ok s') = .next s' := rfl
@[simp] theorem conclude_trap (s : State) (c : Cur) (k : Cause) (v : DWord) :
    conclude s c (.error (.trap k v)) = .next (s.trapAt c k v) := rfl
@[simp] theorem conclude_hold (s : State) (c : Cur) :
    conclude s c (.error .hold) = .next (s.holdAt c) := rfl
@[simp] theorem conclude_halt (s : State) (c : Cur) (f : Fault) :
    conclude s c (.error (.halt f)) = .fault f := rfl
@[simp] theorem concludePair_ok (s s' : State) (c : Cur) : concludePair s c (.ok s') = .next s' := rfl
@[simp] theorem concludePair_trap (s : State) (c : Cur) (k : Cause) (v : DWord) :
    concludePair s c (.error (.trap k v)) = .next (s.trapPair c k v) := rfl
@[simp] theorem concludePair_hold (s : State) (c : Cur) :
    concludePair s c (.error .hold) = .next (s.holdPair c) := rfl
@[simp] theorem concludePair_halt (s : State) (c : Cur) (f : Fault) :
    concludePair s c (.error (.halt f)) = .fault f := rfl

/-- An instruction ends in its own state, in a trap, in a hold, or in a fault. -/
theorem conclude_cases (s : State) (c : Cur) (r : Except Stop State) :
    (∃ s', r = .ok s' ∧ conclude s c r = .next s')
    ∨ (∃ k v, r = .error (.trap k v) ∧ conclude s c r = .next (s.trapAt c k v))
    ∨ (r = .error .hold ∧ conclude s c r = .next (s.holdAt c))
    ∨ ∃ f, r = .error (.halt f) ∧ conclude s c r = .fault f := by
  cases r with
  | ok s' => exact .inl ⟨s', rfl, rfl⟩
  | error e =>
    cases e with
    | trap k v => exact .inr (.inl ⟨k, v, rfl, rfl⟩)
    | hold => exact .inr (.inr (.inl ⟨rfl, rfl⟩))
    | halt f => exact .inr (.inr (.inr ⟨f, rfl, rfl⟩))

/-- In a launch without protection an instruction performed once ends as any other. -/
theorem concludePair_ordinary (s : State) (c : Cur) (r : Except Stop State)
    (h : c.cv.isProtected = false) : concludePair s c r = conclude s c r := by
  cases r with
  | ok s' => rfl
  | error e =>
    cases e with
    | trap k v => simp [State.trapPair, h]
    | hold => simp [State.holdPair, h]
    | halt f => rfl

/-! The thread whose turn it is, its guard, and the pair. -/

theorem withCur_of_cur {s : State} {c : Cur} (h : s.cur = some c)
    (k : Cur → Host.Outcome State Fault Refusal) : withCur s k = k c := by simp only [withCur, h]

theorem withCur_of_none {s : State} (h : s.cur = none)
    (k : Cur → Host.Outcome State Fault Refusal) : withCur s k = .fault .noThread := by
  simp only [withCur, h]

theorem guarded_of_runs {s : State} {c : Cur} {gd : Guard} (h : s.cur = some c)
    (hg : guardHolds gd c.t = true) (k : Cur → Host.Outcome State Fault Refusal) :
    guarded s gd k = k c := by simp only [guarded, withCur, h, hg, if_true]

theorem guarded_of_off {s : State} {c : Cur} {gd : Guard} (h : s.cur = some c)
    (hg : guardHolds gd c.t = false) (k : Cur → Host.Outcome State Fault Refusal) :
    guarded s gd k = .next s := by
  simp only [guarded, withCur, h, hg, Bool.false_eq_true, if_false]

theorem once_of_runs {s : State} {c : Cur} {gd : Guard} (h : s.cur = some c)
    (hg : guardHolds gd c.t = true) (hs : isShadow c.cv c.r = false)
    (k : Cur → Host.Outcome State Fault Refusal) : once s gd k = k c := by
  rw [once, guarded_of_runs h hg, hs]
  rfl

theorem once_of_shadow {s : State} {c : Cur} {gd : Guard} (h : s.cur = some c)
    (hs : isShadow c.cv c.r = true) (k : Cur → Host.Outcome State Fault Refusal) :
    once s gd k = .next s := by
  simp only [once, guarded, withCur, h, hs, if_true, ite_self]

theorem runA_of_off {s : State} {c : Cur} {gd : Guard} (d : Opnd) (w : Width)
    (srcs : List (Opnd × Width)) (f : Cur → List (Quad × Bool) → ARes) (h : s.cur = some c)
    (hg : guardHolds gd c.t = false) :
    runA s gd d w srcs f
      = .next (s.modThread c.r fun t => t.produce w (t.held? d w).1 (t.held? d w).2) := by
  simp only [runA, withCur, h, hg, Bool.false_eq_true, if_false]

theorem readingIf_of_off {s : State} {c : Cur} {gd : Guard} (srcs : List (Opnd × Width))
    (k : State → Cur → List (Quad × Bool) → Except Stop State) (h : s.cur = some c)
    (hg : guardHolds gd c.t = false) : readingIf s gd srcs k = .next s := by
  simp only [readingIf, withCur, h, hg, Bool.false_eq_true, if_false]

theorem onceReading_of_off {s : State} {c : Cur} {gd : Guard} (srcs : List (Opnd × Width))
    (k : State → Cur → List (Quad × Bool) → Except Stop State) (h : s.cur = some c)
    (hg : guardHolds gd c.t = false) : onceReading s gd srcs k = .next s := by
  simp only [onceReading, onceComparing, withCur, h, hg, Bool.not_false, Bool.true_or, if_true]

/-! Arrival at a rendezvous and at a gang. -/

theorem readOpnd_of_readAll {s : State} {c : Cur} {w : Width} {o : Opnd} {v : Quad × Bool}
    (h : readAll s c [(o, w)] = .ok [v]) : readOpnd s c w o = .ok v := by
  simp only [readAll] at h
  split at h <;> simp_all

/-- A thread that its mask leaves out does nothing (R173). -/
theorem crossOp_of_outside {s s0 : State} {gd : Guard} {i : Instr} {srcs : List (Opnd × Width)}
    {m : Opnd} {c0 : Cur} {vm : Quad × Bool} (h : Reads s always [(m, .w32)] [] s0 c0 [vm])
    (hm : (c0.cv.maskOf m vm).testBit c0.lane = false) : crossOp s gd i srcs m = .next s0 := by
  obtain ⟨⟨c, hc, _, h0⟩, h1, hv⟩ := h
  replace h0 : s0 = s.touch c.r (m.names .w32) := by simpa using h0
  have ho := readOpnd_of_readAll hv
  simp only [crossOp, withCur, hc, ← h0, h1, ho, hm, Bool.false_eq_true, if_false]

/-- A thread of its own mask that is predicated off arrives without operands (R174). -/
theorem crossOp_of_off {s s0 : State} {gd : Guard} {i : Instr} {srcs : List (Opnd × Width)}
    {m : Opnd} {c0 : Cur} {vm : Quad × Bool} (h : Reads s always [(m, .w32)] [] s0 c0 [vm])
    (hm : (c0.cv.maskOf m vm).testBit c0.lane = true) (hg : guardHolds gd c0.t = false) :
    crossOp s gd i srcs m = .next (s0.arrive c0 i (c0.cv.maskOf m vm) true []) := by
  obtain ⟨⟨c, hc, _, h0⟩, h1, hv⟩ := h
  replace h0 : s0 = s.touch c.r (m.names .w32) := by simpa using h0
  have ho := readOpnd_of_readAll hv
  have hr : Reads s0 always [] [] s0 c0 [] := ⟨⟨c0, h1, rfl, rfl⟩, h1, rfl⟩
  simp only [crossOp, withCur, hc, ← h0, h1, ho, hm, hg, if_true, Bool.false_eq_true, if_false,
    reading_of_reads hr]
  rfl

/-- A thread of its own mask that executes reads its other operands and arrives with them (R173). -/
theorem crossOp_of_reads {s s0 s1 : State} {gd : Guard} {i : Instr} {srcs : List (Opnd × Width)}
    {m : Opnd} {c0 cu : Cur} {vm : Quad × Bool} {vs : List (Quad × Bool)}
    (h : Reads s always [(m, .w32)] [] s0 c0 [vm])
    (hm : (c0.cv.maskOf m vm).testBit c0.lane = true) (hg : guardHolds gd c0.t = true)
    (hr : Reads s0 gd srcs [] s1 cu vs) :
    crossOp s gd i srcs m = .next (s1.arrive cu i (c0.cv.maskOf m vm) false (vs.map Prod.fst)) := by
  obtain ⟨⟨c, hc, _, h0⟩, h1, hv⟩ := h
  replace h0 : s0 = s.touch c.r (m.names .w32) := by simpa using h0
  have ho := readOpnd_of_readAll hv
  simp only [crossOp, withCur, hc, ← h0, h1, ho, hm, hg, if_true, reading_of_reads hr]
  rfl

theorem gangOp_of_reads {s s1 : State} {gd : Guard} {i : Instr} {a b x : Opnd} {cu : Cur}
    {vx va vb : Quad × Bool}
    (h : Reads s gd [(x, .w32), (a, .w128), (b, .w32)] [] s1 cu [vx, va, vb]) :
    gangOp s gd i a b x = if gangBad cu (lo32 vx).toNat then
      .next (s1.trapAt cu .gangMismatch (dw (lo32 vx).toNat))
      else .next (s1.arrive cu i (lo32 vx).toNat false [va.1, vb.1]) := by
  have h' := h
  obtain ⟨⟨c0, h0, hg, _⟩, _, _⟩ := h'
  simp only [gangOp, withCur, h0, hg, if_true]
  rw [reading_of_reads h]
  cases hb : gangBad cu (lo32 vx).toNat <;> simp [nth, hb]

/-! No frame refuses. -/

theorem conclude_ne_refused (s : State) (c : Cur) (r : Except Stop State) (x : Refusal) :
    conclude s c r ≠ .refused x := by
  rcases conclude_cases s c r with ⟨_, _, h⟩ | ⟨_, _, _, h⟩ | ⟨_, h⟩ | ⟨_, _, h⟩ <;>
    rw [h] <;> simp

theorem concludePair_ne_refused (s : State) (c : Cur) (r : Except Stop State) (x : Refusal) :
    concludePair s c r ≠ .refused x := by
  cases r with
  | ok s' => simp
  | error e => cases e <;> simp

theorem withCur_ne_refused {s : State} {k : Cur → Host.Outcome State Fault Refusal} {x : Refusal}
    (h : ∀ c, k c ≠ .refused x) : withCur s k ≠ .refused x := by
  unfold withCur
  split
  · simp
  · exact h _

theorem guarded_ne_refused {s : State} {gd : Guard} {k : Cur → Host.Outcome State Fault Refusal}
    {x : Refusal} (h : ∀ c, k c ≠ .refused x) : guarded s gd k ≠ .refused x :=
  withCur_ne_refused fun c => by
    split
    · exact h c
    · simp

theorem once_ne_refused {s : State} {gd : Guard} {k : Cur → Host.Outcome State Fault Refusal}
    {x : Refusal} (h : ∀ c, k c ≠ .refused x) : once s gd k ≠ .refused x :=
  guarded_ne_refused fun c => by
    split
    · simp
    · exact h c

theorem runA_ne_refused (s : State) (gd : Guard) (d : Opnd) (w : Width) (srcs : List (Opnd × Width))
    (f : Cur → List (Quad × Bool) → ARes) (x : Refusal) : runA s gd d w srcs f ≠ .refused x :=
  withCur_ne_refused fun c => by
    split
    · exact withCur_ne_refused fun c => conclude_ne_refused _ _ _ _
    · simp

theorem reading_ne_refused (s : State) (srcs : List (Opnd × Width))
    (k : State → Cur → List (Quad × Bool) → Except Stop State) (x : Refusal) :
    reading s srcs k ≠ .refused x :=
  withCur_ne_refused fun _ => withCur_ne_refused fun _ => conclude_ne_refused _ _ _ _

theorem readingIf_ne_refused (s : State) (gd : Guard) (srcs : List (Opnd × Width))
    (k : State → Cur → List (Quad × Bool) → Except Stop State) (x : Refusal) :
    readingIf s gd srcs k ≠ .refused x :=
  withCur_ne_refused fun _ => by
    split
    · exact reading_ne_refused _ _ _ _
    · simp

theorem onceComparing_ne_refused (s : State) (gd : Guard) (srcs : List (Opnd × Width))
    (seen : List (Quad × Bool) → List (Quad × Bool))
    (k : State → Cur → List (Quad × Bool) → Except (State × Stop) State) (x : Refusal) :
    onceComparing s gd srcs seen k ≠ .refused x :=
  withCur_ne_refused fun c => by
    split
    · simp
    · refine withCur_ne_refused fun c => ?_
      split
      · exact concludePair_ne_refused _ _ _ _
      · split
        · simp
        · exact concludePair_ne_refused _ _ _ _

theorem onceReading_ne_refused (s : State) (gd : Guard) (srcs : List (Opnd × Width))
    (k : State → Cur → List (Quad × Bool) → Except Stop State) (x : Refusal) :
    onceReading s gd srcs k ≠ .refused x := onceComparing_ne_refused _ _ _ _ _ _

theorem crossOp_ne_refused (s : State) (gd : Guard) (i : Instr) (srcs : List (Opnd × Width))
    (m : Opnd) (x : Refusal) : crossOp s gd i srcs m ≠ .refused x :=
  withCur_ne_refused fun _ => withCur_ne_refused fun _ => by
    split
    · exact conclude_ne_refused _ _ _ _
    · dsimp only
      split
      · exact reading_ne_refused _ _ _ _
      · simp

theorem gangOp_ne_refused (s : State) (gd : Guard) (i : Instr) (a b m : Opnd) (x : Refusal) :
    gangOp s gd i a b m ≠ .refused x :=
  withCur_ne_refused fun _ => reading_ne_refused _ _ _ _

theorem keyOp_ne_refused (s : State) (d : Opnd) (srcs : List Opnd) (f : List Word → Word)
    (x : Refusal) : keyOp s d srcs f ≠ .refused x :=
  withCur_ne_refused fun _ => withCur_ne_refused fun _ => by simp

end Sys2Proof.Machine
end

