-- ==== Sys2Proof/Tests/Slice0.lean ====
section
/-! SUPPORT. Tests. A well-formedness smoke test; for every instruction a word written out from the
encoding tables of the spec (R53 to R55, R66 to R72 and each group's own table); worked examples of the
spec; and for every statement a witness that meets the hypotheses of each of its clauses. Expected values
come from the rules cited, never from the model. -/

namespace Sys2Proof.Tests

open Sys2Proof Sys2Proof.Machine

-- One theorem at a time: the threads of parallel checks would pass the memory limit.
set_option Elab.async false

def al : Guard := ⟨7, false⟩

/-- An instruction that the widest key does not admit at the head of a clause. -/
def illFormed (l : List Instr) : Bool := l.all fun i => !i.wf

/-- Each group breaks one check of R62: a type that R72 does not give; an option it does not give; a
register group that is misaligned or runs past the count (R56); a destination that is no register (R55); a
distance with no producer (R58); a predicate field that is never (R59); an operand form that the group does
not take; a handle where none is read; and an event that names no unit of its die (R11). -/
theorem test_wf_refuses : illFormed [
    .add al .f32 false (.g 1) (.g 2) (.g 3), .neg al .n32 false (.g 1) (.g 2),
    .fcvt al false .rn .f32 .f32 (.g 1) (.g 2), .ldImm al .b128 0 (.g 4) (.g 8) 0,
    .cmp al .i32 0 .un (.g 1) (.g 2) (.g 3), .movi al .b32 .s44 (.g 1) (.g 2),
    .xred al .f32 3 (.g 1) (.g 2) .none, .atom al .b32 .sys 0 (.g 1) (.g 16) .zero (.g 2),
    .add al .i64 false (.g 1) (.g 2) (.g 4), .mov al .b128 (.g 2) (.g 4),
    .mov al .b128 (.k 4) (.g 4), .add al .i32 false .zero (.g 2) (.g 3),
    .add al .i32 false (.k 1) (.g 2) (.g 3), .kadd (.g 1) (.k 2) (.k 3),
    .add al .i32 false (.g 1) (.dist 0) (.g 3), .add ⟨7, true⟩ .i32 false (.g 1) (.g 2) (.g 3),
    .br al (.g 3), .rdv al (.g 3), .mov al .b64 (.g 2) (.h 1), .hmov al (.g 2) (.g 4),
    .rast al (.g 4) (.k 60) (.k 10) .none, .mzero al (.g 2) (.g 40),
    .clauseIssue .craren 99 0, .lineAdvance .craren 3, .virtualInterfaceReset .craren 16]
    = true := by decide +kernel

theorem test_wf_accepts : ([
    .add al .i32 false (.g 1) (.g 2) (.g 3), .mov al .b128 (.g 4) (.k 4), .kadd (.k 1) (.k 2) (.k 3),
    .hmov al (.h 1) (.h 2), .clauseIssue .dukor 256 1, .lineAdvance .dukor 4] : List Instr).all Instr.wf
    = true := by decide +kernel

/-- Under a key of 32 registers and 4 keys, g32 and k4 do not exist (R56); after a 32-bit producer d1 is
read at 32 bits and not at 64 (R58); kmerge is reserved in ISA version 1 (R74). -/
theorem test_wf_key :
    (Instr.add al .i32 false (.g 31) (.g 30) (.k 3)).wfIn ⟨2, 32, 4⟩ [] = true
    ∧ (Instr.add al .i32 false (.g 32) (.g 30) (.k 3)).wfIn ⟨2, 32, 4⟩ [] = false
    ∧ (Instr.add al .i32 false (.g 31) (.g 30) (.k 4)).wfIn ⟨2, 32, 4⟩ [] = false
    ∧ (Instr.add al .i32 false (.g 31) (.dist 0) (.k 3)).wfIn ⟨2, 32, 4⟩ [.w32] = true
    ∧ (Instr.add al .i64 false (.g 30) (.dist 0) (.k 2)).wfIn ⟨2, 32, 4⟩ [.w32] = false
    ∧ Instr.kmerge.wfIn ⟨1, 32, 4⟩ [] = false ∧ Instr.kmerge.wfIn ⟨2, 32, 4⟩ [] = true := by
  decide +kernel

/-! Words of every instruction, and the instruction they stand for. -/

def decodes (l : List (Nat × Instr)) : Bool := l.all fun p => decide (decodeTableWord 64 p.1 = some p.2)

theorem test_decode_integer : decodes [
    (0x023FFC0300801701, .add al .i32 true (.g 1) (.g 2) (.g 3)),
    (0x0030001001004781, .addImm al .i32 false (.g 4) (.g 4) 16),
    (0x001FFC0300801702, .sub al .i8 false (.g 1) (.g 2) (.g 3)),
    (0x024FFFFE01808782, .subImm al .i64 true (.g 8) (.g 6) 0xFFFFE),
    (0x027FFC0801004703, .addc al .n32 1 (.g 4) (.g 4) (.g 8)),
    (0x0C80000001002783, .addcImm al .n64 6 (.g 2) (.g 4) 0),
    (0x003FFC0300801704, .subb al .i32 0 (.g 1) (.g 2) (.g 3)),
    (0x0440000101002784, .subbImm al .i64 2 (.g 2) (.g 4) 1),
    (0x002FFF4AD2001705, .mul al .i16 false (.g 1) .zero .lane),
    (0x0250000700801785, .mulImm al .n8 true (.g 1) (.g 2) 7),
    (0x007FFF4CD2C01706, .mulh al .n32 (.g 1) .crew .tindex),
    (0x003FFFFF00801786, .mulhImm al .i32 (.g 1) (.g 2) 0xFFFFF),
    (0x00700B0EC3005707, .mad al .n32 false (.g 5) (.k 12) (.k 14) (.g 2)),
    (0x006FFF4ED3401708, .div al .n16 (.g 1) .cove .bay),
    (0x0030000A00801788, .divImm al .i32 (.g 1) (.g 2) 10),
    (0x008FFC0400BFF709, .rem al .n64 .none (.g 2) (.g 4)),
    (0x0070000800801789, .remImm al .n32 (.g 1) (.g 2) 8),
    (0x023FFFFF0080170A, .neg al .i32 true (.g 1) (.g 2)),
    (0x004FFFFF01002B0B, .abs ⟨3, true⟩ .i64 false (.g 2) (.g 4)),
    (0x003FFC030080170C, .min al .i32 (.g 1) (.g 2) (.g 3)),
    (0x007000FF0080178C, .minImm al .n32 (.g 1) (.g 2) 255),
    (0x005FFC030080170D, .max al .n8 (.g 1) (.g 2) (.g 3)),
    (0x001000000080178D, .maxImm al .i8 (.g 1) (.g 2) 0),
    (0x0C7FFF0C00C0770E, .lea al .n32 6 (.g 7) (.g 3) (.k 12)),
    (0x068000050100278E, .leaImm al .n64 3 (.g 2) (.g 4) 5),
    (0x14BFFF040200470F, .sel al .b128 true 2 (.g 4) (.g 8) (.k 4)),
    (0x0E9000090080178F, .selImm al .b32 false 7 (.g 1) (.g 2) 9)
  ] = true := by decide +kernel

theorem test_decode_bits_1 : decodes [
    (0x009FFC0300801710, .and al .b32 (.g 1) (.g 2) (.g 3)),
    (0x00AFFFF001002790, .andImm al .b64 (.g 2) (.g 4) 0xFFFF0),
    (0x009FFC0300801711, .or al .b32 (.g 1) (.g 2) (.g 3)),
    (0x00AFFFF001002791, .orImm al .b64 (.g 2) (.g 4) 0xFFFF0),
    (0x009FFC0300801712, .xor al .b32 (.g 1) (.g 2) (.g 3)),
    (0x00AFFFF001002792, .xorImm al .b64 (.g 2) (.g 4) 0xFFFF0),
    (0x009FFC0300801713, .andn al .b32 (.g 1) (.g 2) (.g 3)),
    (0x00AFFFF001002793, .andnImm al .b64 (.g 2) (.g 4) 0xFFFF0),
    (0x009FFFFF00801714, .not al .b32 (.g 1) (.g 2)),
    (0x00AFFC0301002715, .shl al .b64 (.g 2) (.g 4) (.g 3)),
    (0x0090001F00801795, .shlImm al .b32 (.g 1) (.g 2) 31),
    (0x00AFFC0301002716, .shr al .b64 (.g 2) (.g 4) (.g 3)),
    (0x0090001F00801796, .shrImm al .b32 (.g 1) (.g 2) 31),
    (0x00AFFC0301002717, .sar al .b64 (.g 2) (.g 4) (.g 3)),
    (0x0090001F00801797, .sarImm al .b32 (.g 1) (.g 2) 31),
    (0x00AFFC0301002718, .rol al .b64 (.g 2) (.g 4) (.g 3)),
    (0x0090001F00801798, .rolImm al .b32 (.g 1) (.g 2) 31),
    (0x003FFC0300801719, .bfx al .i32 (.g 1) (.g 2) (.g 3)),
    (0x0080100801002799, .bfxImm al .n64 (.g 2) (.g 4) 0x1008),
    (0x009014030080171A, .bfi al .b32 (.g 1) (.g 2) (.g 3) (.g 5)),
    (0x00AFFFFF0100271B, .bfr al .b64 (.g 2) (.g 4)),
    (0x00AFFFFF0100271C, .popc al .b64 (.g 2) (.g 4)),
    (0x00AFFFFF0100271D, .clz al .b64 (.g 2) (.g 4)),
    (0x00AFFFFF0100271E, .ctz al .b64 (.g 2) (.g 4)),
    (0x247FFF0FC33FF71F, .cmp al .n32 1 .lt .none (.k 12) (.k 15)),
    (0xCA3FFFFF0080179F, .cmpImm al .i32 6 .ge (.g 1) (.g 2) 0xFFFFF),
    (0x00BFFFFF02004720, .mov al .b128 (.g 4) (.g 8)),
    (0x06AFFC04FFC02721, .movi al .b64 .s44 (.g 2) (.g 4)),
    (0x02912345FFC017A1, .moviImm al .b32 .s12 (.g 1) 0x12345),
    (0x4F8FFFFFFFC01722, .pand al 2 3 7 (.g 1))
  ] = true := by decide +kernel

theorem test_decode_bits_2 : decodes [
    (0x4FAFFFFFFFC01722, .por al 2 3 7 (.g 1)),
    (0x4FCFFFFFFFC01722, .pxor al 2 3 7 (.g 1)),
    (0xC46FFFFFFFFFF722, .pnot al 6 1 .none)
  ] = true := by decide +kernel

theorem test_decode_float_1 : decodes [
    (0x02EFFC0601002723, .fadd al .f32 .rz (.g 2) (.g 4) (.g 6)),
    (0x04E3F800008017A3, .faddImm al .f32 .ru (.g 1) (.g 2) 0x3F800),
    (0x02CFFC0601002724, .fsub al .f16 .rz (.g 2) (.g 4) (.g 6)),
    (0x04E3F800008017A4, .fsubImm al .f32 .ru (.g 1) (.g 2) 0x3F800),
    (0x02FFFC0601002725, .fmul al .f64 .rz (.g 2) (.g 4) (.g 6)),
    (0x04E3F800008017A5, .fmulImm al .f32 .ru (.g 1) (.g 2) 0x3F800),
    (0x06D0100300801726, .fma al .bf16 .rd (.g 1) (.g 2) (.g 3) (.g 4)),
    (0x00CFFC0300801727, .fmin al .f16 (.g 1) (.g 2) (.g 3)),
    (0x00E00000008017A7, .fminImm al .f32 (.g 1) (.g 2) 0),
    (0x02CFFC0300801727, .fmax al .f16 (.g 1) (.g 2) (.g 3)),
    (0x02E00000008017A7, .fmaxImm al .f32 (.g 1) (.g 2) 0),
    (0x04CFFC0300801727, .fminm al .f16 (.g 1) (.g 2) (.g 3)),
    (0x04E00000008017A7, .fminmImm al .f32 (.g 1) (.g 2) 0),
    (0x06CFFC0300801727, .fmaxm al .f16 (.g 1) (.g 2) (.g 3)),
    (0x06E00000008017A7, .fmaxmImm al .f32 (.g 1) (.g 2) 0),
    (0x9AEFFC0300801728, .fcmp al .f32 4 .geu (.g 1) (.g 2) (.g 3)),
    (0x0EE4000000BFF7A8, .fcmpImm al .f32 0 .or .none (.g 2) 0x40000),
    (0x04EFFC0300801729, .fsgn al .f32 2 (.g 1) (.g 2) (.g 3)),
    (0x00CFFFFF0080172A, .fclass al .f16 (.g 1) (.g 2)),
    (0x04DFFFFF0080172B, .frnd al .bf16 .ru (.g 1) (.g 2)),
    (0x9D0FFFFF0080172C, .fcvt al true .rn .e4m3 .f32 (.g 1) (.g 2)),
    (0x3E3FFFFF0080172C, .f2i al false .rz .i32 .f64 (.g 1) (.g 2)),
    (0x70FFFFFF0100272C, .i2f al false .rd .f64 .n64 (.g 2) (.g 4)),
    (0x10EFFFFF0080172D, .rcp al .f32 .rz (.g 1) (.g 2)),
    (0x02CFFFFF0080172D, .rsq al .f16 (.g 1) (.g 2)),
    (0x34EFFFFF0080172D, .sqrt al .f32 .rd (.g 1) (.g 2)),
    (0x06EFFFFF0080172D, .ex2 al .f32 (.g 1) (.g 2)),
    (0x08EFFFFF0080172D, .lg2 al .f32 (.g 1) (.g 2)),
    (0x0AEFFFFF0080172D, .sin al .f32 (.g 1) (.g 2)),
    (0x0CEFFFFF0080172D, .cos al .f32 (.g 1) (.g 2))
  ] = true := by decide +kernel

theorem test_decode_float_2 : decodes [
    (0x02CFFC030080172E, .hadd2 al .f16 .rz (.g 1) (.g 2) (.g 3)),
    (0x00DFFC030080172F, .hmul2 al .bf16 .rn (.g 1) (.g 2) (.g 3)),
    (0x04C0100300801730, .hfma2 al .f16 .ru (.g 1) (.g 2) (.g 3) (.g 4)),
    (0x06EFFC0301001731, .qpack al .f32 .rd (.g 1) (.g 4) (.g 3)),
    (0x00DFFC0300404732, .qunpk al .bf16 (.g 4) (.g 1) (.g 3)),
    (0x00CFFC0300402733, .qscale al .f16 (.g 2) (.g 1) (.g 3)),
    (0x02CFFC0801001734, .spcmp al .f16 1 (.g 1) (.g 4) (.g 8) .none),
    (0x04CD200302004735, .spexp al .f16 2 (.g 4) (.g 8) (.g 3) .zero)
  ] = true := by decide +kernel

theorem test_decode_control : decodes [
    (0x000FFF48FFFFF737, .br al .zero),
    (0x000FFFFCFFFFF1B7, .brImm ⟨1, false⟩ 0xFFFFC),
    (0x000FFFFF013FF738, .brx al (.g 4)),
    (0x000FFF48FFC02739, .call al (.g 2) .zero),
    (0x0000000CFFFFF7B9, .callImm al .none 12),
    (0x000FFFFF0100273A, .callx al (.g 2) (.g 4)),
    (0x000FFFFFFFFFF73C, .exit al),
    (0x000FFFFFFFFFF73D, .yield al),
    (0x000FFFFFFFFFF73F, .brk al),
    (0x000FFFFFFFFFF779, .tret al),
    (0x000FFFFFFFFFF775, .ptsync al),
    (0x000FFFFF00BFF73B, .ret al (.g 2)),
    (0x000FFC03013FF73E, .nap al (.g 4) (.g 3)),
    (0x000FFC03FFFFF778, .trap al (.g 3)),
    (0x0000004DFFFFF7F8, .trapImm al 77),
    (0x000FFFFFFFC0577A, .ckpt al (.g 5)),
    (0x00AFFC03FFC02776, .sysr al .b64 (.g 2) (.g 3)),
    (0x00900013FFC017F6, .sysrImm al .b32 (.g 1) 0x13),
    (0x00AFFC0300BFF777, .sysw al .b64 (.g 2) (.g 3)),
    (0x0090000000BFF7F7, .syswImm al .b32 (.g 2) 0)
  ] = true := by decide +kernel

theorem test_decode_key : decodes [
    (0x000FFF03C0B01740, .kadd (.k 1) (.k 2) (.k 3)),
    (0x00000001C330C7C0, .kaddImm (.k 12) (.k 12) 1),
    (0x000FFF03C0B01741, .ksub (.k 1) (.k 2) (.k 3)),
    (0x00000001C330C7C1, .ksubImm (.k 12) (.k 12) 1),
    (0x000FFF03C0B01742, .kmul (.k 1) (.k 2) (.k 3)),
    (0x00000001C330C7C2, .kmulImm (.k 12) (.k 12) 1),
    (0x000FFF03C0B01743, .kand (.k 1) (.k 2) (.k 3)),
    (0x00000001C330C7C3, .kandImm (.k 12) (.k 12) 1),
    (0x000FFF03C0B01744, .kor (.k 1) (.k 2) (.k 3)),
    (0x00000001C330C7C4, .korImm (.k 12) (.k 12) 1),
    (0x000FFF03C0B01745, .kxor (.k 1) (.k 2) (.k 3)),
    (0x00000001C330C7C5, .kxorImm (.k 12) (.k 12) 1),
    (0x000FFF03C0B01746, .kshl (.k 1) (.k 2) (.k 3)),
    (0x00000001C330C7C6, .kshlImm (.k 12) (.k 12) 1),
    (0x000FFF03C0B01747, .kshr (.k 1) (.k 2) (.k 3)),
    (0x00000001C330C7C7, .kshrImm (.k 12) (.k 12) 1),
    (0x000FFFFFD2301748, .kmov (.k 1) .zero),
    (0x020FFF02FFF01749, .kmovi true (.k 1) (.k 2)),
    (0x00000063FFF017C9, .kmoviImm false (.k 1) 99),
    (0x043FFF03C0B0174A, .kcmp .i32 .lt (.k 1) (.k 2) (.k 3)),
    (0x0A700003C0B017CA, .kcmpImm .n32 .ge (.k 1) (.k 2) 3),
    (0x0E0FFF03C0B0174B, .klea 7 (.k 1) (.k 2) (.k 3)),
    (0x040FFFFDC0B017CB, .kleaImm 2 (.k 1) (.k 2) 0xFFFFD),
    (0x000FFFFFFFFFF74C, .kmerge)
  ] = true := by decide +kernel

theorem test_decode_cross : decodes [
    (0x00AC140301002750, .xpull al .b64 (.g 2) (.g 4) (.g 3) (.k 5)),
    (0x00900004008017D0, .xpullImm al .b32 (.g 1) (.g 2) 4),
    (0x029FFC0300801751, .xpush al .b32 true (.g 1) (.g 2) (.g 3) .none),
    (0x040FFFFF00801752, .xvote al 2 (.g 1) (.g 2) .none),
    (0x009FFFFF01808753, .xfirst al .b32 (.g 8) (.g 6) .none),
    (0x04EFFFFF00801754, .xred al .f32 2 (.g 1) (.g 2) .none),
    (0x1A9C0FFF00801755, .xscan al .b32 true 5 (.g 1) (.g 2) (.k 3)),
    (0x00AFFFFF00801756, .xmatch al .b64 (.g 1) (.g 2) .none),
    (0x000FFFFFFFFFF757, .rdv al .none),
    (0x000FFF0AC0404758, .rast al (.g 4) (.k 1) (.k 10) .none),
    (0x000C082C0A351759, .mma al (.h 1) (.g 40) (.g 44) (.k 2)),
    (0x020C082C0A351759, .mmaSp al (.h 1) (.g 40) (.g 44) (.k 2)),
    (0x040C082C0A351759, .mmaSc al (.h 1) (.g 40) (.g 44) (.k 2)),
    (0x000FFFFF0A35275A, .mzero al (.h 2) (.g 40)),
    (0x0E0FFC2C0A3FF75B, .chdef al 7 (.g 40) (.g 44)),
    (0x060FFFFF0A35375C, .chrun al 3 (.h 3) (.g 40)),
    (0x000FFC03FFC0275F, .perfRd al (.g 2) (.g 3))
  ] = true := by decide +kernel

theorem test_decode_memory : decodes [
    (0x02BFFC0304014760, .ld al .b128 1 (.g 20) (.g 16) (.g 3)),
    (0x00900020040017E0, .ldImm al .b32 0 (.g 1) (.g 16) 0x20),
    (0x04600F48043FF761, .st al .n16 2 (.g 16) .zero (.g 3)),
    (0x00AFFF08C1002762, .ldK al .b64 0 (.g 2) (.k 4) (.k 8)),
    (0x00900008C10017E2, .ldKImm al .b32 0 (.g 1) (.k 4) 8),
    (0x8E900B4804001763, .atom al .b32 .sys 7 (.g 1) (.g 16) .zero (.g 2)),
    (0x20AFFF4804002764, .acq al .cove (.g 2) (.g 16) .zero),
    (0x40A01348043FF765, .rel al .bay (.g 16) .zero (.g 4)),
    (0x600FFFFFFFFFF766, .fence al .die),
    (0x000FFFFFFFFFF767, .icinv al .thr),
    (0x000FFC03043FF768, .pf al (.g 16) (.g 3)),
    (0x00000040043FF7E8, .pfImm al (.g 16) 64),
    (0x020FFC03043FF768, .pfi al (.g 16) (.g 3)),
    (0x02000040043FF7E8, .pfiImm al (.g 16) 64),
    (0x000FFC03043FF769, .stashWb al (.g 16) (.g 3) .none),
    (0x020FFC03043FF769, .stashInv al (.g 16) (.g 3) .none),
    (0x00000C020400476A, .capNew al (.g 4) (.g 16) (.g 2) (.g 3)),
    (0x020FFC020400476A, .capSet al (.g 4) (.g 16) (.g 2)),
    (0x040FFC030400476A, .capAdd al (.g 4) (.g 16) (.g 3)),
    (0x060FFC030400476A, .capBnd al (.g 4) (.g 16) (.g 3)),
    (0x080FFC030400476A, .capPrm al (.g 4) (.g 16) (.g 3)),
    (0x0A0008030400176A, .capChk al (.g 1) (.g 16) (.g 3) (.g 2)),
    (0x0C0FFC030400276A, .capGet al (.g 2) (.g 16) (.g 3))
  ] = true := by decide +kernel

theorem test_decode_engine : decodes [
    (0x000060140435476B, .cpBlk al (.h 4) (.g 16) (.g 20) (.g 24)),
    (0x020060140435476B, .cpTile al (.h 4) (.g 16) (.g 20) (.g 24)),
    (0x040060140435476B, .cpGat al (.h 4) (.g 16) (.g 20) (.g 24)),
    (0x060060140435476B, .cpSct al (.h 4) (.g 16) (.g 20) (.g 24)),
    (0x080060140435476B, .cpMc al (.h 4) (.g 16) (.g 20) (.g 24)),
    (0x0A0063FF0435476B, .cpFill al (.h 4) (.g 16) (.g 24)),
    (0x000FFFFF00FFF76C, .hwait al (.g 3)),
    (0x020FFFFF00C0276C, .htest al (.g 2) (.g 3)),
    (0x040FFFFF00FFF76C, .hcancel al (.g 3)),
    (0x060FFFFFD4B5176C, .hmov al (.h 1) (.h 2)),
    (0x000FFC030435576D, .rayGo al (.h 5) (.g 16) (.g 3)),
    (0x020FFFFF00F5576D, .rayNext al (.h 5) (.g 3)),
    (0x040FFFFF00FFF76D, .rayEnd al (.g 3)),
    (0x000060140435676E, .meSrch al (.h 6) (.g 16) (.g 20) (.g 24)),
    (0x00ED5C020400476F, .smp al .f32 (.g 4) (.g 16) (.g 2) (.h 7)),
    (0x02CD5C020400476F, .smpG al .f16 (.g 4) (.g 16) (.g 2) (.h 7)),
    (0x0090140204358770, .imgSt al .b32 (.h 8) (.g 16) (.g 2) (.g 5))
  ] = true := by decide +kernel

theorem test_decode_table : decodes [
    (0x00001003043FF771, .bind al (.g 16) (.g 3) (.g 4)),
    (0x000FFFFF00FFF772, .unbind al (.g 3)),
    (0x0000140300BFF773, .tlbinv al (.g 2) (.g 3) (.g 5)),
    (0x000FFFFF00FFF774, .keyz al (.g 3)),
    (0x000FFC02007FF77B, .barIni al (.g 1) (.g 2)),
    (0x00000004007FF7FB, .barIniImm al (.g 1) 4),
    (0x020FFC02FFC0177B, .barArr al (.g 1) .none (.g 2)),
    (0x02000005008017FB, .barArrImm al (.g 1) (.g 2) 5),
    (0x040FFC02007FF77B, .barWt al (.g 1) (.g 2)),
    (0x04000000007FF7FB, .barWtImm al (.g 1) 0),
    (0x060FFC02FFC0177B, .barArw al (.g 1) .none (.g 2)),
    (0x0600000500BFF7FB, .barArwImm al .none (.g 2) 5),
    (0x080FFC02007FF77C, .cntAdd al (.g 1) (.g 2)),
    (0x220FFFFF0040277C, .cntRd al .job (.g 2) (.g 1)),
    (0x140FFFFF007FF77C, .cntWt al .graph (.g 1)),
    (0x000FFC030400177D, .launch al (.g 1) (.g 16) (.g 3)),
    (0x000FFC140400177E, .nodePut al (.g 1) (.g 16) (.g 20)),
    (0x020FFFFF043FF77E, .nodeFl al (.g 16)),
    (0x180FFFFF007FF77F, .cancel al .phase (.g 1))
  ] = true := by decide +kernel
/-- A literal operand follows in the next word (R51); a word of zeros is no instruction (R66), nor is one
with a reserved operand number (R55), with a reserved type code (R70), a reserved condition (R71) or an option bit that its row does not list
(R72), nor a twin that R69 does not define. -/
theorem test_decode_literal_and_refusals :
    decodeTableWord 128 0x0000000000000123007FFF4900802701
      = some (.add al .n32 false (.g 2) (.g 2) (.lit 0x123))
    ∧ decodeTableWord 64 0 = none
    ∧ decodeTableWord 64 0x013FFC0300801701 = none
    ∧ decodeTableWord 64 0x0C3FFC030080171F = none
    ∧ decodeTableWord 64 0x043FFC0300801701 = none
    ∧ decodeTableWord 64 0x00E00003008017A6 = none
    ∧ decodeTableWord 64 0x007FFF4F00802701 = none
    ∧ decodeTableWord 64 0x007FFF8400802701 = none := by decide +kernel

/-! Worked examples of the spec. -/

/-- The capability in g16.q of R200's example. -/
def exampleCap : Quad := 0x0009001030000FF0100000120000FFF0

/-- R200's example: its base, top and window, and the check of the load that it makes. -/
theorem test_capability_decode :
    capBase exampleCap = 0x120000FF00 ∧ capTop exampleCap = 0x1200010300
    ∧ capWindow exampleCap = 0x10000000
    ∧ (checkCap exampleCap true permRead 0x20 16).toOption = some 0x1200010010 := by decide +kernel

/-- R121's example, slots 1 and 3: the words written and the carry predicate. -/
theorem test_ninety_six_bit_add :
    let r1 := withCarry .n32 1 (0xFFFFFFF0 + 0x20 + 0)
    let r3 := withCarry .i32 1 (0x7FFFFFFF + 0 + 1)
    r1.value = 0x10 ∧ r1.pred = some (1, true) ∧ r3.value = 0x80000000 ∧ r3.pred = some (1, true) := by
  decide +kernel

/-- R112's table for .i32: zero divisor, least value by minus one, and an ordinary quotient. -/
theorem test_division :
    divInt .i32 7 0 = -1 ∧ remInt .i32 7 0 = 7 ∧ divInt .n32 7 0 = 0xFFFFFFFF
    ∧ divInt .i32 (-2147483648) (-1) = -2147483648 ∧ remInt .i32 (-2147483648) (-1) = 0
    ∧ divInt .i32 (-7) 2 = -3 ∧ remInt .i32 (-7) 2 = -1 := by decide +kernel

/-- R410's examples: 55 bytes for the counting line, 5 for the repeated word. -/
theorem test_line_packing :
    let line := (List.range 48).flatMap fun i => leBytes 4 (0x1000 + 2 * i)
    let tags := true :: List.replicate 11 false
    let p := packLine line tags
    p.length = 55 ∧ p.take 7 = [0x90, 0x01, 0x00, 0x00, 0x10, 0x00, 0x00]
    ∧ packLine ((List.replicate 48 (leBytes 4 0x3F800000)).flatten) (List.replicate 12 false)
        = [0x40, 0x00, 0x00, 0x80, 0x3F] := by decide +kernel

/-- R130 and R132: the largest finite FP16 doubled overflows to infinity under RNE and to itself under RZ;
the sum of infinities of opposite sign is the default NaN with NV. -/
theorem test_float_overflow :
    fp16.add .rn 0x7BFF 0x7BFF = (0x7C00, flOF ||| flNX)
    ∧ fp16.add .rz 0x7BFF 0x7BFF = (0x7BFF, flOF ||| flNX)
    ∧ fp16.add .rn 0x7C00 0xFC00 = (0x7E00, flNV) ∧ fpE4M3.overflow .rn false true = 0x7F := by
  decide +kernel

/-! A small machine: the thread of `withWord` in a cove with 8 KiB of scratchpad and two barriers, with the
capability of its scratchpad in g8.q, one of all virtual memory in g12.q, and zeros elsewhere. -/

def testCap (space : Nat) : Quad := capMake space 0xFF 8192 0 0 0

def testCove : Cove :=
  { coveOf { firstEntry with header := firstHeader + 0x40800000 } 0 [] with stashMax := 1 }

/-- A capability of the first 512 MiB with every permission at a cursor. -/
def globalCap (at' : Nat) : Quad × Bool := (capMake 0 0xFF 0x800000 0 6 at', true)

def testThread : Thread :=
  ({ newThread firstCove testCove 0 0 0 with pc := 8 }.write 8 .w128 (testCap 2) true).write 12 .w128
    (testCap 0) true

def testCur : Cur := ⟨firstIssue 0, firstThread, testThread, testCove⟩

def testState : State :=
  { State.reset.withWord 0 with coves := [(firstCove, testCove)], threads := [(firstThread, testThread)] }

theorem testState_cur : testState.cur = some testCur := by decide +kernel

/-- Sources of this thread that read as given are what a statement's `Reads` asks for. -/
theorem ok_of {ε α : Type} {x : Except ε α} {v : α} (h : x.toOption = some v) : x = .ok v := by
  cases x with
  | ok w => exact congrArg Except.ok (Option.some.inj h)
  | error e => cases h

theorem error_of {ε α : Type} {x : Except ε α} {e : ε} (h : (match x with | .error y => some y | .ok _ => none)
    = some e) : x = .error e := by
  cases x with
  | ok w => cases h
  | error y => exact congrArg Except.error (Option.some.inj h)

theorem reads {srcs dsts : List (Opnd × Width)} {vs : List (Quad × Bool)}
    (h : (readAll testState testCur srcs).toOption = some vs) :
    Reads testState al srcs dsts testState testCur vs :=
  ⟨⟨testCur, testState_cur, by decide +kernel, (touch_of_no_upsets rfl _ _).symm⟩, testState_cur, ok_of h⟩

theorem readsOnce {srcs : List (Opnd × Width)} {vs : List (Quad × Bool)}
    (h : (readAll testState testCur srcs).toOption = some vs) :
    ReadsOnce testState al srcs testState testCur vs :=
  ⟨⟨testCur, testState_cur, by decide +kernel, by decide +kernel, (touch_of_no_upsets rfl _ _).symm⟩,
    testState_cur, ok_of h, fun h => absurd h (by decide +kernel)⟩

theorem keyReads {srcs : List Opnd} {v : List Word}
    (h : (testState.issuedCrew testCur).map (fun m => (m.1, (testState.keySources testCur srcs m).toOption))
      = [(firstThread, some v)]) : KeyReads testState testCur srcs [(firstThread, v)] := by
  cases hm : testState.issuedCrew testCur with
  | nil => simp [hm] at h
  | cons m ms =>
    cases ms with
    | cons => simp [hm] at h
    | nil =>
      simp only [hm, List.map_cons, List.map_nil, List.cons.injEq, Prod.mk.injEq, and_true] at h
      exact ⟨testState_cur, rfl, by simp [hm, h.1], by simp [hm, ok_of h.2]⟩

def q (n : Nat) : Quad × Bool := (BitVec.ofNat 128 n, false)

/-! Witnesses. -/

theorem test_witness_IntegerArithmetic :
    Reads testState al [(.lit 7, .w32), (immInt 3, .w32)] [(.g 0, .w32)] testState testCur [q 7, q 3]
    ∧ Reads testState al [(.lit 7, .w64), (.lane, .w64), (.zero, .w64)] [(.g 0, .w64)] testState testCur
        [q 7, q 0, q 0]
    ∧ Reads testState al [(.g 767, .w32)] [(.none, .w32)] testState testCur [q 0] :=
  ⟨reads (by decide +kernel), reads (by decide +kernel), reads (by decide +kernel)⟩

theorem test_witness_CarryChains :
    Reads testState al [(.lit 7, .w32), (immInt 0xFFFFF, .w32)] [(.g 0, .w32)] testState testCur
      [q 7, q 0xFFFFFFFF] := reads (by decide +kernel)

theorem test_witness_ProductsQuotientsOrder :
    (Reads testState al [(.lit 7, .w32), (immInt 0, .w32)] [(.g 0, .w32)] testState testCur [q 7, q 0]
      ∧ asInt .i32 (q 0) = 0)
    ∧ (Reads testState al [(.lit 0x80000000, .w32), (immInt 0xFFFFF, .w32)] [(.g 0, .w32)] testState testCur
        [q 0x80000000, q 0xFFFFFFFF]
      ∧ tySigned .i32 = true ∧ asInt .i32 (q 0x80000000) = tyLo .i32 ∧ asInt .i32 (q 0xFFFFFFFF) = -1)
    ∧ (Reads testState al [(.lit 0x80000001, .w32), (immInt 0xFFFFF, .w32)] [(.g 0, .w32)] testState testCur
        [q 0x80000001, q 0xFFFFFFFF]
      ∧ asInt .i32 (q 0xFFFFFFFF) ≠ 0 ∧ asInt .i32 (q 0x80000001) ≠ tyLo .i32) :=
  ⟨⟨reads (by decide +kernel), by decide⟩, ⟨reads (by decide +kernel), by decide⟩,
    ⟨reads (by decide +kernel), by decide⟩⟩

theorem test_witness_BitInstructions :
    Ty.b64 ∈ bitTys
    ∧ Reads testState al [(.lit 7, .w64), (immInt 3, .w64)] [(.g 0, .w64)] testState testCur [q 7, q 3]
    ∧ Reads testState al [(.lit 7, .w64), (immInt 64, .w32)] [(.g 0, .w64)] testState testCur [q 7, q 64]
    ∧ Reads testState al [(.lit 7, .w64)] [(.g 0, .w64)] testState testCur [q 7]
    ∧ Reads testState al [(.lit 0, .w64)] [(.g 0, .w32)] testState testCur [q 0] :=
  ⟨by decide, reads (by decide +kernel), reads (by decide +kernel), reads (by decide +kernel),
    reads (by decide +kernel)⟩

theorem test_witness_FieldInstructions :
    Ty.i32 ∈ wordTys ∧ Ty.b32 ∈ bitTys
    ∧ Reads testState al [(.lit 7, .w32), (immInt 0xFF1F, .w32)] [(.g 0, .w32)] testState testCur
        [q 7, q 0xFF1F]
    ∧ Reads testState al [(.lit 7, .w32), (.lit 9, .w32), (.lit 0x0100, .w32)] [(.g 0, .w32)] testState
        testCur [q 7, q 9, q 0x100] :=
  ⟨by decide, by decide, reads (by decide +kernel), reads (by decide +kernel)⟩

theorem test_witness_AddressesAndMoves :
    Ty.n64 ∈ [Ty.n32, .n64]
    ∧ Reads testState al [(.lit 7, .w64), (immInt 0xFFFFF, .w32)] [(.g 0, .w64)] testState testCur
        [q 7, q 0xFFFFFFFF]
    ∧ Reads testState al [(.lit 7, .w32), (immInt 3, .w32)] [(.g 0, .w32)] testState testCur [q 7, q 3]
    ∧ Reads testState al [(.g 8, .w128)] [(.g 4, .w128)] testState testCur [(testCap 2, true)]
    ∧ Ty.b64 ∈ bitTys
    ∧ Reads testState al [(if Pos.s0 = .s0 then .none else .g 0, .w64), (immInt 3, .w64)] [(.g 0, .w64)]
        testState testCur [q 0, q 3]
    ∧ Reads testState al [(if Pos.s44 = .s0 then .none else .g 0, .w64), (immInt 3, .w64)] [(.g 0, .w64)]
        testState testCur [q 0, q 3] :=
  ⟨by decide, reads (by decide +kernel), reads (by decide +kernel), reads (by decide +kernel), by decide,
    reads (by decide +kernel), reads (by decide +kernel)⟩

theorem test_witness_ComparesAndPredicates :
    Reads testState al [(.lit 7, .w32), (immInt 7, .w32)] [(.g 0, .w32)] testState testCur [q 7, q 7]
    ∧ Reads testState al [] [(.g 0, .w32)] testState testCur [] :=
  ⟨reads (by decide +kernel), reads (by decide +kernel)⟩

/-- 3 times 2^0 to a multiple of 2: a tie, to the even multiple 4 under RNE, down under RZ. In FP16: a value far
too large, the largest one, and 2^-25, which is halfway to the least. -/
theorem test_witness_Rounding :
    (0 : Int) < 1 ∧ roundAt .rn false 3 0 1 = (2, true) ∧ roundAt .rz false 3 0 1 = (1, true)
    ∧ roundAt .ru true 3 0 1 = (1, true) ∧ roundAt .rd true 3 0 1 = (2, true)
    ∧ (fp16 ∈ [fp64, fp32, fp16, bfp16, fpE4M3, fpE5M2] ∧ 1 ≠ 0
      ∧ fp16.roundNum .rn false false 1 20 = (fp16.infBits, flOF ||| flNX)
      ∧ fp16.roundNum .rn false false 2047 5 = (0x7BFF, 0)
      ∧ fp16.roundNum .ru false false 1 (-25) = (1, flUF ||| flNX)) := by decide +kernel

/-- The operands of each form; and numbers, infinities, a quiet and a signalling NaN, zeros and a product of zero
and infinity. -/
theorem test_witness_FloatArithmetic :
    Reads testState al [(.lit 0x3F800000, .w32), (immFloat .f32 0x40000, .w32)] [(.g 0, .w32)] testState
      testCur [q 0x3F800000, q 0x40000000]
    ∧ Reads testState al [(.lit 1, .w32), (.lit 2, .w32), (.lit 3, .w32)] [(.g 0, .w32)] testState testCur
        [q 1, q 2, q 3]
    ∧ Reads testState al [(.lit 0x3C003C00, .w32), (.lit 2, .w32)] [(.g 0, .w32)] testState testCur
        [q 0x3C003C00, q 2]
    ∧ (fp16.read 0x3C00 = .num false 0x400 (-10) ∧ fp16.read 0x8000 = .num true 0 (-24)
      ∧ fp16.read 0x7C00 = .inf false ∧ fp16.read 0xFC00 = .inf true ∧ (fp16.read 0x7C01).isSignalling = true
      ∧ (fp16.read 0x7E00).isNan = true ∧ ((fp16.read 0).isZero && (fp16.read 0xFC00).isInf) = true
      ∧ (fp16.read 0x3C00).isNan = false) :=
  ⟨reads (by decide +kernel), reads (by decide +kernel), reads (by decide +kernel), by decide +kernel⟩

theorem test_witness_FloatCompareSignClass :
    Ty.f32 ∈ float3Tys ∧ (0xFFFFFFFF : Nat) < 2 ^ tyBits .f32
    ∧ Reads testState al [(.lit 0x7FC00000, .w32), (immFloat .f32 0x40000, .w32)] [(.g 0, .w32)] testState
        testCur [q 0x7FC00000, q 0x40000000]
    ∧ Reads testState al [(.lit 1, .w32), (.lit 2, .w32)] [(.g 0, .w32)] testState testCur [q 1, q 2]
    ∧ Reads testState al [(.lit 1, .w32)] [(.g 0, .w32)] testState testCur [q 1] :=
  ⟨by decide, by decide, reads (by decide +kernel), reads (by decide +kernel), reads (by decide +kernel)⟩

theorem test_witness_SpecialFunctionsAndConversions :
    Reads testState al [(.lit 0x3F800000, .w32)] [(.g 0, .w32)] testState testCur [q 0x3F800000]
    ∧ Reads testState al [(.lit 0x3F800000, .w64)] [(.g 0, .w32)] testState testCur [q 0x3F800000] :=
  ⟨reads (by decide +kernel), reads (by decide +kernel)⟩

/-- Each input class of R142, at a boundary of its range, and f2i's three; and for R143 2, 3 and 1/4 with what
they are in units of a power of two. -/
theorem test_witness_SpecialFunctionClasses :
    fp32 ∈ [fp16, fp32] ∧ fp32.read 0x7F800001 = .nan true ∧ fp32.read 0x7FC00000 = .nan false
    ∧ fp16.signed true fp16.infBits = 0xFC00 ∧ fp16.signed false fp16.infBits = 0x7C00
    ∧ fp16.signed true 0 = 0x8000 ∧ fp16.signed false 0 = 0
    ∧ fp16.read 0x8001 = .num true 1 (-24) ∧ fp32.read 0xFF800000 = .inf true
    ∧ fp32.read 0x4F000000 = .num false 0x800000 8
    ∧ (let below (a : Nat) (p : Int) (b : Nat) (q : Int) :=
          decide (a * 2 ^ (p - min p q).toNat < b * 2 ^ (q - min p q).toNat)
        let same (a : Nat) (p : Int) (b : Nat) (q : Int) := !below a p b q && !below b q a p
        fp16.read 0x4000 = .num false 0x400 (-9) ∧ same 0x400 (-9) 2 0 = true ∧ same 0x400 (-9) 1 1 = true
        ∧ fp16.qmin ≤ 2 ∧ (2 : Int) ≤ fp16.bias ∧ decide ((2 : Int) < 0) = false
        ∧ fp16.read 0x4200 = .num false 0x600 (-9) ∧ same 0x600 (-9) 3 0 = true
        ∧ fp16.read 0x3400 = .num false 0x400 (-12) ∧ same 0x400 (-12) 1 (-2) = true
        ∧ below 0x400 (-12) 1 (-1) = true ∧ below 1 1 0x600 (-9) = true)
    ∧ (bounded fp16 3 0 (.ulps 2) true (false, 3, 0)).2 &&& flNX = 0 := by decide +kernel

/-- The operands of each form, qscale and spcmp with D and C none among them. -/
theorem test_witness_NarrowAndSparse :
    Reads testState al [(.g 4, .w128), (.lit 2, .w32)] [(.g 0, .w32)] testState testCur [q 0, q 2]
    ∧ Reads testState al [(.lit 1, .w32), (.lit 2, .w32)] [(.g 0, .w128)] testState testCur [q 1, q 2]
    ∧ Reads testState al [(.g 0, .w64), (.lit 1, .w32), (.lit 12, .w32)] [(.g 0, .w64)] testState testCur
        [q 0, q 1, q 12]
    ∧ Reads testState al [(.none, .w64), (.lit 1, .w32), (.lit 12, .w32)] [(.none, .w64)] testState testCur
        [q 0, q 1, q 12]
    ∧ (Opnd.none = .none ∧ Reads testState al [(.g 4, .w128), (.g 16, .w64)] [(.g 0, .w32)] testState testCur
        [q 0, q 0])
    ∧ (Opnd.lit 2 ≠ .none ∧ Reads testState al [(.g 4, .w128), (.g 16, .w64), (.lit 2, .w32)] [(.g 0, .w128)]
        testState testCur [q 0, q 0, q 2])
    ∧ Reads testState al [(.g 4, .w128), (.lit 1, .w32), (.lit 2, .w32)] [(.g 0, .w128)] testState testCur
        [q 0, q 1, q 2] :=
  ⟨reads (by decide +kernel), reads (by decide +kernel), reads (by decide +kernel), reads (by decide +kernel),
    ⟨rfl, reads (by decide +kernel)⟩, ⟨by decide, reads (by decide +kernel)⟩, reads (by decide +kernel)⟩

/-- Codes of the grid of kind 0 at scale 1: an infinite and a zero scale; the value 8, above the grid, and 7,
its last point; codes 0, 8 and 7. -/
theorem test_witness_NarrowCodes :
    (let exponent (w : Nat) := w / 2 ^ 10 % 256
    let significand (w : Nat) := w % 2 ^ 10 + if exponent w = 0 then 0 else 2 ^ 10
    let power (w : Nat) : Int := (max (exponent w) 1 : Nat) - 137
    let unit (w : Nat) := min 0 (power w)
    let s (w : Nat) := significand w * 2 ^ (power w - unit w).toNat
    let x (w m : Nat) := 8 * m * 2 ^ (0 - unit w).toNat
    let one := 127 * 2 ^ 10
    exponent (255 * 2 ^ 10) = 255 ∧ exponent 0 ≠ 255 ∧ s 0 = 0 ∧ exponent one ≠ 255 ∧ s one ≠ 0
    ∧ 56 * s one < x one 8 ∧ x one 7 = 56 * s one ∧ (1 ≤ 7 ∧ 7 ≤ 7))
    ∧ (3 < 4 ∧ Ty.f32 ∈ float3Tys ∧ fp32.read 0 = .num false 0 (-149)
      ∧ fp32.read 0x3F800000 = .num false 0x800000 (-23) ∧ fp32.read 0x7F800000 = .inf false)
    ∧ ((2 : Nat) ^ 20 - 1 < 2 ^ 20 ∧ 2 < 3)
    ∧ (Ty.i8 ∈ sparseTys ∧ (List.replicate 12 255).length = 12 ∧ ∀ x ∈ List.replicate 12 255, x < 2 ^ tyBits .i8) := by
  decide +kernel

/-- Predicated off by p0, which is 0: one instruction that computes and one that does not. -/
theorem test_witness_PredicatedOff :
    testState.cur = some testCur ∧ guardHolds ⟨0, false⟩ testThread = false
    ∧ (Instr.add ⟨0, false⟩ .i32 false (.g 0) (.g 1) (.g 2)).fields.isSome = true
    ∧ (Instr.fence ⟨0, false⟩ .sys).fields.isSome = true
    ∧ (Instr.add ⟨0, false⟩ .i32 false (.g 0) (.g 1) (.g 2)).collective = false
    ∧ (Instr.fence ⟨0, false⟩ .sys).collective = false := by
  exact ⟨testState_cur, by decide⟩

theorem test_witness_ClassAFrame :
    (Instr.addc al .i32 6 (.g 767) (.g 1) (.g 2)).computes = some (.g 767, .w32)
    ∧ (Instr.addc al .i32 6 (.g 767) (.g 1) (.g 2)).fields.isSome = true
    ∧ Clean testState testCur ∧ guardHolds al testThread = true :=
  ⟨rfl, by decide, ⟨testState_cur, rfl, by decide +kernel, by decide +kernel⟩, by decide⟩

def poisonedThread : Thread := { testThread with poison := 2 ^ 767 }

def poisonedState : State := { testState with threads := [(firstThread, poisonedThread)] }

theorem test_witness_ResultsAndPoison :
    testThread.regs.length = 768 ∧ 764 % Width.w128.regs = 0
    ∧ poisonedState.cur = some { testCur with t := poisonedThread } ∧ poisonedState.upsets = []
    ∧ guardHolds al poisonedThread = true ∧ poisonedThread.poisoned 767 .w32 = true := by
  decide +kernel

theorem test_witness_KeyInstructions :
    KeyReads testState testCur [.k 63, immInt 1] [(firstThread, [0, 1])]
    ∧ KeyReads testState testCur [.k 63] [(firstThread, [0])]
    ∧ KeyReads testState testCur [if true then .k 1 else .none, immInt 1] [(firstThread, [0, 1])]
    ∧ KeyReads testState testCur [if false then .k 1 else .none, immInt 1] [(firstThread, [0, 1])] :=
  ⟨keyReads (by decide +kernel), keyReads (by decide +kernel), keyReads (by decide +kernel),
    keyReads (by decide +kernel)⟩

/-- A crew of four strands, at one of which two threads point; and one of whose halves is in serial key mode. -/
def fullCrew : Crew :=
  { newCrew testCove Strand.zero with
    strands := List.replicate 4 (some Strand.zero)
    ptr := [0, 1, 2, 3] ++ List.replicate 28 0 }

def serialCrew : Crew := { newCrew testCove Strand.zero with serial := [true, false] }

/-- A strand whose members all write, and one of whose members 1 and 31 alone do; the one that did not then
writes at the same place, and joins them; a fifth strand; and a half in serial key mode, and not. -/
theorem test_witness_KeyWriteOnStrand :
    let cr := newCrew testCove Strand.zero
    let l : Lanes := ⟨[0, 1, 31], false⟩
    (cr.ptr.getD 0 0 = 0 ∧ cr.strands.getD 0 none = some Strand.zero ∧ Strand.zero.parent ≠ some 0
    ∧ cr.strands.drop 1 = List.replicate 3 none
    ∧ (∀ x ∈ [0, 1, 31], x < 32 ∧ cr.ptr.getD x 0 = 0) ∧ (∀ x ∈ cr.pointing l 0, x ∈ [0, 1, 31])
    ∧ (∃ x ∈ cr.pointing l 0, x ∉ [1, 31]) ∧ cr.ptr.length = 32 ∧ (∀ x ∈ [1, 31], x ∈ l.act)
    ∧ cr.serial = [false, false] ∧ cr.live = 1)
    ∧ (let cr2 := cr.writeGroup l [1, 31] (16, 3) id
      cr2.ptr.getD 0 0 = 0 ∧ (cr2.strands.getD 0 none).isSome = true
      ∧ (cr2.strands.map fun k => k.map fun y => (y.parent, y.split))
        = [some (none, none), some (some 0, some (16, 3)), none, none]
      ∧ (∀ x ∈ l.act, x < 32) ∧ cr2.serial = [false, false] ∧ cr2.pointing l 0 = [0])
    ∧ (let five : Lanes := ⟨[0, 1, 2, 3, 4], false⟩
      fullCrew.live = 4 ∧ fullCrew.serial = [false, false] ∧ fullCrew.ptr.getD 4 0 = 0
      ∧ (∀ x ∈ five.act, x < 32 ∧ (fullCrew.strands.getD (fullCrew.ptr.getD x 0) none).isSome = true)
      ∧ (∀ j ∈ [0, 1, 2, 3], ∃ x ∈ five.act, x ∉ [4] ∧ fullCrew.ptr.getD x 0 = j))
    ∧ ([0, 31].Nodup ∧ [0, 31].length < 33
      ∧ ∀ x ∈ [0, 31], x < 32 ∧ serialCrew.serial.getD (l.half x) false = true)
    ∧ 0 ∈ l.ofHalf 0 :=
  ⟨by decide +kernel, by decide +kernel, by decide +kernel, by decide +kernel, by decide +kernel⟩

theorem readsOff {c : Opnd} {v : Quad × Bool}
    (h : (readAll testState testCur [(c, .w32)]).toOption = some [v]) :
    Reads testState always [(c, .w32)] [] testState testCur [v]
    ∧ ∀ c0, testState.cur = some c0 → guardHolds ⟨0, false⟩ c0.t = false :=
  ⟨reads h, fun c0 h0 => by
    rw [testState_cur] at h0
    exact Option.some.inj h0 ▸ (by decide +kernel)⟩

/-- An arrival at a rendezvous of a slot of the clause at 16. -/
def rdvAt (slot mask : Nat) : Latch := ⟨16, slot, mask, false, .rdv al .none, [], []⟩

/-- The second thread of the crew. -/
def secondThread : TRef := ⟨.craren, 0, 0, 1⟩

def latched (lane : Nat) (ls : List Latch) : Thread :=
  { newThread firstCove testCove 0 lane 0 with latches := ls, status := .latched }

def crossState (x y : Thread) : State :=
  { testState with issue := none, threads := [(firstThread, x), (secondThread, y)] }

/-- Lane 0 outside the mask 2; within the masks 1 and none, predicated off by p0 and not; and two threads with
masks that differ, at one instruction, at an instruction each, and one beside a thread that naps. -/
theorem test_witness_CrossLaneArrival :
    let lanes (o : Opnd) (v : Quad × Bool) :=
      if o = .none then 2 ^ testCove.width - 1 else (lo32 v).toNat % 2 ^ testCove.width
    (Reads testState always [(.lit 2, .w32)] [] testState testCur [q 2]
      ∧ (lanes (.lit 2) (q 2)).testBit testCur.lane = false)
    ∧ (Reads testState always [(.lit 1, .w32)] [] testState testCur [q 1]
      ∧ (lanes (.lit 1) (q 1)).testBit testCur.lane = true)
    ∧ (Reads testState always [(.none, .w32)] [] testState testCur [q 0]
      ∧ (lanes .none (q 0)).testBit testCur.lane = true)
    ∧ guardHolds ⟨0, false⟩ testThread = false ∧ guardHolds al testThread = true
    ∧ Reads testState al [(.g 4, .w64), (immInt 31, .w32)] [] testState testCur [q 0, q 31]
    ∧ Reads testState al [(.g 4, .w32)] [] testState testCur [q 0]
    ∧ Reads testState al [(.g 4, .w64)] [] testState testCur [q 0]
    ∧ testState.cur = some testCur
    ∧ ((crossState (latched 0 [rdvAt 1 3]) (latched 1 [rdvAt 1 1])).arrivals firstCove).map (fun x =>
        (x.r, x.l.kind, x.l.clause, x.l.slot, x.l.mask))
      = [(firstThread, .cross, 16, 1, 3), (secondThread, .cross, 16, 1, 1)]
    ∧ (let s := crossState (latched 0 [rdvAt 1 3]) (latched 1 [rdvAt 1 3])
      (s.arrivals firstCove).map (fun x => (x.r, x.l.mask)) = [(firstThread, 3), (secondThread, 3)]
      ∧ ∀ x ∈ s.arrivals firstCove, (groupOf testCove (s.arrivals firstCove) x).length = 2 ∧ x.t.atLatch = true)
    ∧ (let x : Arr := ⟨firstThread, latched 0 [rdvAt 1 3], rdvAt 1 3⟩
      let y : Arr := ⟨secondThread, latched 1 [rdvAt 2 3], rdvAt 2 3⟩
      let s := crossState x.t y.t
      s.arrivals firstCove = [x, y] ∧ x.t.heldThere = true ∧ y.t.heldThere = true
      ∧ s.coveThreads firstCove = [(x.r, x.t), (y.r, y.t)] ∧ x.t.active = true ∧ y.t.active = true
      ∧ x.l.slot ≠ y.l.slot ∧ x.t.crew = y.t.crew ∧ (x.t.vlane, y.t.vlane) = (0, 1))
    ∧ (let s := crossState (latched 0 [rdvAt 1 3]) (latched 1 [])
      (s.arrivals firstCove).map (·.r) = [firstThread] ∧ (latched 1 []).heldThere = false)
    ∧ (let s := crossState (latched 0 [rdvAt 1 3]) (latched 1 [])
      let t := latched 0 [rdvAt 1 3]
      s.thread? firstThread = some t ∧ s.cove? t.cove = some testCove ∧ t.entry = none ∧ t.due = []
      ∧ t.stepDue = false ∧ t.stopper = none ∧ t.held = false ∧ t.exiting = false
      ∧ s.inIssue firstThread = false ∧ s.stopping t = false ∧ s.link.reqs = []
      ∧ (s.core .craren 0).rays = []) :=
  ⟨⟨reads (by decide +kernel), by decide +kernel⟩, ⟨reads (by decide +kernel), by decide +kernel⟩,
    ⟨reads (by decide +kernel), by decide +kernel⟩, by decide +kernel, by decide +kernel,
    reads (by decide +kernel), reads (by decide +kernel), reads (by decide +kernel), testState_cur,
    by decide +kernel, by decide +kernel, by decide +kernel, by decide +kernel, by decide +kernel⟩

def testCons : List Con := [⟨0, 5, 31⟩, ⟨7, 6, 31⟩, ⟨31, 7, 1⟩]

/-- Lane 0 pulls from lane 31, which is there, and lane 31 from lane 1, which is not; lanes 0 and 7 push to
lane 31, and none to lane 0. -/
theorem test_witness_CrossLaneValues :
    testCons.Pairwise (fun x y => x.lane < y.lane) ∧ (∀ x ∈ testCons, x ∈ testCons ∧ x.lane < 32)
    ∧ (∃ x ∈ testCons, x.lane = ((31 : Quad).setWidth 32).toNat % 32)
    ∧ (∀ x ∈ testCons, x.lane ≠ ((1 : Quad).setWidth 32).toNat % 32)
    ∧ (∃ x ∈ testCons, (x.b.setWidth 32).toNat % 32 = 31
      ∧ ∀ y ∈ testCons, (y.b.setWidth 32).toNat % 32 = 31 → y.lane ≤ x.lane)
    ∧ (∀ x ∈ testCons, (x.b.setWidth 32).toNat % 32 ≠ 0)
    ∧ (∃ x ∈ testCons, ∀ y ∈ testCons, x.lane ≤ y.lane) := by decide +kernel

theorem test_witness_CrossLaneReductions :
    Ty.i32 ∈ [Ty.i32, .n32] ∧ Ty.n32 ∈ [Ty.i32, .n32] ∧ (⟨0, 5, 31⟩ : Con) ∈ testCons := by decide

/-- The triangle (0, 0), (0, 4), (4, 0) in pixels, and a degenerate one. -/
def testTriangle : List Quad := [0, 0, 0, 0, 0x400, 0, 0x400, 0, 0, 0]

/-- Lane 0 outside a mask, and within one, predicated off and not; and the two triangles. -/
theorem test_witness_Rasterisation :
    (Reads testState always [(.lit 2, .w32)] [] testState testCur [q 2]
      ∧ ((lo32 (q 2)).toNat % 2 ^ testCove.width).testBit testCur.lane = false)
    ∧ (Reads testState always [(.none, .w32)] [] testState testCur [q 0]
      ∧ (2 ^ testCove.width - 1).testBit testCur.lane = true ∧ guardHolds ⟨0, false⟩ testThread = false)
    ∧ Reads testState al (rastSources (.k 1) (.k 10)) [] testState testCur (List.replicate 10 (q 0))
    ∧ (triOf testTriangle).area ≠ 0
    ∧ ((testTriangle.getD 9 0).setWidth 32 : Word).getLsbD 31 = false
    ∧ ((0x80000000 : Quad).setWidth 32 : Word).getLsbD 31 = true
    ∧ (triOf (List.replicate 10 0)).area = 0 ∧ 0 < (rastGive testTriangle 32).1.length :=
  ⟨⟨reads (by decide +kernel), by decide +kernel⟩, ⟨reads (by decide +kernel), by decide +kernel⟩,
    reads (by decide +kernel), by decide +kernel⟩

theorem test_witness_ControlTransfers :
    Reads testState al [(immInt 0xFFFFC, .w32)] [] testState testCur [q 0xFFFFFFFC]
    ∧ (Reads testState al [(.lit 16, .w64)] [] testState testCur [q 16] ∧ (lo64 (q 16)).toNat % 8 = 0)
    ∧ (Reads testState al [(.lit 17, .w64)] [] testState testCur [q 17] ∧ (lo64 (q 17)).toNat % 8 ≠ 0) :=
  ⟨reads (by decide +kernel), ⟨reads (by decide +kernel), by decide⟩, reads (by decide +kernel), by decide⟩

theorem test_witness_ThreadEndsAndWaits :
    testState.cur = some testCur ∧ guardHolds al testThread = true
    ∧ (Reads testState al [(.g 8, .w128), (.lit 8191, .w32)] [] testState testCur [(testCap 2, true), q 8191]
      ∧ checkCap (testCap 2) true permRead (lo32 (q 8191)) 1 = .ok 8191)
    ∧ Reads testState al [(immInt 77, .w32)] [] testState testCur [q 77] :=
  ⟨testState_cur, by decide +kernel, ⟨reads (by decide +kernel), ok_of (by decide +kernel)⟩,
    reads (by decide +kernel)⟩

/-- Entries of every kind; with and without a handler, and inside one; and a thread with nothing of its
clause outstanding. -/
theorem test_witness_TrapEntry :
    ((⟨.step, 0, 8, 15, 3, 0, none⟩ : TrapInfo).kind < 4 ∧ (15 : Nat) < 16)
    ∧ testThread.thandler = 0 ∧ testThread.tstat.getLsbD 2 = false
    ∧ ({ testThread with thandler := 8 } : Thread).thandler ≠ 0
    ∧ testThread.exiting = false ∧ testThread.due = [] ∧ testThread.defer = [] ∧ testThread.latches = [] ∧ testState.link.reqs = []
    ∧ (testState.core .craren 0).rays = [] ∧ Cause.align ≠ .uncorrectable ∧ Cause.align ≠ .storeMismatch := by
  decide +kernel

def stateOf (t : Thread) : State := { testState with threads := [(firstThread, t)] }

def curOf (t : Thread) : Cur := { testCur with t := t }

theorem stateOf_cur (t : Thread) (h : t.cove = firstCove) : (stateOf t).cur = some (curOf t) := by
  simp [State.cur, stateOf, testState, State.withWord, firstIssue, State.thread?, aget, State.cove?, h, curOf,
    testCur]

/-- A thread in a handler: H with W, N and a kind in TSTAT, and a TPC of slot 15 of the clause at 16. -/
def handling (w n : Bool) (kind : Nat) : Thread :=
  { testThread with
    tstat := BitVec.ofNat 32 (4 + kind + (if n then 64 else 0) + if w then 128 else 0)
    tpc := 0xF000000000000010 }

/-- The decoded clause that tret reads to find what follows the named instruction: one that is last, and
one that is not. -/
def namedState (words : List DWord) : State :=
  (stateOf (handling false true 0)).modCore .craren 0 fun k => { k with
    dop := [⟨0, testCove.key, 16, words⟩] }

theorem test_witness_TrapReturn :
    testState.cur = some testCur ∧ testThread.tstat.getLsbD 2 = false
    ∧ (∀ w n kind, kind < 4 → (stateOf (handling w n kind)).cur = some (curOf (handling w n kind)))
    ∧ (∀ w n, ∀ kind ∈ [0, 1, 2, 3], (handling w n kind).tstat.getLsbD 2 = true
      ∧ (handling w n kind).tstat.getLsbD 7 = w ∧ (handling w n kind).tstat.getLsbD 6 = n
      ∧ (handling w n kind).tstat.extractLsb' 0 2 = BitVec.ofNat 2 kind)
    ∧ (namedState [0x3E1, 0, 0]).namedClause (curOf (handling false true 0)) 16
      = (namedState [0x3E1, 0, 0], [0x3E1, 0, 0]) :=
  ⟨testState_cur, by decide +kernel, fun _ _ _ _ => stateOf_cur _ rfl, by decide +kernel, by decide +kernel⟩

theorem test_witness_SystemRegisters :
    Ty.b32 ∈ bitTys ∧ Ty.b64 ∈ bitTys ∧ testCove.system = false
    ∧ Reads testState al [(immInt 0x21, .w32)] [] testState testCur [q 0x21]
    ∧ Reads testState al [(.lit 0x31, .w32)] [] testState testCur [q 0x31]
    ∧ Reads testState al [(.lit 5, .w64), (immInt 0x13, .w32)] [] testState testCur [q 5, q 0x13]
    ∧ Reads testState al [(.lit 5, .w32), (immInt 0x11, .w32)] [] testState testCur [q 5, q 0x11]
    ∧ Reads testState al [(.lit 5, .w64), (immInt 0x14, .w32)] [] testState testCur [q 5, q 0x14] :=
  ⟨by decide, by decide, by decide +kernel, reads (by decide +kernel), reads (by decide +kernel),
    reads (by decide +kernel), reads (by decide +kernel), reads (by decide +kernel)⟩

/-- An untagged authority; a region that ends at the top and one that ends past it; one whose length needs an
exponent, at an end that it allows and at one it does not; a cursor moved to the last place of the window and
one past it. -/
theorem test_witness_CapabilityRegions :
    ((8192 : Nat) < 2 ^ 32 ∧ effTag (testCap 2) false = false ∧ effTag (testCap 2) true = true
    ∧ (subCap (testCap 2) true 0 8192).isOk = true ∧ (subCap (testCap 2) true 1 8192).isOk = false
    ∧ capTop (testCap 2) < (1 : Int) + 8192
    ∧ capBase (testCap 2) ≤ capCursor (testCap 2)
    ∧ (capCursor (testCap 2) : Int) < capBase (testCap 2) + capWindow (testCap 2)
    ∧ (moveCap (testCap 2) true 0xFFFFFF).2 = true ∧ (moveCap (testCap 2) true 0x1000000).2 = false)
    ∧ (let v := (globalCap 0).1
      effTag v true = true ∧ (2 ^ 24 ≤ (2 ^ 24 - 1) * 2 ^ 1) ∧ (2 ^ 24 - 1) * 2 ^ 0 < 2 ^ 24
      ∧ capBase v ≤ 2 ∧ (2 : Int) + 2 ^ 24 ≤ capTop v ∧ (1 : Int) + 2 ^ 24 ≤ capTop v
      ∧ 2 % 2 ^ 1 = 0 ∧ (2 + 2 ^ 24) % 2 ^ 1 = 0 ∧ 1 % 2 ^ 1 ≠ 0
      ∧ (subCap v true 2 (2 ^ 24)).isOk = true ∧ (subCap v true 1 (2 ^ 24)).isOk = false) := by
  decide +kernel

/-- Untagged; a permission that is missing; one byte too long; just long enough. -/
theorem test_witness_CapabilityInstructions :
    effTag (testCap 2) false = false
    ∧ (effTag (testCap 2) true = true ∧ capPerms (testCap 2) &&& 0x100 ≠ 0x100)
    ∧ capPerms (testCap 2) &&& permRead = permRead
    ∧ ¬ ((0 : Int) ≤ 8191 ∧ capBase (testCap 2) ≤ 8191 ∧ (8191 : Int) + 2 ≤ capTop (testCap 2))
    ∧ ((0 : Int) ≤ 8191 ∧ capBase (testCap 2) ≤ 8191 ∧ (8191 : Int) + 1 ≤ capTop (testCap 2))
    ∧ Reads testState al [(.g 8, .w128), (.lit 0, .w64), (.lit 8192, .w32)] [] testState testCur
        [(testCap 2, true), q 0, q 8192]
    ∧ Reads testState al [(.g 8, .w128), (.lit 5, .w64)] [] testState testCur [(testCap 2, true), q 5]
    ∧ Reads testState al [(.g 8, .w128), (.lit 6, .w32)] [] testState testCur [(testCap 2, true), q 6]
    ∧ Reads testState al [(.g 8, .w128), (.lit 6, .w32), (.lit 0x10001, .w32)] [] testState testCur
        [(testCap 2, true), q 6, q 0x10001]
    ∧ (subCap (testCap 2) true 1 8192).isOk = false ∧ (subCap (testCap 2) true 0 8192).isOk = true :=
  ⟨by decide +kernel, by decide +kernel, by decide +kernel, by decide +kernel, by decide +kernel,
    reads (by decide +kernel), reads (by decide +kernel), reads (by decide +kernel), reads (by decide +kernel),
    by decide +kernel⟩

/-! A richer machine: the first 512 MiB of virtual memory are those of the Craren's DRAM, and what a
witness needs is written there, in the scratchpad, or in g16.q and g20.q. -/

def mapDram : Mem := memPut (memPut [] 0 (leBytes 8 (2 ^ 62 + 2 ^ 16))) 65536 (leBytes 8 (2 ^ 63 + 0xDE))

def richThread (x y : Quad × Bool) : Thread :=
  (testThread.write 16 .w128 x.1 x.2).write 20 .w128 y.1 y.2

/-- Words of eight bytes at places of DRAM and of the scratchpad. -/
def putWords (m : Mem) (ws : List (Nat × Nat)) : Mem := ws.foldl (fun m w => memPut m w.1 (leBytes 8 w.2)) m

def richState (x y : Quad × Bool) (dram scratch : List (Nat × Nat)) : State :=
  ((stateOf (richThread x y)).modDie .craren fun k => { k with dram := putWords mapDram dram }).modCore
    .craren 0 fun k => { k with scratch := putWords [] scratch }

def richCur (x y : Quad × Bool) : Cur := curOf (richThread x y)

theorem richState_cur (x y : Quad × Bool) (ds cs : List (Nat × Nat)) :
    (richState x y ds cs).cur = some (richCur x y) := stateOf_cur _ rfl

theorem readsOnce_of {s : State} {c : Cur} {srcs : List (Opnd × Width)} {vs : List (Quad × Bool)}
    (hc : s.cur = some c) (hu : s.upsets = [])
    (hg : isShadow c.cv c.r = false ∧ c.cv.isProtected = false)
    (h : (readAll s c srcs).toOption = some vs) : ReadsOnce s al srcs s c vs := by
  exact ⟨⟨c, hc, rfl, hg.1, (touch_of_no_upsets hu _ _).symm⟩, hc, ok_of h,
    fun hp => absurd hp (by simp [hg.2])⟩

theorem richReads {x y : Quad × Bool} {ds cs : List (Nat × Nat)} {srcs : List (Opnd × Width)}
    {vs : List (Quad × Bool)}
    (h : (readAll (richState x y ds cs) (richCur x y) srcs).toOption = some vs) :
    ReadsOnce (richState x y ds cs) al srcs (richState x y ds cs) (richCur x y) vs :=
  readsOnce_of (richState_cur x y ds cs) rfl (by simp only [richCur, curOf]; decide +kernel) h

/-- Whether a read of virtual memory gives clean bytes. -/
def clean (x : Except Stop (State × Got)) : Bool :=
  match x with
  | .ok (_, g) => g.bad.isNone
  | .error _ => false

/-- A place that a translation gives: one part, at an address of the same offset, with the leaf bits given set,
those given clear, in a granule without a key. -/
def plainPlace (s : State) (x : Except Stop Loc) (at' : Nat) (ones zeros : List Nat) : Bool :=
  match x with
  | .ok l => l.y.isNone && l.pa % 65536 == at' % 65536 && ones.all l.x.leaf.getLsbD
    && zeros.all (fun i => !l.x.leaf.getLsbD i) && (aget s.craren.cipher (l.pa / 65536)).isNone
  | .error _ => false

/-- A load from DRAM and one of the last word of the scratchpad. -/
theorem test_witness_Loads :
    let s := richState (globalCap 0x30000) (q 0) [(0x30000, 77)] []
    let c := richCur (globalCap 0x30000) (q 0)
    (ReadsOnce s al [(.g 16, .w128), (immInt 0, .w32)] s c [globalCap 0x30000, q 0]
      ∧ checkCap (globalCap 0x30000).1 true permRead (lo32 (q 0)) 8 = .ok 0x30000
      ∧ capSpace (globalCap 0x30000).1 ≠ 5 ∧ capSpace (globalCap 0x30000).1 ≠ 6
      ∧ c.t.held = false ∧ capSpace (globalCap 0x30000).1 = 0 ∧ s.loadOwes c 0 0x30000 8 = false
      ∧ s.farLoad c 0 0x30000 8 (capSystem (globalCap 0x30000).1) = false
      ∧ clean (s.readSpace c 0 0x30000 8 (capSystem (globalCap 0x30000).1)) = true)
    ∧ (ReadsOnce testState al [(.g 8, .w128), (.lit 8176, .w32)] testState testCur [(testCap 2, true), q 8176]
      ∧ testThread.held = false
      ∧ checkCap (testCap 2) true permRead (lo32 (q 8176)) 16 = .ok 8176 ∧ capSpace (testCap 2) = 2
      ∧ 8176 + 16 ≤ testCove.declared ∧ testState.upsets = []
      ∧ (testState.core .craren 0).badSectors = [])
    ∧ (Ty.b64 ∈ loadTys ∧ Ty.b64.bytes = 8 ∧ 0x30000 % 65536 + 8 ≤ 65536
      ∧ plainPlace s (s.locate (c.agent (capSystem (globalCap 0x30000).1)) .read 0x30000 8) 0x30000 [6] [55] = true
      ∧ s.upsets = [] ∧ (s.die .craren).poisoned = [] ∧ (s.core .craren 0).l1 = []) :=
  ⟨⟨richReads (by decide +kernel), ok_of (by decide +kernel), by decide +kernel⟩,
    ⟨readsOnce (by decide +kernel), by decide, ok_of (by decide +kernel), by decide +kernel⟩, by decide +kernel⟩

/-- A store through a capability of space 3; one that fails its check; one to DRAM; and one of the last
word of the scratchpad. -/
theorem test_witness_Stores :
    let s := richState (testCap 3, true) (globalCap 0x30000) [] []
    let c := richCur (testCap 3, true) (globalCap 0x30000)
    (ReadsOnce s al [(.g 16, .w128), (immInt 0, .w32), (.lit 5, .w32)] s c [(testCap 3, true), q 0, q 5]
      ∧ c.t.held = false ∧ capSpace (testCap 3) = 3 ∧ effTag (testCap 3) true = true)
    ∧ (ReadsOnce s al [(.g 20, .w128), (immInt 0, .w32), (.lit 5, .w32)] s c [globalCap 0x30000, q 0, q 5]
      ∧ capSpace (globalCap 0x30000).1 = 0
      ∧ checkCap (globalCap 0x30000).1 true permWrite (lo32 (q 0)) 4 = .ok 0x30000
      ∧ (s.storeSpace c (globalCap 0x30000).1 0x30000 (quadBytes 4 5) false).isOk = true
      ∧ Ty.b32 ∈ loadTys ∧ 0x30000 % 65536 + 4 ≤ 65536
      ∧ plainPlace s (s.locate (c.agent (capSystem (globalCap 0x30000).1)) .write 0x30000 4) 0x30000
        [6, 7] [53, 55] = true
      ∧ (match s.locate (c.agent (capSystem (globalCap 0x30000).1)) .write 0x30000 4 with
        | .ok l => s.storeWaits c [l] true
        | .error _ => true) = false
      ∧ s.upsets = [] ∧ Memory.wf (s.die .craren).dram = true)
    ∧ (ReadsOnce testState al [(.g 8, .w128), (.lit 8189, .w32), (.lit 5, .w32)] testState testCur
        [(testCap 2, true), q 8189, q 5]
      ∧ checkCap (testCap 2) true permWrite (lo32 (q 8189)) 4
        = .error (.trap .capBounds 8189))
    ∧ (Ty.b32 ∈ loadTys
      ∧ ReadsOnce testState al [(.g 8, .w128), (.lit 8188, .w32), (.lit 5, .w32)] testState testCur
        [(testCap 2, true), q 8188, q 5]
      ∧ checkCap (testCap 2) true permWrite (lo32 (q 8188)) 4 = .ok 8188 ∧ capSpace (testCap 2) = 2
      ∧ 8188 + 4 ≤ testCove.declared ∧ Memory.wf (testState.core .craren 0).scratch = true) :=
  ⟨⟨richReads (by decide +kernel), by decide +kernel⟩,
    ⟨richReads (by decide +kernel), by decide +kernel, ok_of (by decide +kernel),
      by decide +kernel⟩,
    ⟨readsOnce (by decide +kernel), error_of (by decide +kernel)⟩,
    by decide, readsOnce (by decide +kernel), ok_of (by decide +kernel), by decide +kernel⟩

/-- The bounds of each operation's cases; a misaligned one, an aligned one, and one to DRAM. -/
theorem test_witness_Atomics :
    (0xFFFFFFFF : Nat) < 2 ^ tyBits .i32 ∧ Ty.i32 ∈ [Ty.i32, .n32, .i64, .n64, .b32, .b64]
    ∧ Ty.b32 ∈ atomTys 7
    ∧ (ReadsOnce testState al [(.g 8, .w128), (.lit 8185, .w32), (.g 4, atomWidth 7 .b32)] testState testCur
        [(testCap 2, true), q 8185, q 0]
      ∧ checkCap (testCap 2) true (permRead + permWrite + permAtomic) (lo32 (q 8185)) 4 = .ok 8185)
    ∧ (ReadsOnce testState al [(.g 8, .w128), (.lit 8188, .w32), (.g 4, atomWidth 7 .b32)] testState testCur
        [(testCap 2, true), q 8188, q 0]
      ∧ checkCap (testCap 2) true (permRead + permWrite + permAtomic) (lo32 (q 8188)) 4 = .ok 8188)
    ∧ testThread.held = false ∧ capSpace (testCap 2) = 2 ∧ testCove.isProtected = false
    ∧ testState.strong testCur.ctx = false ∧ 8188 + 4 ≤ testCove.declared ∧ testState.upsets = []
    ∧ (testState.core .craren 0).badSectors = []
    ∧ (let s := richState (globalCap 0x30000) (q 0) [] []
      let c := richCur (globalCap 0x30000) (q 0)
      ReadsOnce s al [(.g 16, .w128), (immInt 0, .w32), (.g 4, atomWidth 7 .b32)] s c
        [globalCap 0x30000, q 0, q 0]
      ∧ c.t.held = false ∧ 0x30000 % Ty.b32.bytes = 0
      ∧ checkStore (globalCap 0x30000) (permRead + permWrite + permAtomic) (lo32 (q 0)) 4 = .ok 0x30000
      ∧ s.strong c.ctx = false
      ∧ (s.atomSpace c (globalCap 0x30000).1 false .sys 7 .b32 (.g 0) 0 0x30000).isOk = true) :=
  ⟨by decide, by decide, by decide, ⟨readsOnce (by decide +kernel), ok_of (by decide +kernel)⟩,
    ⟨readsOnce (by decide +kernel), ok_of (by decide +kernel)⟩, by decide, by decide +kernel,
    by decide +kernel, by decide +kernel, by decide +kernel, rfl, by decide +kernel,
    richReads (by decide +kernel), by decide +kernel, by decide, ok_of (by decide +kernel),
    by decide +kernel⟩

theorem test_witness_FencesAndSynchronisation :
    ReadsOnce testState al [] testState testCur [] ∧ testState.link.reqs = []
    ∧ (ReadsOnce testState al [(.g 8, .w128), (.lit 8184, .w32)] testState testCur [(testCap 2, true), q 8184]
      ∧ testThread.held = false ∧ checkCap (testCap 2) true permRead (lo32 (q 8184)) 8 = .ok 8184
      ∧ capSpace (testCap 2) = 2 ∧ 8184 % 8 = 0 ∧ 8184 + 8 ≤ testCove.declared ∧ testState.upsets = []
      ∧ (testState.core .craren 0).badSectors = [])
    ∧ (ReadsOnce testState al [(.g 8, .w128), (.lit 8184, .w32), (.g 4, .w64)] testState testCur
        [(testCap 2, true), q 8184, q 0]
      ∧ checkCap (testCap 2) true permWrite (lo32 (q 8184)) 8 = .ok 8184) :=
  ⟨readsOnce (by decide +kernel), rfl,
    ⟨readsOnce (by decide +kernel), by decide, ok_of (by decide +kernel), by decide +kernel⟩,
    readsOnce (by decide +kernel), ok_of (by decide +kernel)⟩

/-- A prefetch within its region and one past it; every window cleaned, and a range. -/
theorem test_witness_PrefetchAndStash :
    (ReadsOnce testState al [(.g 12, .w128), (immInt 0, .w32)] testState testCur [(testCap 0, true), q 0]
      ∧ checkCap (testCap 0) true permRead (lo32 (q 0)) 1 = .ok 0)
    ∧ (ReadsOnce testState al [(.g 12, .w128), (immInt 8192, .w32)] testState testCur
        [(testCap 0, true), q 8192]
      ∧ checkCap (testCap 0) true permRead (lo32 (q 8192)) 1 = .error (.trap .capBounds 8192)
      ∧ checkCap (testCap 0) true permFetch (lo32 (q 8192)) 1 = .error (.trap .capBounds 8192))
    ∧ (ReadsOnce testState al [(.g 12, .w128), (immInt 0, .w32), (.none, .w32)] testState testCur
        [(testCap 0, true), q 0, q 0]
      ∧ testThread.held = false ∧ capSpace (testCap 0) = 0
      ∧ (testState.cleanAll (some testCur) (capSystem (testCap 0)) firstCove false).2 = none
      ∧ (testState.cleanAll (some testCur) (capSystem (testCap 0)) firstCove true).2 = none)
    ∧ (ReadsOnce testState al [(.g 12, .w128), (immInt 0, .w32), (.lit 8192, .w32)] testState testCur
        [(testCap 0, true), q 0, q 8192]
      ∧ checkCap (testCap 0) true permRead (lo32 (q 0)) 8192 = .ok 0
      ∧ (testState.cleanRange (some testCur) (capSystem (testCap 0)) firstCove 0 8192 false).2 = none
      ∧ (testState.cleanRange (some testCur) (capSystem (testCap 0)) firstCove 0 8192 true).2 = none) :=
  ⟨⟨readsOnce (by decide +kernel), ok_of (by decide +kernel)⟩,
    ⟨readsOnce (by decide +kernel), error_of (by decide +kernel), error_of (by decide +kernel)⟩,
    ⟨readsOnce (by decide +kernel), by decide +kernel⟩,
    readsOnce (by decide +kernel), ok_of (by decide +kernel), by decide +kernel⟩

/-- A gang of crew 0 alone, and one of a crew that the cove does not have. -/
theorem test_witness_GangArrival :
    (Reads testState al [(.lit 1, .w32), (.g 4, .w128), (.g 0, .w32)] [] testState testCur [q 1, q 0, q 0]
      ∧ testCur.crew = 0 ∧ (List.range 32).filter (fun k => (lo32 (q 1)).getLsbD k) = [0]
      ∧ 0 < testCove.crewCount)
    ∧ (Reads testState al [(.lit 3, .w32), (.g 4, .w128), (.g 0, .w32)] [] testState testCur [q 3, q 0, q 0]
      ∧ (List.range 32).filter (fun k => (lo32 (q 3)).getLsbD k) = [0, 1] ∧ testCove.crewCount = 1)
    ∧ (Reads testState always [(.lit 1, .w32)] [] testState testCur [q 1]
      ∧ ∀ c0, testState.cur = some c0 → guardHolds ⟨0, false⟩ c0.t = false) :=
  ⟨⟨reads (by decide +kernel), by decide +kernel⟩, ⟨reads (by decide +kernel), by decide +kernel⟩,
    readsOff (by decide +kernel)⟩

/-- The rich machine with its first core changed. -/
def coreState (x y : Quad × Bool) (scratch : List (Nat × Nat)) (f : Core → Core) : State :=
  (richState x y [] scratch).modCore .craren 0 f

theorem coreState_cur (x y : Quad × Bool) (cs : List (Nat × Nat)) (f : Core → Core) :
    (coreState x y cs f).cur = some (richCur x y) := stateOf_cur _ rfl

theorem coreReads {x y : Quad × Bool} {cs : List (Nat × Nat)} {f : Core → Core}
    {srcs : List (Opnd × Width)} {vs : List (Quad × Bool)}
    (h : (readAll (coreState x y cs f) (richCur x y) srcs).toOption = some vs) :
    ReadsOnce (coreState x y cs f) al srcs (coreState x y cs f) (richCur x y) vs :=
  readsOnce_of (coreState_cur x y cs f) rfl (by simp only [richCur, curOf]; decide +kernel) h

/-- A chain of one operation that passes in0 to out. -/
def testChain : List DWord := [0, 0x880A]

def arrayEntry : ArrayOp := ⟨.mzero, firstCove, 0, [], 0⟩

/-- The least and the greatest mzero of an 8 KiB scratchpad, one of a bad shape, with and without room;
runs of no group and of one; and a chain's record. -/
theorem test_witness_ArrayCommands :
    (ReadsOnce testState al [(.g 4, .w128)] testState testCur [q 0]
      ∧ ((q 0).1.extractLsb' 84 10).toNat < 16)
    ∧ (let v := q (32 * 2 ^ 84)
      ReadsOnce (richState v (q 0) [] []) al [(.g 16, .w128)] (richState v (q 0) [] []) (richCur v (q 0)) [v]
      ∧ v.1.extractLsb' 94 2 = 0 ∧ v.1.getLsbD 83 = false ∧ (v.1.extractLsb' 84 10).toNat = 32
      ∧ (v.1.extractLsb' 64 19).toNat = 0 ∧ 0 + 256 * 32 ≤ testCove.declared
      ∧ (((richState v (q 0) [] []).core .craren 0).array.length < Config.arrayQueue))
    ∧ (let v := q (16 * 2 ^ 84)
      let f (k : Core) : Core := { k with array := List.replicate Config.arrayQueue arrayEntry }
      ReadsOnce (coreState v (q 0) [] f) al [(.g 16, .w128)] (coreState v (q 0) [] f) (richCur v (q 0)) [v]
      ∧ (v.1.extractLsb' 84 10).toNat = 16
      ∧ ¬ ((coreState v (q 0) [] f).core .craren 0).array.length < Config.arrayQueue)
    ∧ (∀ groups ∈ [0, 1],
      let v := q (groups * 2 ^ 96)
      let f (k : Core) : Core := { k with chains := [(7, (0, testChain))] }
      ReadsOnce (coreState v (q 0) [] f) al [(.g 16, .w128)] (coreState v (q 0) [] f) (richCur v (q 0)) [v]
      ∧ ((coreState v (q 0) [] f).core .craren 0).chainAhead 0 7 = some testChain
      ∧ runCheck testCove testChain v.1 = .ok () ∧ (v.1.extractLsb' 96 16).toNat = groups)
    ∧ (let s := richState (q 0) (q 0) [] [(8, 0x880A)]
      let c := richCur (q 0) (q 0)
      ReadsOnce s al [(.g 8, .w128), (immInt 0, .w32)] s c [(testCap 2, true), q 0]
      ∧ (s.readChain c (testCap 2, true) (lo32 (q 0)) 8).toOption.map Prod.snd = some [0]
      ∧ (s.readChain c (testCap 2, true) (lo32 (q 0)) (8 * (chCount 0 + 1))).toOption.map Prod.snd
        = some testChain
      ∧ chainOk testChain = true) :=
  ⟨⟨readsOnce (by decide +kernel), by decide +kernel⟩, ⟨richReads (by decide +kernel), by decide +kernel⟩,
    ⟨coreReads (by decide +kernel), by decide +kernel⟩,
    fun g hg => by
      rcases List.mem_cons.1 hg with rfl | hg
      · exact ⟨coreReads (by decide +kernel), by decide +kernel, ok_of (by decide +kernel), by decide +kernel⟩
      · rw [List.mem_singleton.1 hg]
        exact ⟨coreReads (by decide +kernel), by decide +kernel, ok_of (by decide +kernel), by decide +kernel⟩,
    richReads (by decide +kernel), by decide +kernel⟩

/-- The largest value; the FP32 terms 1, 2 · 2 and an infinity, a NaN, an opposite pair, and zeros. -/
theorem test_witness_MatrixIntegerElement :
    (0xFFFFFFFF : Nat) < 2 ^ 32
    ∧ (let one := FVal.num false 0x800000 (-23)
      let four := FVal.num false (2 * 2) 0
      let terms := [fp32.read 0x3F800000, four]
      terms = [one, four] ∧ (∀ v ∈ terms, v.isNan = false ∧ v.isInf = false)
      ∧ (0 : Int) + (4 : Nat).log2 = 2 ∧ (4 : Nat) ≠ 0 ∧ (-23 : Int) + (0x800000 : Nat).log2 ≤ 2)
    ∧ (fp32.read 0x7F800000 = .inf false ∧ fp32.read 0xFF800000 = .inf true ∧ (fp32.read 0x7FC00000).isNan = true
      ∧ (fp32.read 0x80000000).isZero = true) := by decide +kernel

/-- Handles clear and pending, the latter with its copy; readable and unreadable counters. -/
theorem test_witness_HandlesAndCounters :
    Reads testState al [(immInt 0xFFFF, .w32)] [] testState testCur [q 0xFFFF]
    ∧ (ReadsOnce testState al [(immInt 0, .w32)] testState testCur [q 0]
      ∧ (testThread.handle 0).extractLsb' 48 16 ≠ 0x8000)
    ∧ (let t := testThread.setHandle 0 pendingWord
      let op : CopyOp := ⟨firstThread, firstCove, some 0, 0, 0, 0, 16, 3, 0⟩
      let s := (stateOf t).modCore .craren 0 fun k => { k with copies := [op] }
      ReadsOnce s al [(immInt 0, .w32)] s (curOf t) [q 0]
      ∧ (t.handle 0).extractLsb' 48 16 = 0x8000 ∧ (s.core .craren 0).keeps firstThread 0 = false
      ∧ ((s.core .craren 0).copies.find? fun y => y.owner == firstThread && y.handle == some 0) = some op)
    ∧ Reads testState al [(.h 0, .w64)] [] testState testCur [q 0]
    ∧ Reads testState al [(.lit 4, .w64)] [] testState testCur [q 4]
    ∧ Reads testState al [(immInt 0x10, .w32)] [] testState testCur [q 0x10]
    ∧ Reads testState al [(immInt 0x12, .w32)] [] testState testCur [q 0x12] ∧ testCove.system = false :=
  ⟨reads (by decide +kernel), ⟨readsOnce (by decide +kernel), by decide +kernel⟩,
    ⟨readsOnce_of (stateOf_cur _ rfl) rfl (by decide +kernel) (by decide +kernel), by decide +kernel⟩,
    reads (by decide +kernel), reads (by decide +kernel), reads (by decide +kernel),
    reads (by decide +kernel), by decide +kernel⟩

def fullCopies (k : Core) : Core :=
  { k with copies := List.replicate Config.copyQueue ⟨firstThread, firstCove, none, 0, 0, 0, 16, 0, 0⟩ }

/-- Each form with nothing and with something to copy, within the scratchpad or from it; a full copy unit;
and a descriptor whose barrier the cove does not have. -/
theorem test_witness_CopyCommands :
    (∀ v ∈ [q 0, q 0x2000, q (2 ^ 118 + 2 ^ 119)],
      ReadsOnce (richState v (q 0) [] []) al [(.g 8, .w128), (.g 8, .w128), (.g 16, .w128)]
        (richState v (q 0) [] []) (richCur v (q 0)) [(testCap 2, true), (testCap 2, true), v]
      ∧ (richState v (q 0) [] []).copyCheck (richCur v (q 0)) 0 (testCap 2, true) (testCap 2, true) v.1
        = .ok ())
    ∧ (let v := q 16
      ReadsOnce (coreState v (q 0) [] fullCopies) al [(.g 8, .w128), (.g 8, .w128), (.g 16, .w128)]
        (coreState v (q 0) [] fullCopies) (richCur v (q 0)) [(testCap 2, true), (testCap 2, true), v]
      ∧ (coreState v (q 0) [] fullCopies).copyCheck (richCur v (q 0)) 0 (testCap 2, true) (testCap 2, true) v.1
        = .ok () ∧ Config.copyQueue ≤ ((coreState v (q 0) [] fullCopies).core .craren 0).copies.length)
    ∧ (∀ b ∈ [0, 2 ^ 118 + 2 ^ 119],
      let op : CopyOp := ⟨firstThread, firstCove, none, 0, 0, 0, BitVec.ofNat 128 b, 0, 0⟩
      let s := testState.modCore .craren 0 fun k => { k with copies := [op] }
      (s.core .craren 0).copies = [op] ∧ cpTotal op.form op.desc = 0
      ∧ s.thread? op.owner = some testThread ∧ testThread.held = false
      ∧ op.desc.getLsbD 118 = decide (b ≠ 0)
      ∧ (((s.modCore .craren 0 fun k => { k with copies := [] }).completeHandle op.owner op.handle 0).cove?
        op.cove).isSome = true)
    ∧ (let v := q 0
      ReadsOnce (coreState v (q 0) [] fullCopies) al [(.g 8, .w128), (.g 8, .w128), (.g 16, .w128)]
        (coreState v (q 0) [] fullCopies) (richCur v (q 0)) [(testCap 2, true), (testCap 2, true), v]
      ∧ (coreState v (q 0) [] fullCopies).copyCheck (richCur v (q 0)) 0 (testCap 2, true) (testCap 2, true) v.1
        = .ok ())
    ∧ (∀ p ∈ [(1, 16 + 2 * 2 ^ 32), (2, 1 + 4 * 2 ^ 32), (3, 1 + 4 * 2 ^ 32), (4, 16 + 2 ^ 32)],
      (testState.copyCheck testCur p.1 (if p.1 = 3 then testCap 0 else testCap 2, true) (testCap 2, true)
        (q p.2).1).isOk = true)
    ∧ cpBadField 0 testCove.barCount (q (2 ^ 118 + 2 * 2 ^ 119)).1 = some 2
    ∧ (ReadsOnce testState al [(.g 8, .w128), (.none, .w128), (.g 4, .w128)] testState testCur
        [(testCap 2, true), q 0, q 0]
      ∧ testState.copyCheck testCur 5 (testCap 2, true) (q 0) 0 = .ok ()) :=
  ⟨fun v hv => by
      simp only [List.mem_cons, List.not_mem_nil, or_false] at hv
      rcases hv with rfl | rfl | rfl <;>
        exact ⟨richReads (by decide +kernel), ok_of (by decide +kernel)⟩,
    ⟨coreReads (by decide +kernel), ok_of (by decide +kernel), by decide +kernel⟩, by decide +kernel,
    ⟨coreReads (by decide +kernel), ok_of (by decide +kernel)⟩, by decide +kernel,
    by decide +kernel, readsOnce (by decide +kernel), ok_of (by decide +kernel)⟩

def rayEntry : RaySlot := ⟨firstThread, firstCove, 0, [0], 1, 0⟩

/-- A ray that may start; records in each state, with and without a slot; and a search, an image and a
texel store that pass their checks. -/
theorem test_witness_EngineCommands :
    let g := globalCap 0x40000;
    (let s := richState g (q 0) [] [(32, 1)];
      ReadsOnce s al [(.g 16, .w128), (immInt 0, .w32)] s (richCur g (q 0)) [g, q 0]
      ∧ ((s.rayGoCheck (richCur g (q 0)) g 0).toOption.map fun s2 =>
          (((s2.core .craren 0).raySlot firstThread 0), (s2.core .craren 0).rays.length)) = some (none, 0)
      ∧ 0 < Config.raySlots)
    ∧ (∀ w ∈ [0, 1, 2, 3, 5], ∀ rays ∈ [[], [rayEntry]],
      let f (k : Core) : Core := { k with rays := rays }
      let s := coreState (q 0) (q 0) [(64, w)] f
      ReadsOnce s al [(immInt 0, .w32)] s (richCur (q 0) (q 0)) [q 0]
      ∧ 0 % 16 = 0 ∧ 0 + 128 ≤ testCove.declared
      ∧ leNat (memBytes (s.core .craren 0).scratch (testCove.scratchBase + 0 + 64) 4) = w
      ∧ (s.core .craren 0).raySlot firstThread 0 = rays.head?
      ∧ (s.core .craren 0).rays.length < Config.raySlots)
    ∧ (let v := q (8 * 2 ^ 64 + 8 * 2 ^ 48 + 8 * 2 ^ 32 + 8184 * 2 ^ 96)
      let s := richState v (q 0) [] []
      ReadsOnce s al [(.g 8, .w128), (.g 8, .w128), (.g 16, .w128)] s (richCur v (q 0))
        [(testCap 2, true), (testCap 2, true), v]
      ∧ s.searchCheck (richCur v (q 0)) (testCap 2, true) (testCap 2, true) v.1 = .ok ())
    ∧ (let s := richState g (q 0) [] []
      ReadsOnce s al [(.g 16, .w128), (.g 4, .w64)] s (richCur g (q 0)) [g, q 0]
      ∧ s.imageCheck (richCur g (q 0)) g = .ok ()
      ∧ ReadsOnce s al [(.g 16, .w128), (.g 4, .w64), (.g 4, if Ty.f32 = .f32 then .w128 else .w32)] s
        (richCur g (q 0)) [g, q 0, q 0]) :=
  ⟨⟨richReads (by decide +kernel), by decide +kernel⟩,
    fun w hw rays hr => by
      simp only [List.mem_cons, List.not_mem_nil, or_false] at hw hr
      rcases hw with rfl | rfl | rfl | rfl | rfl <;> rcases hr with rfl | rfl <;>
        exact ⟨coreReads (by decide +kernel), by decide +kernel⟩,
    ⟨richReads (by decide +kernel), ok_of (by decide +kernel)⟩,
    richReads (by decide +kernel), ok_of (by decide +kernel), richReads (by decide +kernel)⟩

/-- The rich machine whose launch has the system right. -/
def systemCove : Cove := { testCove with system := true }

def systemState : State :=
  ({ testState with coves := [(firstCove, systemCove)] }).modDie .craren fun x => { x with
    slots := [(0, { state := .active, owner := some 0, data := 1, tweak := 1 })] }

def systemCur : Cur := { testCur with cv := systemCove }

theorem systemState_cur : systemState.cur = some systemCur := by decide +kernel

/-- bind of the least region and of the least window, and one that fails; unbind at both ends of each
range; keyz with and without the right; and a scope that is none. -/
theorem test_witness_TableInstructions :
    let r : Quad × Bool := (capMake 0 0xFF 192 0 0 0, true)
    let s := richState r (q 0) [] []
    let c := richCur r (q 0);
    (c.t.held = false ∧ (c.ctx, 255) = (0, 255) ∧ (s.putBinding c 255 1).isOk = true)
    ∧ (∀ k ∈ [255, 256], ReadsOnce s al [(.g 16, .w128), (.lit (BitVec.ofNat 64 k), .w32), (.g 4, .w64)] s c
        [r, q k, q 0]
      ∧ bindCheck testCove r (lo32 (q k)) (lo64 (q 0)) = none
      ∧ ((lo32 (q k)).getLsbD 8 = decide (k = 256)) ∧ (s.retireWindow c (k % 256)).2 = none
      ∧ ((s.cove? c.t.cove).bind fun k => aget k.windows 0) = none)
    ∧ (ReadsOnce s al [(.g 4, .w128), (.lit 0, .w32), (.g 4, .w64)] s c [q 0, q 0, q 0]
      ∧ bindCheck testCove (q 0) (lo32 (q 0)) (lo64 (q 0)) = some (.trap .capTag 0))
    ∧ (∀ k ∈ [0, 255, 256, 257, 512], ReadsOnce testState al [(.lit (BitVec.ofNat 64 k), .w32)] testState
        testCur [q k])
    ∧ (testCove.stashMax = 1 ∧ (testState.retireWindow testCur 0).2 = none ∧ testCove.system = false
      ∧ (testState.ctx? testCur.ctx).bind (fun x => aget x.bindings 0) = none)
    ∧ (let s1 := testState.modCtx 0 fun x => { x with bindings := [(255, 1)] }
      (s1.ctx? testCur.ctx).bind (fun x => aget x.bindings 255) ≠ none ∧ (s1.putBinding testCur 255 0).isOk = true)
    ∧ (ReadsOnce systemState al [(.lit 0, .w32)] systemState systemCur [q 0] ∧ systemCove.system = true
      ∧ 0 < Config.keySlots .craren ∧ (systemState.slotOf .craren systemCove.vi 0).isSome = true
      ∧ systemCur.t.held = false ∧ ¬ Config.keySlots .craren ≤ 0
      ∧ (systemState.die .craren).scrub = none)
    ∧ (∀ k ∈ [0, 5], ReadsOnce testState al [(.g 4, .w64), (.lit 1, .w32), (.lit (BitVec.ofNat 64 k), .w32)]
        testState testCur [q 0, q 1, q k])
    ∧ scopeOf 0 = some .thr ∧ scopeOf 5 = none
    ∧ (ReadsOnce testState al [] testState testCur [] ∧ ReadsOnce systemState al [] systemState systemCur []
      ∧ (systemState.fenceAt systemCur .sys).isOk = true) :=
  ⟨by decide +kernel, fun k hk => by
      simp only [List.mem_cons, List.not_mem_nil, or_false] at hk
      rcases hk with rfl | rfl <;> exact ⟨richReads (by decide +kernel), by decide +kernel⟩,
    ⟨richReads (by decide +kernel), by decide +kernel⟩,
    fun k hk => by
      simp only [List.mem_cons, List.not_mem_nil, or_false] at hk
      rcases hk with rfl | rfl | rfl | rfl | rfl <;> exact readsOnce (by decide +kernel),
    by decide +kernel, by decide +kernel,
    ⟨readsOnce_of systemState_cur rfl (by decide +kernel) (by decide +kernel), by decide +kernel⟩,
    fun k hk => by
      simp only [List.mem_cons, List.not_mem_nil, or_false] at hk
      rcases hk with rfl | rfl <;> exact readsOnce (by decide +kernel),
    by decide +kernel, by decide +kernel, readsOnce (by decide +kernel),
    readsOnce_of systemState_cur rfl (by decide +kernel) (by decide +kernel), by decide +kernel⟩

/-- The last barrier of the cove and the one after it; counts at each end of their range, with nothing
expected and with an arrival that fills the phase and one that does not. -/
theorem test_witness_Barriers :
    testCove.barCount = 2
    ∧ (∀ p ∈ [(65535, 1), (65536, 1), (0, 1), (1, 1), (1, 2)],
      ReadsOnce testState al [(.lit (BitVec.ofNat 64 p.1), .w32), (immInt (BitVec.ofNat 20 p.2), .w32)]
        testState testCur [q p.1, q p.2])
    ∧ ReadsOnce testState al [(.none, .w32), (immInt 1, .w32)] testState testCur [q 0, q 1]
    ∧ testState.link.reqs = []
    ∧ ((testState.core .craren 0).barrier (testCove.barBase + 1)).expected = 0
    ∧ (∀ expected ∈ [1, 2, 65535],
      let f (k : Core) : Core := { k with barriers := [(1, ⟨expected, 0, 0xFFFFFFFF⟩)] }
      let s := coreState (q 0) (q 0) [] f
      ReadsOnce s al [(.lit 1, .w32), (immInt 1, .w32)] s (richCur (q 0) (q 0)) [q 1, q 1]
      ∧ ((s.core .craren 0).barrier (testCove.barBase + 1)).arrived
        < ((s.core .craren 0).barrier (testCove.barBase + 1)).expected
      ∧ ((s.core .craren 0).barrier (testCove.barBase + 1)).expected ≤ 65535) :=
  ⟨by decide +kernel, fun p hp => by
      simp only [List.mem_cons, List.not_mem_nil, or_false] at hp
      rcases hp with rfl | rfl | rfl | rfl | rfl <;> exact readsOnce (by decide +kernel),
    readsOnce (by decide +kernel), rfl, by decide +kernel,
    fun e he => by
      simp only [List.mem_cons, List.not_mem_nil, or_false] at he
      rcases he with rfl | rfl | rfl <;> exact ⟨coreReads (by decide +kernel), by decide +kernel⟩⟩

/-- The rich machine with a coalescing node parked in entry 1, whose block is at 0x20000, and a device-fed
queue 0 of records at 0x30000. -/
def nodeEntry : Entry :=
  { newEntry 0 0 1 [0, 0x100000001, 0, 0, 0, 0, 0x20000, 0] 0 0 false with state := .parked }

def fedQueue (size : Nat) (write : BitVec 16) : Queue :=
  { Queue.reset with base := 0x30000, size := size, write := write, enable := true, deviceFed := true }

/-- A launch of three coves with number 9 that waits in its queue. -/
def waitingLaunch : Waiting := ⟨9, [0, 0x300000001, 0, 0, 0, 0, 0, 0], 0⟩

/-- Words 0, 9, 10, 11 and 12 of the block: threshold 8, capacity 4, records of 16 bytes, and the tail
given. -/
def nodeBlock (tail : Nat) : List (Nat × Nat) :=
  [(0x20000, 2), (0x20048, 0x40000), (0x20050, 8 * 2 ^ 48 + 4 * 2 ^ 32 + 16 * 2 ^ 16), (0x20058, tail * 2 ^ 32)]

def launchState (tail : Nat) (x : Queue) (es : List (Nat × Entry)) : State :=
  ((richState (globalCap 0x20000) (globalCap 0x50000) (nodeBlock tail) []).modDie .craren fun k => { k with
    entries := (0, firstEntry) :: es }).modVi .craren 0 fun i => { i with
      created := true, queues := i.queues.set 0 x }

def launchCur : Cur := richCur (globalCap 0x20000) (globalCap 0x50000)

theorem launchReads {tail : Nat} {x : Queue} {es : List (Nat × Entry)} {srcs : List (Opnd × Width)}
    {vs : List (Quad × Bool)}
    (h : (readAll (launchState tail x es) launchCur srcs).toOption = some vs) :
    ReadsOnce (launchState tail x es) al srcs (launchState tail x es) launchCur vs :=
  readsOnce_of (stateOf_cur _ rfl) rfl (by simp only [launchCur, richCur, curOf]; decide +kernel) h

/-- A selector of the launch itself, of one that is parked, and of none; a queue that is not fed by the
device, one with room and one that is full; a node that is not parked, one whose buffer is full, one with
room, and firings of none and of one record. -/
theorem test_witness_CountersAndLaunches :
    let s := launchState 0 (fedQueue 0 0) [(1, nodeEntry)]
    let full := launchState 4 (fedQueue 0 1) [(1, nodeEntry)]
    let fed := launchState 0 { fedQueue 4 1 with waiting := [waitingLaunch] } []
    (ReadsOnce fed al [(.lit 9, .w32), (.lit 1, .w32)] fed launchCur [q 9, q 1]
      ∧ fed.named .craren testCove .launch 9 = .waiting waitingLaunch
      ∧ fed.counterOf .craren .launch (.waiting waitingLaunch) = 3
      ∧ fed.counterOf .craren .phase (fed.named .craren testCove .phase 9) = 1
      ∧ fed.named .craren testCove .launch 10 = .unknown) ∧
    (ReadsOnce s al [(.lit 0xFFFFFFFF, .w32), (.lit 1, .w32)] s launchCur [q 0xFFFFFFFF, q 1]
      ∧ s.named .craren testCove .launch 0xFFFFFFFF = .entries [0])
    ∧ (∀ k ∈ [0xFFFFFFFF, 1, 7], ReadsOnce s al [(.lit (BitVec.ofNat 64 k), .w32)] s launchCur [q k])
    ∧ (∀ x ∈ s.contexts, x.2.waiting = [] ∨ s.saveReady x.1 = true)
    ∧ (s.named .craren testCove .launch 0xFFFFFFFF).contains testCove = true
    ∧ (s.named .craren testCove .launch 1).contains testCove = false
    ∧ (s.named .craren testCove .launch 7).contains testCove = false
    ∧ (s.counterOf .craren .launch (s.named .craren testCove .launch 7)).getLsbD 63 = true
    ∧ (s.counterOf .craren .launch (s.named .craren testCove .launch 1)).getLsbD 63 = false
    ∧ (ReadsOnce s al [(.g 20, .w128), (.lit 8, .w32)] s launchCur [globalCap 0x50000, q 8]
      ∧ blockCheck (globalCap 0x50000) 64 = .ok 0x50000)
    ∧ (ReadsOnce s al [(.g 20, .w128), (.lit 7, .w32)] s launchCur [globalCap 0x50000, q 7]
      ∧ ((s.vi .craren 0).queues.getD 7 Queue.reset).enable = false)
    ∧ (ReadsOnce s al [(.g 20, .w128), (.lit 0, .w32)] s launchCur [globalCap 0x50000, q 0]
      ∧ ((s.vi .craren 0).queues.getD 0 Queue.reset).enable = true
      ∧ ((s.vi .craren 0).queues.getD 0 Queue.reset).deviceFed = true ∧ s.link.reqs = []
      ∧ (match s.readHome launchCur false 0x50000 64 with
        | .ok (s2, bs) => (s2.append .craren 0 0 bs).isOk
        | .error _ => false) = true)
    ∧ (ReadsOnce full al [(.g 20, .w128), (.lit 0, .w32)] full launchCur [globalCap 0x50000, q 0]
      ∧ (full.readHome launchCur false 0x50000 64).isOk = true
      ∧ 2 ^ ((full.vi .craren 0).queues.getD 0 Queue.reset).size
        ≤ ((full.vi .craren 0).queues.getD 0 Queue.reset).held)
    ∧ (ReadsOnce s al [(.g 16, .w128), (.g 20, .w128)] s launchCur [globalCap 0x20000, globalCap 0x50000]
      ∧ (match s.nodeCheck launchCur (globalCap 0x20000) with
        | .ok (s2, addr, blk) => decide (addr = 0x20000 ∧ s2.link.reqs = [] ∧ tcbSize blk = 16
            ∧ s2.nodeAt .craren 0 addr = some 1 ∧ tcbUnreleased blk < tcbCapacity blk
            ∧ tcbWaiting blk = 0)
          && (match s2.readSpace launchCur 0 0x50000 16 false with
            | .ok (s3, got) => got.bad.isNone && (s3.putRecord launchCur 1 addr blk got.bytes).isOk
            | .error _ => false)
        | .error _ => false) = true
      ∧ putCheck (globalCap 0x50000) 16 = .ok 0x50000)
    ∧ (ReadsOnce full al [(.g 16, .w128)] full launchCur [globalCap 0x20000]
      ∧ (match full.nodeCheck launchCur (globalCap 0x20000) with
        | .ok (s2, _, blk) => decide (tcbCapacity blk ≤ tcbUnreleased blk ∧ tcbWaiting blk ≠ 0
            ∧ ((s2.noReplay .craren 0).freeEntry .craren) = some 2)
          && (match (s2.noReplay .craren 0).fire .craren 1 with
            | .ok s4 => (s4.fireNode .craren 1).isOk
            | .error _ => false)
        | .error _ => false) = true)
    ∧ (let alone := launchState 0 (fedQueue 0 0) []
      ReadsOnce alone al [(.g 16, .w128), (.g 20, .w128)] alone launchCur
        [globalCap 0x20000, globalCap 0x50000]
      ∧ (alone.nodeCheck launchCur (globalCap 0x20000)).isOk = true ∧ alone.nodeAt .craren 0 0x20000 = none)
    ∧ (let many := launchState 1 (fedQueue 0 0)
        ((1, nodeEntry) :: (List.range 254).map fun i => (i + 2, firstEntry))
      ReadsOnce many al [(.g 16, .w128)] many launchCur [globalCap 0x20000]
      ∧ (many.nodeCheck launchCur (globalCap 0x20000)).isOk = true ∧ many.freeEntry .craren = none) :=
  ⟨⟨launchReads (by decide +kernel), by decide +kernel⟩,
    ⟨launchReads (by decide +kernel), by decide +kernel⟩,
    fun k hk => by
      simp only [List.mem_cons, List.not_mem_nil, or_false] at hk
      rcases hk with rfl | rfl | rfl <;> exact launchReads (by decide +kernel),
    by decide +kernel, by decide +kernel, by decide +kernel, by decide +kernel, by decide +kernel, by decide +kernel,
    ⟨launchReads (by decide +kernel), ok_of (by decide +kernel)⟩,
    ⟨launchReads (by decide +kernel), by decide +kernel⟩,
    ⟨launchReads (by decide +kernel), by decide +kernel⟩,
    ⟨launchReads (by decide +kernel), by decide +kernel⟩,
    ⟨launchReads (by decide +kernel), by decide +kernel, ok_of (by decide +kernel)⟩,
    ⟨launchReads (by decide +kernel), by decide +kernel⟩,
    ⟨launchReads (by decide +kernel), by decide +kernel⟩,
    launchReads (by decide +kernel), by decide +kernel⟩

/-- Two words of eight bytes of a quad. -/
def quadWords (at' : Nat) (v : Quad) : List (Nat × Nat) :=
  [(at', v.toNat % 2 ^ 64), (at' + 8, v.toNat / 2 ^ 64)]

/-- A machine with operations in flight, and in DRAM the descriptor of an image of one texel, which lies in
the scratchpad. -/
def engineState (scratch : List (Nat × Nat)) (f : Core → Core) : State :=
  ((richState (q 0) (q 0) (quadWords 0x40000 (testCap 2)) scratch).modDie .craren fun x => { x with
    tags := [0x4000] }).modCore .craren 0 f

def copyOf (dst : Quad) : CopyOp := ⟨firstThread, firstCove, some 0, 0, dst, testCap 2, 16, 0, 0⟩

def searchOne : SearchOp :=
  ⟨firstThread, firstCove, some 0, testCap 2, testCap 2, BitVec.ofNat 128 (8 * 2 ^ 64 + 8 * 2 ^ 48 + 8 * 2 ^ 32), 0⟩

def sampleOne : SampleOp := ⟨firstThread, firstCove, some 0, false, false, 0, (globalCap 0x40000).1, 0, 0, 8, 0, 0⟩

def storeOne : ImgOp := ⟨firstThread, firstCove, some 0, .f32, (globalCap 0x40000).1, 0, 0, 0, 0⟩

def arrayOf (kind : ArrayKind) : ArrayOp :=
  ⟨kind, firstCove, BitVec.ofNat 128 (16 * 2 ^ 84), [(firstThread, 0)], 0⟩

/-- One operation of each engine that runs to its end, and a copy that meets an absent page. -/
theorem test_witness_EngineCompletions :
    (testState.cove? firstCove = some testCove ∧ testState.forked firstCove testCove 0 = true)
    ∧ (∀ absent ∈ [false, true],
      let dst := if absent then capMake 0 0xFF 0xC00000 0x800000 6 0x20000000 else testCap 2
      let s := engineState [] fun k => { k with copies := [copyOf dst] }
      (s.core .craren 0).copies[0]? = some (copyOf dst) ∧ s.cove? firstCove = some testCove
      ∧ s.forked firstCove testCove 0 = true
      ∧ (State.copyRun (copyEnv testCove (copyOf dst)) (cpTotal 0 (copyOf dst).desc)
          (cpTotal 0 (copyOf dst).desc + 1) s 0).2.2.isSome
        = absent)
    ∧ (let s := (engineState ((32, 1) :: quadWords 48 (globalCap 0x30000).1) fun k => { k with
        rays := [rayEntry] }).scratchTagPut .craren 0 3 true
      (s.core .craren 0).rays[0]? = some rayEntry ∧ (s.rayRound firstCove testCove 0).isOk = true)
    ∧ (let s := engineState [] fun k => { k with searches := [searchOne] }
      (s.core .craren 0).searches[0]? = some searchOne ∧ (s.searchResult testCove searchOne).isOk = true)
    ∧ (let s := engineState [] fun k => { k with samples := [sampleOne] }
      (s.core .craren 0).samples[0]? = some sampleOne ∧ (s.sampleResult testCove sampleOne).isOk = true)
    ∧ (let s := engineState [] fun k => { k with images := [storeOne] }
      (s.core .craren 0).images[0]? = some storeOne ∧ (s.imgResult testCove storeOne).isOk = true)
    ∧ (∀ kind ∈ [ArrayKind.mma 0 0, .mzero, .chdef 7 testChain, .chrun 7],
      let s := engineState [] fun k => { k with array := [arrayOf kind] }
      (s.core .craren 0).array = [arrayOf kind] ∧ s.cove? firstCove = some testCove
      ∧ s.forked firstCove testCove 0 = true
      ∧ (s.readTiles (arrayOf kind) testCove 0 0).2.isSome = true) := by
  decide +kernel

/-- The clause at 0x60000 is one instruction of two words. -/
def frozenKey : Nat × DecodeKey × DWord := (0, testCove.key, 0x60000)

def frozenState : State :=
  let s := stateOf { testThread with pc := 0x60000 }
  ({ s with issue := none }).modDie .craren fun k => { k with
    dram := putWords mapDram [(0x60000, (openHeader 1).toNat), (0x60008, 0x3E1)]
    cores := [(0, { Core.reset with dopMisses := [frozenKey] })] }

def reportOne : Report := ⟨.craren, some firstThread, ⟨2, .storeFault, 0, 8, 0, 0, none⟩, 0, 0, 0, 0⟩

/-- A ready thread of a slot and lane, passed over so often. -/
def seatOf (slot lane passed : Nat) : Seat :=
  ⟨⟨.craren, 0, slot, lane⟩, { testThread with passed := passed, vlane := lane }, testCove⟩

/-- Ready threads with one starved and with none; a thread that issues, one passed over on its lane, and one on
another lane; a nap on each kind of place; a miss that a thread waits for, whose clause can be fetched; a
report; a nap; and a window with a clean part. -/
theorem test_witness_IssueAndCaches :
    (∀ p ∈ [0, 33], let xs := [seatOf 0 0 32, seatOf 1 0 p, seatOf 2 31 0]
      (∀ x ∈ xs, testState.mate x = none ∧ x.r.lane < 32 ∧ testState.keySerial x = false)
      ∧ (xs.map (·.r)).Nodup ∧ xs.map (fun x => decide (33 ≤ x.t.passed)) = [false, p == 33, false])
    ∧ (let x := { seatOf 0 0 32 with t := testThread }
      ({ testState with crews := [((firstCove, 0), serialCrew)] } : State).keySerial x = true)
    ∧ (let xs : List Seat := [seatOf 0 0 32, seatOf 1 0 5]
      let s := { testState with threads := xs.map fun (x : Seat) => (x.r, x.t) }
      s.thread? firstThread = some (seatOf 0 0 32).t ∧ (∃ u ∈ [seatOf 1 0 5], u.r ≠ firstThread ∧ u.r.lane = 0)
      ∧ (∃ u ∈ [seatOf 0 0 32], u.r = firstThread) ∧ (∀ u ∈ [seatOf 2 31 0], u.r.lane ≠ firstThread.lane))
    ∧ (∀ at' ∈ [NapAt.scratch .craren 0, .dram .craren 0], let t := { testThread with status := .napping at' 0 3 }
      (stateOf t).thread? firstThread = some t ∧ t.due = [] ∧ t.stepDue = false ∧ t.latches = []
      ∧ ((stateOf t).threads.map Prod.fst).Nodup)
    ∧ (((frozenState.frozenAt .craren 0 frozenKey).map fun x => (x.cv.launch, x.cv.system)) = [(0, false)] ∧ (frozenState.core .craren 0).dopMisses = [frozenKey]
      ∧ ((frozenState.modCore .craren 0 fun y => { y with dopMisses := [] }).fetchClause
          ⟨.craren, some 0, 0, some 0, false, false⟩ 0x60000).isOk = true)
    ∧ ({ testState with reports := [reportOne] } : State).reports.find? (fun y => y.die == .craren)
      = some reportOne
    ∧ (let t := { testThread with status := .napping (.other 5) 0 3 }
      (stateOf t).thread? firstThread = some t ∧ t.due = [] ∧ t.stepDue = false ∧ t.latches = [])
    ∧ (let w : Window := ⟨0, 4, 0, [(0, .clean)]⟩
      let c := { testCove with windows := [(0, w)] }
      let s := { testState with coves := [(firstCove, c)] }
      s.cove? firstCove = some c ∧ aget c.windows 0 = some w
      ∧ (w.parts.find? fun p => p.1 == 0) = some (0, .clean)
      ∧ (s.cleanParts none true firstCove c 0 w true [(0, .clean)]).2 = none)
    ∧ ((testState.modCore .craren 0 fun k => { k with tlb := [⟨0, 0, 65536, 0, 0⟩] }).core .craren
      0).tlb[0]?.isSome = true := by
  decide +kernel

/-- A queue with a record, or with more than it holds. -/
def ringQueue (write : BitVec 16) : Queue :=
  { Queue.reset with base := 0x30000, size := 1, write := write, enable := true }

def ringState (x : Queue) : State :=
  (richState (q 0) (q 0) [] []).modVi .craren 0 fun i => { i with
    created := true, queues := i.queues.set 0 x }

/-- A launch that is ready to place its one cove, and its bind record: slot 1, one slot, scratchpad from 32 KiB. -/
def readyEntry : Entry :=
  { newEntry 0 0 1 [0x60000, 0x100000001, 0, 0, 0, 0, 0, 0] 0 0 false with
    header := firstHeader
    unplaced := [0] }

def readyRecord : Quad := BitVec.ofNat 128 (2 ^ 80 + 1 * 2 ^ 51 + 2 ^ 45 + 8 * 2 ^ 9)

def readyState : State :=
  ((richState (q 0) (q 0) [] []).modDie .craren fun k => { k with
    entries := [(0, firstEntry), (1, readyEntry)] }).modCtx 0 fun c => { c with
      saveBase := 0x200000, saveSize := 0x200000 }

/-- A launch with nothing left to run. -/
def doneEntry : Entry := { readyEntry with state := .retiring, unplaced := [] }

/-- The Craren's description published. -/
def published (s : State) : State :=
  s.modDie .craren fun k => { k with description := some (s.describe .craren) }

theorem test_witness_FrontEndAndDispatch :
    ((testState.die .craren).description = none ∧ ((published testState).die .craren).description.isSome = true)
    ∧ (let s := published testState
      (s.queue .craren 0 0).deviceFed = false ∧ (s.queue .craren 0 0).enable = false)
    ∧ (let s := published (ringState (ringQueue 0))
      let new := { ringQueue 0 with write := 3 }
      (s.queue .craren 0 0) = ringQueue 0 ∧ (s.setQueue .craren 0 0 new).queue .craren 0 0 = new
      ∧ 2 ^ (ringQueue 0).size < new.held ∧ ({ ringQueue 0 with write := 2 } : Queue).held ≤ 2 ^ (ringQueue 0).size)
    ∧ (let s := published (ringState (ringQueue 1))
      0 < (s.queue .craren 0 0).held ∧ (s.queue .craren 0 0).deviceFed = false
      ∧ s.liveOn .craren 0 = true ∧ s.outranked .craren 0 (s.queue .craren 0 0) = false
      ∧ s.freeEntry .craren = some 1
      ∧ (match s.agentRead (frontAgent .craren 0) .read 0x30000 64 with
        | .ok (s1, bs, _, none) => (((s1.takeNumber .craren 0).2.setQueue .craren 0 0
            { ringQueue 1 with read := 1 }).takeIn .craren 1
            (newEntry 0 0 (s1.takeNumber .craren 0).1 (wordsOf 8 bs) 0 0 false)).isOk
        | _ => false) = true)
    ∧ (let s := readyState
      let s0 := s.modCore .craren 0 fun k => { k with slots := aput k.slots 1 readyRecord }
      (s.place .craren 0 1 readyRecord).isOk = true ∧ (s.place .craren 0 1 0).isOk = true
      ∧ bindValid readyRecord = true ∧ s.cove? ⟨.craren, 0, 1⟩ = none ∧ s.entry? .craren (bindOf readyRecord).1 = some readyEntry
      ∧ recBay readyEntry.record = 0 ∧ s0.bindFits .craren 0 readyRecord = true
      ∧ s0.freeBlocks 0 (recCrews readyEntry.record - 1) = some []
      ∧ (s0.launchKeys .craren readyEntry).isOk = true)
    ∧ (let s := (richState (q 0) (q 0) [] []).modDie .craren fun k => { k with entries := [(1, doneEntry)] }
      (s.finishCoves .craren).entry? .craren 1 = some doneEntry
      ∧ (s.finishCoves .craren).canRetire .craren 1 doneEntry = true
      ∧ ((s.finishCoves .craren).retire .craren 1 doneEntry).isOk = true) := by
  decide +kernel

/-- The rich machine between clauses, its thread at a boundary, its context with a save area. -/
def restState : State :=
  ({ richState (q 0) (q 0) [] [] with issue := none }).modCtx 0 fun c => { c with
    saveBase := 0x200000, saveSize := 0x200000 }

/-- Its context changed. -/
def ctxState (f : Context → Context) : State := (richState (q 0) (q 0) [] []).modCtx 0 f

def paired (s : State) : State := { s with link := { s.link with mode := .paired } }

/-- The tables of context 0 on the Craren with the third level given, whose first entries are at 0x20000. -/
def tableState (third : List (Nat × Nat)) : State :=
  (richState (q 0) (q 0) [] []).modDie .craren fun k => { k with
    dram := putWords [] ([(0, 2 ^ 62 + 2 ^ 16), (65536, 2 ^ 62 + 2 * 2 ^ 16)] ++ third) }

/-- The machine of which the leaf of the second level is given, and the directory. -/
def leafState (leaf : Nat) (dir : List (Nat × DirState)) : State :=
  (paired (richState (q 0) (q 0) [] [])).modDie .craren fun k => { k with
    dram := putWords [] [(0, 2 ^ 62 + 2 ^ 16), (65536, leaf)], directory := dir }

/-- The reader of context 0 on the Craren's first core. -/
def testAgent : Agent := ⟨.craren, some 0, 0, some 0, false, false⟩

/-- The rich machine with the Dukor's tables for context 0. -/
def peerState : State :=
  ((leafState (2 ^ 63 + 0xDE) [(0, .peer)]).modCtx 0 fun c => { c with rootDukor := some 0 }).modDie .dukor
    fun k => { k with dram := mapDram }

/-- No table; a leaf of the second level, and neither; a span with a leaf and with a bad one, and of a granule,
and of none; the leaf that an access finds, one that does not permit it, and each directory state. -/
theorem test_witness_AddressTranslation :
    (((State.reset.ctx? 0).bind (Context.root · .craren)) = none
      ∧ ((tableState []).ctx? 0).bind (Context.root · .craren) = some 0 ∧ (tableState []).upsets = []
      ∧ ((tableState []).die .craren).poisoned = [] ∧ 0 + 8 ≤ Config.dramBytes .craren)
    ∧ (((leafState (2 ^ 63 + 0xDE) []).walk .craren 0 .read 5).toOption.map (·.size)) = some (2 ^ 29)
    ∧ ((leafState 0 []).walk .craren 0 .read 5).isOk = false
    ∧ (((tableState [(0x20000, 2 ^ 63 + 2 ^ 48 + 0xDE)]).walk .craren 0 .read 0x10005).toOption.map (·.size))
      = some (2 ^ 21)
    ∧ ((tableState [(0x20000, 2 ^ 63 + 2 ^ 48 + 2 ^ 16 + 0xDE)]).walk .craren 0 .read 0x10005).isOk = false
    ∧ (((tableState [(0x20008, 2 ^ 63 + 0xDE)]).walk .craren 0 .read 0x10005).toOption.map (·.size)) = some 65536
    ∧ ((tableState []).walk .craren 0 .read 0x10005).isOk = false
    ∧ (∀ dir ∈ [DirState.home, .absent, .transfer],
      let s := leafState (2 ^ 63 + 0xDE) [(0, dir)]
      (match s.leafOf testAgent .read 5 with
        | .ok x => x.leaf.getLsbD 1 && !x.leaf.getLsbD 5 && !s.carved .craren x.pa 4
          && s.dirOf .craren x.pa == dir
        | .error _ => false) = true ∧ s.inWindow 0 5 4 = false)
    ∧ (match (leafState (2 ^ 63 + 0xD0) []).leafOf testAgent .read 5 with
      | .ok x => x.leaf.getLsbD 1
      | .error _ => true) = false
    ∧ (match peerState.leafOf testAgent .read 5 with
      | .ok x => x.leaf.getLsbD 1 && !peerState.carved .craren x.pa 4 && peerState.dirOf .craren x.pa == .peer
      | .error _ => false) = true
    ∧ (match peerState.locateOn ⟨.dukor, none, 0, some 0, false, false⟩ .read 5 4 with
      | .ok p => peerState.dirOf .dukor p.pa == .home
      | .error _ => false) = true := by
  decide +kernel

def testMirror : Mirror := ⟨false, 0x100000, 0x100000, 4⟩

/-- Context 0 of a state. -/
def firstCtx (s : State) : Option Context := s.ctx? 0

theorem no_policy (p : Nat) : ([0, 0, 0, 0] : List (BitVec 16)).getD p 0 = 0 := by
  rcases p with _ | _ | _ | _ | p <;> rfl

/-- A unit left to stop, in a context whose units all finish. -/
def leftToStop (s : State) : Bool :=
  (s.covesIn 0).any (fun e => !e.2.complete && e.2.recorded.isNone)
    && (s.vi .craren 0).granularity == [0, 0, 0, 0]

/-- A machine stopping: two coves, the second with no thread; and one whose cove is recorded. -/
def stoppingState : State :=
  ({ restState with coves := [(firstCove, testCove), (⟨.craren, 1, 0⟩, testCove)] } : State).beginStop 0 true false

def recordedState : State :=
  ({ restState with coves := [(firstCove, { testCove with recorded := some [] })] } : State).modCtx 0 fun c =>
    { c with status := .stopping, evict := true }

/-- A context in the first stage of a teardown, and a Dukor that undocks. -/
def tornState (s : State) : State := s.modDie .craren fun k => { k with scrub := some ⟨0, 0, 0, [], [], 0⟩ }

def draining (s : State) : State := { paired s with link := { (paired s).link with draining := true } }

/-- Pre-emption of a live, a stopping, a lost and a torn-down context, and of one whose coves are recorded. -/
theorem test_witness_Preemption :
    ((firstCtx restState).map (·.status) = some .live ∧ leftToStop restState = true
      ∧ restState.scrubbing .craren 0 = false)
    ∧ ((firstCtx stoppingState).map (·.status) = some .stopping ∧ leftToStop stoppingState = true
      ∧ stoppingState.scrubbing .craren 0 = false)
    ∧ ((firstCtx (restState.modCtx 0 fun c => { c with status := .lost })).map (·.status) = some .lost)
    ∧ ((firstCtx (tornState restState)).map (·.status) = some .live ∧ (tornState restState).scrubbing .craren 0 = true)
    ∧ (let s := recordedState
      (firstCtx s).map (fun x => (x.status, x.evict, x.ckpt, x.asked)) = some (.stopping, true, none, false)
      ∧ (s.covesIn 0).all (fun e => !e.2.complete && e.2.recorded.isSome) = true ∧ s.link.transfers = []
      ∧ s.scrubbing .craren 0 = false ∧ ((firstCtx s).map fun x => (s.writeImage 0 x 0).isOk) = some true) := by
  decide +kernel

/-- The acknowledgement of a complete cove and of one with nothing outstanding. -/
theorem test_witness_PreemptAck :
    (let c := { testCove with complete := true };
      let s : State := { restState with coves := [(firstCove, c)] }
      s.cove? firstCove = some c ∧ c.complete = true ∧ (firstCtx s).map (·.status) = some .live)
    ∧ (let s := stoppingState
      s.cove? firstCove = some testCove ∧ testCove.ctx = 0
      ∧ (firstCtx s).map (fun x => (x.status, x.askers)) = some (.stopping, [])
      ∧ testCove.complete = false ∧ testCove.recorded = none ∧ testCove.stopping = false ∧ testCove.windows = []
      ∧ s.covePending firstCove testCove ≠ 0 ∧ (∀ e ∈ s.crews, e.2.isSerial = false)
      ∧ (∀ e ∈ s.threads, s.inIssue e.1 = false ∧ e.2.held = false ∧ e.2.entry = none ∧ e.2.exiting = false
        ∧ e.2.status = .ready)
      ∧ s.link.reqs = [] ∧ s.reports = [] ∧ s.link.transfers = [] ∧ s.upsets = []
      ∧ (let k := s.core .craren 0
        k.copies = [] ∧ k.array = [] ∧ k.searches = [] ∧ k.samples = [] ∧ k.images = [] ∧ k.rays = []
        ∧ k.badSectors = [])
      ∧ (s.covesIn 0).any (fun e => e.1 != firstCove && !e.2.complete && e.2.recorded.isNone) = true) := by
  decide +kernel

/-- A checkpoint of a context without a mirror, and with one, live and stopping. -/
theorem test_witness_Checkpoint :
    (firstCtx restState).map (·.mirror) = some none
    ∧ (let s := restState.modCtx 0 fun c => { c with mirror := some testMirror }
      (firstCtx s).map (fun x => (x.mirror, x.stream, x.status)) = some (some testMirror, none, .live)
      ∧ leftToStop s = true ∧ s.scrubbing .craren 0 = false)
    ∧ (let s := stoppingState.modCtx 0 fun c => { c with mirror := some testMirror }
      (firstCtx s).map (fun x => (x.stream, x.status)) = some (none, .stopping) ∧ leftToStop s = true
      ∧ s.scrubbing .craren 0 = false) := by
  decide +kernel

/-- Whether the image in the save area of context 0 can be restored on a die, and where. -/
def accepted (s : State) (d : DieId) : Option Nat :=
  (firstCtx s).bind fun x => (s.readImage' 0 x).bind fun im => (s.interfaceFor d x).bind fun vi =>
    (imageParts im.1).bind fun rs => (s.entriesFrom d 0 vi x im.1).bind fun es =>
      if imgRoot im.1 d && (x.root d).isSome && decide (es.length ≤ (s.freeEntries d).length)
        && rs.all fun r => sectionOk r.bytes
          (((es.find? fun e => e.number == secLaunch r.bytes).map fun e => kernelRegs e.header).getD 0) then some vi
      else none

/-- A context without coves that is pre-empted on a die, with roots on both dies and in its save area the image
that R364 gives it: 68 units, both roots valid. Each die has a created interface 1. -/
def preemptedOn (d : DieId) : State :=
  let area (k : Die) : Die := { k with
    dram := putWords mapDram [(0x201040, 2 ^ 48 + 68), (0x201058, 2 ^ 63), (0x201060, 2 ^ 63)]
    entries := []
    vis := [(1, { Interface.reset with created := true })] }
  let s := paired (((ctxState fun c => { c with
    die := d, rootDukor := some 0, saveBase := 0x200000, saveSize := 0x200000, status := .preempted }).modDie
      .craren area).modDie .dukor area)
  { s with issue := none, coves := [], threads := [], crews := [] }

theorem test_witness_RestoredImage :
    (∀ d ∈ [DieId.craren, .dukor],
      (firstCtx (preemptedOn d)).map (fun x => (x.status, x.keySlot, x.die)) = some (.preempted, none, d)
      ∧ (preemptedOn d).link.mode = .paired ∧ (preemptedOn d).link.draining = false)
    ∧ accepted (preemptedOn .craren) .craren = some 0 := by
  decide +kernel

/-- The image of a context migrated either way. -/
theorem test_witness_MigratedImage :
    accepted (preemptedOn .dukor) .craren = some 1
    ∧ (let s := preemptedOn .craren
      (((firstCtx s).bind (s.readImage' 0)).bind fun im =>
        (s.leaveCraren 0 im).restoreImage 0 .dukor im.1 []).isSome = true) := by
  decide +kernel

/-- What a restore does not take; and the migrations of each context. -/
theorem test_witness_ContextImages :
    (let s := restState.modCtx 0 fun c => { c with status := .preempted };
      ((firstCtx s).bind (s.readImage' 0)).isSome = true
      ∧ (((firstCtx s).bind (s.readImage' 0)).bind fun im => imageParts im.1) = none)
    ∧ ((firstCtx (restState.modCtx 0 fun c => { c with keySlot := some 0 })).bind (·.keySlot) = some 0)
    ∧ restState.link.mode ≠ .paired
    ∧ ((draining restState).link.mode = .paired ∧ (draining restState).link.draining = true
      ∧ (firstCtx (draining restState)).map (fun x => (x.keySlot, otherDie x.die)) = some (none, .dukor))
    ∧ ((paired restState).link.mode = .paired ∧ (paired restState).link.draining = false
      ∧ leftToStop (paired restState) = true ∧ (paired restState).scrubbing .craren 0 = false
      ∧ (firstCtx (paired restState)).map (fun x => (x.keySlot, x.status)) = some (none, .live)) := by
  decide +kernel

def streamOf (granules : List Nat) (image : Option (List Byte × List Bool)) (done : Bool) : CkptStream :=
  ⟨1, granules, [], image, 0, done, done⟩

/-- A context with a mirror and a stream. -/
def withStream (m : Mirror) (t : CkptStream) : State :=
  paired (ctxState fun c => { c with mirror := some m, stream := some t })

/-- The steps of a stream: a granule with an entry of the table, and with none; an image that has room, and one
that has none; the record; its fence at the host, and not yet; and its last word, which a commit follows. -/
theorem test_witness_CheckpointStream :
    (∀ m ∈ [testMirror, { testMirror with entries := 0 }], ∀ t ∈ [streamOf [0] none false,
        streamOf [] (some ([0], [])) false, streamOf [] none false, streamOf [] none true],
      (firstCtx (withStream m t)).map (fun x => (x.mirror, x.stream)) = some (some m, some t)
      ∧ m.host = false ∧ (withStream m t).link.mode = .paired)
    ∧ ((withStream testMirror (streamOf [0] none false)).mirrorEntry testMirror 0 = some 0
      ∧ (withStream { testMirror with entries := 0 } (streamOf [0] none false)).mirrorEntry
          { testMirror with entries := 0 } 0 = none)
    ∧ (testMirror.imageRoom < 2 ^ 20 ∧ 0 < testMirror.imageRoom)
    ∧ (∀ fenced ∈ [false, true], let t := { streamOf [] none true with fenced := fenced }
      let m := { testMirror with host := true }
      let s := { withStream m t with link := { Link.reset with mode := .laptop } }
      (firstCtx s).map (fun x => (x.mirror, x.stream)) = some (some m, some t) ∧ m.host = true
      ∧ s.link.mode = .laptop ∧ t.recordDone = true ∧ t.fenced = fenced)
    ∧ (let s := (withStream testMirror (streamOf [] none true)).modDie .craren fun k => { k with
        dram := putWords k.dram [(0x100040, 2 ^ 48 + 1), (0x100078, 2 ^ 32)] }
      let slot := 0x100000 + 64 * (1 % 2)
      leNat (s.mirBytes testMirror slot 8) / 2 ^ 48 = 1 ∧ leNat (s.mirBytes testMirror slot 8) % 2 ^ 32 = 1
      ∧ leNat (s.mirBytes testMirror (slot + 56) 8) / 2 ^ 32 = 1) := by
  decide +kernel

theorem sense_of_bad {s : State} {d : DieId} {pa n k : Nat} (hu : s.upsets = []) (hk : k ∈ sectorsOf pa n)
    (hb : (s.die d).poisoned.contains k = true) : ∃ a, (s.sense d pa n).2 = some a := by
  have hs : ∀ l : List Nat, l.foldl (fun s k => s.senseSector d k) s = s := fun l => by
    induction l with
    | nil => rfl
    | cons x l ih => rw [List.foldl_cons, show s.senseSector d x = s by simp [State.senseSector, hu], ih]
  have hf : ((sectorsOf pa n).find? fun k => (s.die d).poisoned.contains k).isSome :=
    List.find?_isSome.2 ⟨k, hk, hb⟩
  obtain ⟨a, ha⟩ := Option.isSome_iff_exists.1 hf
  exact ⟨max pa (48 * a), by simp only [State.sense, hs, ha, Option.map_some]⟩

/-- What a granule's version answers: its bytes, that it waits, or that they cannot be corrected. -/
def versionKind (s : State) : Nat :=
  match (s.versionOf 0 0 1).2 with
  | .ok _ => 0
  | .error .hold => 1
  | .error (.trap .uncorrectable _) => 2
  | .error _ => 3

/-- A granule at its home on the Craren whose sector 3 cannot be corrected. -/
theorem versionKind_of_bad {s : State} (hp : s.dukor.imageAt 0 0 1 = none) (hu : s.upsets = [])
    (hb : (s.die .craren).poisoned.contains 3 = true)
    (hl : ((s.placeOn (s.runDie 0) 0 0).toOption.map fun l => (l.home, granuleOf l.pa)) = some (.craren, 0)) :
    versionKind s = 2 := by
  cases hx : s.placeOn (s.runDie 0) 0 0 with
  | error e => simp [hx, Except.toOption] at hl
  | ok l =>
    simp only [hx, Except.toOption, Option.map_some, Option.some.injEq, Prod.mk.injEq] at hl
    obtain ⟨a, ha⟩ := sense_of_bad (n := granuleSize) (pa := 0) (k := 3) hu (by simp [sectorsOf, granuleSize]) hb
    unfold versionKind State.versionOf
    simp only [hp, hx, hl.1, hl.2, Nat.zero_mul]
    rcases hy : s.sense .craren 0 granuleSize with ⟨s1, o⟩
    rw [hy] at ha
    simp only at ha
    subst ha
    rfl

theorem test_witness_StreamedVersion :
    let s := withStream testMirror (streamOf [0] none false)
    versionKind (s.modDie .dukor fun k => { k with pool := [⟨0, 0, 1, none, false, [], []⟩] }) = 0
    ∧ versionKind (s.modDie .craren fun k => { k with directory := [(0, .transfer)] }) = 1
    ∧ versionKind (s.modDie .craren fun k => { k with poisoned := [3] }) = 2 :=
  ⟨by decide +kernel, by decide +kernel, versionKind_of_bad (by decide +kernel) (by decide +kernel)
    (by decide +kernel) (by decide +kernel)⟩

/-- A launch in entry 1 with the failures given, its cove and thread gone. -/
def replayState (state : EntryState) (failures : List ErrorAt) : State :=
  { (richState (q 0) (q 0) [] []).modDie .craren fun k => { k with
      entries := [(1, { readyEntry with state := state, failures := failures })] } with
    issue := none, coves := [], threads := [] }

/-- A launch that is not replaying; one that is, with four failures at places of their own, and with none. -/
theorem test_witness_ReplayRestore :
    (∀ p ∈ [(EntryState.running, []), (.replaying, (List.range 4).map (ErrorAt.core .craren)), (.replaying, [])],
      ((replayState p.1 p.2).entry? .craren 1).map (fun y => (y.ctx, y.state, y.failures)) = some (0, p.1, p.2)
      ∧ (replayState p.1 p.2).launchIdle .craren 1 = true
      ∧ p.2.tail.contains (p.2.headD (.core .craren 0)) = false
      ∧ ((replayState p.1 p.2).die .craren).entries.map Prod.fst = [1]
      ∧ (replayState p.1 p.2).craren.pool ++ (replayState p.1 p.2).dukor.pool = []
      ∧ (replayState p.1 p.2).coves = []) := by
  decide +kernel

/-- A request of the thread on the link. -/
def reqOf (space : Nat) (die : DieId) (wait : Bool) (kind : ReqKind) (phase : ReqPhase) : Req :=
  ⟨7, die, space, ⟨die, 0, 0, 0⟩, 0, 0, 0, 0, 0, 8, 0, 0x40000, 4, 0, false, wait, kind, phase, 0, false⟩

def reqState (r : Req) : State :=
  let s := paired (richState (q 0) (q 0) [] [])
  { s with link := { s.link with reqs := [r], nextId := 8 } }

/-- Both dies with a table of the context, and the granule at 0x40000 at home on the other die. -/
def sharedState : State :=
  paired (((ctxState fun c => { c with rootDukor := some 0 }).modDie .dukor fun k => { k with
    dram := mapDram }).modDie .craren fun k => { k with directory := [(4, .peer)] })

def transferOne (step : Nat) : Transfer := ⟨.craren, 0, 0x40000, step, 0x40000, 0x40000⟩

def transferState (step : Nat) : State :=
  { sharedState with link := { sharedState.link with transfers := [transferOne step] } }

theorem test_witness_LinkTraffic :
    (∀ kind ∈ [ReqKind.load (some (0, .w32)) .b32, .store [1, 2, 3, 4] false],
      let r := reqOf 6 .dukor false kind .queued
      let s := reqState r
      s.req 7 = some r ∧ s.link.mode = .paired ∧ s.blocked r = false
      ∧ (s.link.inbound (otherDie r.die)).contains r = true
      ∧ (match s.serve r with | some (.ok _) => true | _ => false) = true)
    ∧ (∀ wait ∈ [false, true], ∀ space ∈ [0, 6], let r := reqOf space .craren wait (.store [1] false) .performed
      (reqState r).req 7 = some r ∧ r.posted = true ∧ r.wait = wait)
    ∧ (let r := reqOf 6 .craren false (.load (some (0, .w32)) .b32) .performed
      (reqState r).req 7 = some r ∧ r.posted = false)
    ∧ (let r := reqOf 5 .craren false (.load (some (0, .w32)) .b32) .queued
      (reqState r).req 7 = some r ∧ r.posted = false)
    ∧ (∀ die ∈ [DieId.craren, .dukor], let r := reqOf 5 die false (.store [1] false) .queued
      (reqState r).req 7 = some r ∧ r.posted = true ∧ (reqState r).blocked r = false)
    ∧ (sharedState.link.mode = .paired ∧ sharedState.transferOf .craren 0 0x40000 = none
      ∧ (match sharedState.placeOn .craren 0 0x40000 with
        | .ok l => l.y.isSome
        | .error _ => false) = true)
    ∧ (∀ step ∈ [0, 1], (transferState step).transferOf .craren 0 0x40000 = some (transferOne step)
      ∧ ((transferState step).walk .craren 0 .write 0x40000).isOk = true
      ∧ ((transferState step).walk .dukor 0 .write 0x40000).isOk = true)
    ∧ (0 % 192 = 0 ∧ 0 + 192 * 1 ≤ Config.dramBytes .craren)
    ∧ (unpackLines 1 [0x40, 0, 0, 0x80, 0x3F, 0, 0, 0]).isSome = true
    ∧ unpackLines 1 [0xFF, 0, 0, 0] = none := by
  decide +kernel

theorem test_witness_LinePacking :
    (List.replicate 192 (0 : Byte)).length = 192 ∧ (List.replicate 12 false).length = 12 := by
  decide +kernel

def linkState (mode : LinkMode) (draining : Bool) : State :=
  { State.reset with link := { Link.reset with mode := mode, draining := draining } }

/-- A context that runs on the Dukor, paired. -/
def dockedState : State :=
  let s := paired (restState.modCtx 0 fun c => { c with die := .dukor, rootDukor := some 0 })
  { s with coves := [(⟨.dukor, 0, 0⟩, testCove)], threads := [] }

/-- A context of a state, suspended and with nothing left to stop. -/
def suspendedWith (s : State) (f : Context → Context) : State :=
  { s with issue := none, coves := [] }.modCtx 0 fun c => f { c with die := .dukor, status := .suspended }

def hostMirror : Mirror := { testMirror with host := true }

/-- A suspended context with nothing recorded and a mirror that holds no commit. -/
def lostState (m : Option Mirror) : State := suspendedWith (ctxState fun c => { c with mirror := m }) id

def noCopyLost (s : State) : Bool :=
  !(s.craren.cores ++ s.dukor.cores).any fun k => k.2.copies.any s.copyLost

/-- Each mode of the link and each power state; an undock with a context on the Dukor and without. -/
theorem test_witness_LinkUpAndUndock :
    (State.reset.link.mode = .down ∧ State.reset.dukor.power = .d0 ∧ State.reset.craren.power = .d0
      ∧ (linkState .laptop false).link.mode ≠ .down
      ∧ (State.reset.modDie .dukor fun x => { x with power := .d3 }).dukor.power ≠ .d0
      ∧ (State.reset.modDie .craren fun x => { x with power := .d3 }).craren.power ≠ .d0)
    ∧ ((linkState .laptop false).link.mode = .laptop ∧ (linkState .laptop false).link.draining = false
      ∧ (linkState .paired false).link.mode ≠ .down ∧ (linkState .paired false).contexts = []
      ∧ ((linkState .laptop false).head .craren 2).enabled = false)
    ∧ (dockedState.link.mode = .paired ∧ dockedState.link.draining = false
      ∧ dockedState.contexts.map Prod.fst = [0]
      ∧ (firstCtx dockedState).map (fun x => (x.die, x.keySlot, x.status)) = some (.dukor, none, .live)
      ∧ dockedState.craren.heads ++ dockedState.dukor.heads = []
      ∧ (dockedState.vi .dukor 0).granularity = [0, 0, 0, 0] ∧ dockedState.scrubbing .dukor 0 = false
      ∧ (dockedState.covesIn 0).any (fun e => !e.2.complete && e.2.recorded.isNone) = true) := by
  decide +kernel

/-- A drain that is over and one that is not; a removal with a context docked and a transfer in flight. -/
theorem test_witness_DrainAndRemoval :
    (let s := linkState .paired true;
      s.link.draining = true ∧ s.contexts = [] ∧ s.link.reqs = [] ∧ s.link.transfers = []
      ∧ noCopyLost s = true ∧ (s.head .craren 2).enabled = false ∧ s.craren.heads ++ s.dukor.heads = []
      ∧ ((s.craren.cores ++ s.dukor.cores).all fun k => !k.2.crosses s.link.drainFrom) = true)
    ∧ (let s := { linkState .paired true with
        link := { (linkState .paired true).link with transfers := [transferOne 0] } }
      s.link.draining = true ∧ s.contexts = [] ∧ s.link.transfers ≠ [])
    ∧ (let s := { dockedState with link := { dockedState.link with transfers := [transferOne 0] } }.modDie .craren
        fun k => { k with directory := [(4, .transfer), (5, .peer)] }
      s.link.mode ≠ .down ∧ s.link.reqs = [] ∧ noCopyLost s = true ∧ (s.head .craren 2).enabled = false
      ∧ s.dirOf .craren 0x40000 = .transfer ∧ s.dirOf .craren 0x50000 = .peer ∧ s.dirOf .craren 0 = .home
      ∧ granuleOf (transferOne 0).newPa = granuleOf 0x40000
      ∧ (firstCtx s).map (fun x => (x.keySlot, x.die)) = some (none, .dukor)) := by
  decide +kernel

/-- Recoveries of a context without an image, of one whose host is away, and of one with an image; and a mirror
with a commit. -/
theorem test_witness_Recovery :
    (∀ m ∈ [none, some hostMirror],
      (firstCtx (lostState m)).map (fun x => (x.status, x.left.isNone, x.onHost)) = some (.suspended, true, m.isSome)
      ∧ (lostState m).suspensionAcked 0 = true ∧ (lostState m).link.mode ≠ .laptop
      ∧ (m.bind (lostState m).committed) = none)
    ∧ (let image := [2 ^ 48 + 68, 0, 0, 2 ^ 63, 2 ^ 63].flatMap (leBytes 8) ++ List.replicate 4312 0
      let s := suspendedWith (preemptedOn .craren) fun c => { c with left := some (image, []) };
      ((firstCtx s).bind fun x => (s.recoveryImage x).bind fun im => x.recoveryRoot.bind fun r =>
        ((s.beginRecovery r.1 0).restoreGranules r.1 0 im.2 x).restoreImage 0 r.1 im.1 []).isSome = true
      ∧ s.suspensionAcked 0 = true)
    ∧ (let s := (linkState .paired false).modDie .craren fun k => { k with
        dram := putWords [] [(0x100040, 2 ^ 48 + 1), (0x100078, 2 ^ 32)] }
      s.committed testMirror = some (1, 1) ∧ State.reset.committed testMirror = none) := by
  decide +kernel

/-- A head of 16 by 16 pixels and 48 lines, enabled with two guard lines. -/
def headOne : Head :=
  { Head.reset with ctl := 0x201, geo := 0x0030001000100000, nextLaunch := (9, 0), nextGuard := (9, 0) }

def headState (n : Nat) (h : Head) : State := State.reset.modHead .craren n fun _ => h

/-- A line that a relay head receives. -/
def relayed : RelayLine := ⟨16, 0, 0, 0, [], []⟩

/-- Lines of a head and its wrap; a launch and a guard line that are due. -/
theorem test_witness_ScanOut :
    (∀ line ∈ [0, 46, 47], let h := { headOne with line := line }
      (headState 1 h).head .craren 1 = h ∧ h.enabled = true ∧ h.launchDue = false ∧ h.guardDue = false
      ∧ h.stopping = false ∧ (h.line + 1 < h.total ↔ line ≠ 47) ∧ h.newGeo = none
      ∧ h.newAddrs = List.replicate 7 none)
    ∧ (let h := { headOne with nextLaunch := (0, 0), nextGuard := (0, 0) }
      ((headState 1 h).head .craren 1).launchDue = true ∧ ((headState 1 h).bandLaunch .craren 1).isOk = true
      ∧ ((headState 1 h).head .craren 1).guardDue = true) := by
  decide +kernel

def rootSpec (slot : Option Nat) : CtxSpec := ⟨0, 0x10000, 0x20000, 0x10000, 0, slot, false, 0, 0, 0⟩

def createdState : State := State.reset.modVi .craren 0 fun i => { i with created := true }

/-- A Craren's head 2 that has a band to send to a relay head with the lines given. -/
def relayState (lines : List RelayLine) : State :=
  paired ((headState 2 { headOne with sends := [(0, 0, 0)] }).modHead .dukor 1 fun h => { h with
    ctl := 5, inbound := lines })

theorem test_witness_Relay :
    ((relayState []).link.mode = .paired ∧ ((relayState []).head .craren 2).enabled = true
      ∧ ((relayState []).head .craren 2).sends = [(0, 0, 0)] ∧ (relayState []).relayHead = some 1
      ∧ ((relayState []).head .dukor 1).inbound.length + 16 ≤ 64)
    ∧ ((relayState [relayed]).head .dukor 1).inbound = [relayed]
    ∧ ((relayState [relayed]).head .dukor 1).enabled = true
    ∧ ((relayState [relayed]).head .dukor 1).relay = true := by
  decide +kernel

/-- HCTL cleared, set and refused in a head that is enabled and in one that is not, with the relay and without. -/
theorem test_witness_HctlWrites :
    1 ≤ Config.heads .craren ∧ 1 ≤ Config.heads .dukor
    ∧ (0x200 : DWord).getLsbD 0 = false ∧ (0x201 : DWord).getLsbD 0 = true ∧ (0x205 : DWord).getLsbD 0 = true
    ∧ (headState 1 headOne).link.draining = false
    ∧ ∀ ctl ∈ [0x200, 0x201], let h := { headOne with ctl := BitVec.ofNat 64 ctl }
      h.enabled = (ctl == 0x201) ∧ (paired State.reset).enableOk .craren 1 { h with geo := 0 } 0x201 = false
      ∧ (paired State.reset).enableOk .craren 1 h 0x201 = true
      ∧ (paired State.reset).enableOk .craren 1 h 0x200 = true
      ∧ (paired State.reset).enableOk .craren 1 h 0x205 = false
      ∧ (paired State.reset).enableOk .dukor 1 h 0x205 = true := by
  decide +kernel

/-- The conditions of the events of interfaces, contexts and device registers. -/
theorem test_witness_DeviceEvents :
    (0 < Config.interfaces .craren ∧ (State.reset.die .craren).power = .d0)
    ∧ (∀ slot ∈ [none, some 0], let spec := rootSpec slot
      createdState.ctx? 4095 = none ∧ 4095 < 4096 ∧ (createdState.die .craren).power = .d0
      ∧ spec.root % 65536 = 0 ∧ spec.root + 65536 ≤ Config.dramBytes .craren ∧ saveFits spec = true
      ∧ (createdState.vi .craren spec.vi).created = true ∧ spec.protectedSlot = slot
      ∧ createdState.unblocked .craren spec = true)
    ∧ (0 < Config.keySlots .craren ∧ ((createdState.die .craren).keySlot 0).state = .free)
    ∧ (1 ≤ Config.heads .craren ∧ (createdState.vi .craren 0).created = true)
    ∧ ((State.reset.die .craren).description = none ∧ (State.reset.die .craren).pool = []
      ∧ ((1 : Quad).extractLsb' 0 32).toNat * 65536 ≤ Config.mappable .craren)
    ∧ ((State.reset.die .craren).flash = none
      ∧ ((State.reset.modDie .craren fun x => { x with flash := some ([], [], 0) }).die .craren).flash
        = some ([], [], 0))
    ∧ (0 + [(1 : Byte)].length ≤ Config.dramBytes .craren
      ∧ (∀ p ∈ granuleParts 0 1, State.reset.dirOf .craren p.1 ≠ .transfer)
      ∧ (State.reset.die .craren).cipher = []) := by
  decide +kernel

/-- Interface reset, life cycle and boot, snapshots and power states. -/
theorem test_witness_DieEvents :
    ((State.reset.die .craren).scrub = none ∧ State.reset.slotsOf .craren 0 = [])
    ∧ (lifeOrder (State.reset.die .craren).lifeCycle < lifeOrder .retired
      ∧ lifeOrder .production ≤ lifeOrder (State.reset.die .craren).lifeCycle)
    ∧ bootFailure .craren .production [] [] 0 ≠ 0
    ∧ (Block.core 1 ∈ blocks .craren ∧ Block.core 1 ∉ (State.reset.die .craren).spent
      ∧ (Block.core 1, 5) ∉ (State.reset.die .craren).seen
      ∧ Block.core 1 ∈ ((State.reset.modDie .craren fun x => { x with spent := [.core 1] }).die .craren).spent)
    ∧ ((∀ h ∈ (State.reset.die .craren).heads, h.2.enabled = false) ∧ State.reset.contexts = []
      ∧ (State.reset.stopContexts .craren).isOk = true)
    ∧ ((∀ h ∈ (restState.die .craren).heads, h.2.enabled = false) ∧ (restState.die .craren).power = .d0
      ∧ (restState.stopContexts .craren).isOk = true)
    ∧ (((headState 1 headOne).die .craren).heads = [(1, headOne)] ∧ headOne.enabled = true
      ∧ ((headState 1 headOne).die .craren).power = .d0)
    ∧ (((State.reset.modDie .craren fun x => { x with power := .d3 }).die .craren).power = .d3
      ∧ ((State.reset.modDie .craren fun x => { x with power := .off }).die .craren).power = .off) := by
  decide +kernel

theorem test_witness_boot (d : DieId) (sig : List Byte)
    (h : Config.verifySignature d (lifeOrder .production) (sha3 [1]) sig = true) :
    bootFailure d .production [1] sig (Config.minSecurityVersion d) = 0 := by
  unfold bootFailure
  rw [h, if_neg (by decide)]
  simp

theorem test_witness_DecodeEncode :
    (Instr.add al .i32 false (.g 1) (.lit 0x123) .none).isOp = true
    ∧ (Instr.add al .i32 false (.g 1) (.g 2) (.lit 0x123)).wfIn DecodeKey.widest [] = true
    ∧ (Instr.add al .i32 false (.g 1) (.dist 0) (.k 3)).wfIn DecodeKey.widest [.w32] = true := by
  decide +kernel

/-- Whether the clause in issue decodes and the instruction at its slot runs. -/
def runsNext (s : State) (i : Issue) : Bool :=
  match decodeClause i.key i.words with
  | .error _ => false
  | .ok ss =>
    match ss.find? fun k => k.index == i.slot with
    | none => false
    | some k =>
      match exec k.instr s with
      | .next _ => true
      | _ => false

/-- The clause of one add, ready to run; a clause of two members, one of two slots, and one at its end; and
an event that is due. -/
theorem test_witness_StepRunsDecoded :
    ((State.reset.withWord 0x003FFC0300801701).issue = some (firstIssue 0x003FFC0300801701)
      ∧ (firstIssue 0x003FFC0300801701).todo = [firstThread]
      ∧ runsNext (State.reset.withWord 0x003FFC0300801701) (firstIssue 0x003FFC0300801701) = true)
    ∧ (let i := { firstIssue 0 with
        members := [firstThread, ⟨.craren, 0, 0, 1⟩], todo := [firstThread, ⟨.craren, 0, 0, 1⟩] }
      i.members.contains firstThread = true ∧ i.todo.erase firstThread ≠ [])
    ∧ ((firstIssue 0).members.contains firstThread = true ∧ (firstIssue 0).todo.erase firstThread = [])
    ∧ ({ State.reset with agenda := [.linkUp .host] } : State).issue = none := by
  decide +kernel

theorem test_witness_EndOfClause :
    (let b : RegFile := ⟨testThread.regs, testThread.tags, 0⟩
      let t := { testThread with before := some b }
      t.before = some b ∧ t.regs.length = 768 ∧ b.regs.length = 768 ∧ 764 % Width.w128.regs = 0 ∧ t.poison = 0
      ∧ b.poison = 0 ∧ t.defer = [])
    ∧ (let t := { testThread with jump := some (16, 3), defer := [.reg 0 .w32 5 false] }
      t.status = .ready ∧ t.latches = [] ∧ t.stopper = none ∧ testThread.jump = none ∧ testThread.defer = []
      ∧ { testThread with defer := [.handle 3 7] }.defer = [.handle 3 7]) := by
  decide +kernel

theorem test_witness_MemoryCanonical :
    Memory.wf [(0, 1), (5, 2)] = true ∧ Memory.wf [] = true
    ∧ memRead [(0, 1), (5, 2)] 5 = 2 ∧ memRead [(0, 1), (5, 2)] 4 = 0 := by decide

theorem test_witness_MemoryStaysCanonical :
    (∀ d, Memory.wf (State.reset.die d).dram = true ∧ ∀ n, Memory.wf (State.reset.core d n).scratch = true)
    ∧ (match step (State.reset.withWord 0x003FFC0300801701) with | .next _ => true | _ => false) = true :=
  ⟨fun d => ⟨reset_dram_wf d, reset_scratch_wf d⟩, by decide +kernel⟩

theorem test_witness_NothingRefused :
    (Instr.add al .i32 false (.g 1) (.g 2) (.g 3)).isOp = true ∧ State.reset.cur = none := by decide +kernel

end Sys2Proof.Tests
end

/-! The integer instructions of R109 to R121 (family 06): the model's bit functions as operations on bit
vectors, what the instruction frames answer once their sources are read, and the statements settled. A twin
is by its definition the register form over the immediate as source B, which each proof uses. -/

namespace Sys2Proof.Machine

/-! The bit functions of R114 and R115 on numbers, as operations on bit vectors of any width. -/

theorem notBits_toNat {w : Nat} (x : BitVec w) : notBits w x.toNat = (~~~x).toNat := by
  rw [notBits, BitVec.toNat_not, Nat.mod_eq_of_lt x.isLt]

theorem shlBits_toNat {w : Nat} (x : BitVec w) (n : Nat) : shlBits w x.toNat n = (x <<< n).toNat := by
  rw [shlBits, BitVec.toNat_shiftLeft, Nat.shiftLeft_eq]
  split
  case isTrue h =>
    exact (Nat.mod_eq_zero_of_dvd (Nat.dvd_mul_left_of_dvd (Nat.pow_dvd_pow 2 h) _)).symm
  case isFalse => rfl

theorem shrBits_toNat {w : Nat} (x : BitVec w) (n : Nat) : shrBits w x.toNat n = (x >>> n).toNat := by
  rw [shrBits, BitVec.toNat_ushiftRight, Nat.shiftRight_eq_div_pow]
  split
  case isTrue h =>
    exact (Nat.div_eq_of_lt (Nat.lt_of_lt_of_le x.isLt (Nat.pow_le_pow_right Nat.two_pos h))).symm
  case isFalse => rfl

/-- A quotient by a power of two no longer depends on the exponent past the width. -/
theorem toNat_div_two_pow_min {w : Nat} (x : BitVec w) (n : Nat) :
    x.toNat / 2 ^ min n w = x.toNat / 2 ^ n := by
  rcases Nat.le_total n w with h | h
  · rw [Nat.min_eq_left h]
  · rw [Nat.min_eq_right h, Nat.div_eq_of_lt x.isLt,
      Nat.div_eq_of_lt (Nat.lt_of_lt_of_le x.isLt (Nat.pow_le_pow_right Nat.two_pos h))]

theorem toNat_not_div_two_pow {w k : Nat} (x : BitVec w) (hk : k ≤ w) :
    (~~~x).toNat / 2 ^ k = 2 ^ (w - k) - (x.toNat / 2 ^ k + 1) := by
  have hsplit : 2 ^ w = 2 ^ k * 2 ^ (w - k) := by rw [← Nat.pow_add, Nat.add_sub_of_le hk]
  have hlt : x.toNat < 2 ^ k * 2 ^ (w - k) := by rw [← hsplit]; exact x.isLt
  rw [BitVec.toNat_not, Nat.sub_sub, Nat.add_comm 1, hsplit, Nat.mul_sub_div _ _ _ hlt]

theorem sarBits_toNat {w : Nat} (x : BitVec w) (n : Nat) :
    sarBits w x.toNat n = (x.sshiftRight n).toNat := by
  have hk : min n w ≤ w := Nat.min_le_right n w
  by_cases hm : 2 ^ (w - 1) ≤ x.toNat
  · have hmsb : x.msb = true := by simpa [BitVec.msb_eq_decide] using hm
    have hlt : x.toNat / 2 ^ min n w < 2 ^ (w - min n w) :=
      Nat.div_lt_of_lt_mul (by rw [← Nat.pow_add, Nat.add_sub_of_le hk]; exact x.isLt)
    have hle : 2 ^ (w - min n w) ≤ 2 ^ w := Nat.pow_le_pow_right Nat.two_pos (Nat.sub_le w _)
    rw [BitVec.toNat_sshiftRight_of_msb_true hmsb, ← BitVec.toNat_not, Nat.shiftRight_eq_div_pow,
      ← toNat_div_two_pow_min, toNat_not_div_two_pow x hk]
    simp only [sarBits, hm, if_true]
    generalize x.toNat / 2 ^ min n w = q at hlt ⊢
    generalize 2 ^ (w - min n w) = p at hlt hle ⊢
    omega
  · have hmsb : x.msb = false := by simpa [BitVec.msb_eq_decide] using hm
    rw [BitVec.toNat_sshiftRight_of_msb_false hmsb]
    simp only [sarBits, hm, if_false, Nat.shiftRight_eq_div_pow, toNat_div_two_pow_min]

theorem rolBits_toNat {w : Nat} (x : BitVec w) (n : Nat) :
    rolBits w x.toNat n = (x.rotateLeft n).toNat := by
  rcases Nat.eq_zero_or_pos w with rfl | hw
  · rw [rolBits, Nat.pow_zero, Nat.mod_one, BitVec.toNat_of_zero_length rfl]
  have hk : n % w < w := Nat.mod_lt n hw
  generalize hkk : n % w = k at hk
  have hsplit : 2 ^ (w - k) * 2 ^ k = 2 ^ w := by rw [← Nat.pow_add]; congr 1; omega
  have hlow : x.toNat / 2 ^ (w - k) < 2 ^ k :=
    Nat.div_lt_of_lt_mul (by rw [hsplit]; exact x.isLt)
  have hhigh : x.toNat * 2 ^ k % 2 ^ w = 2 ^ k * (x.toNat % 2 ^ (w - k)) := by
    rw [← hsplit, Nat.mul_mod_mul_right, Nat.mul_comm]
  have hsum : 2 ^ k * (x.toNat % 2 ^ (w - k)) + x.toNat / 2 ^ (w - k) < 2 ^ w := by
    have hm : x.toNat % 2 ^ (w - k) < 2 ^ (w - k) := Nat.mod_lt _ (Nat.two_pow_pos _)
    calc 2 ^ k * (x.toNat % 2 ^ (w - k)) + x.toNat / 2 ^ (w - k)
        < 2 ^ k * (x.toNat % 2 ^ (w - k) + 1) := by rw [Nat.mul_succ]; omega
      _ ≤ 2 ^ k * 2 ^ (w - k) := Nat.mul_le_mul_left _ hm
      _ = 2 ^ w := by rw [Nat.mul_comm, hsplit]
  rw [BitVec.toNat_rotateLeft, Nat.shiftLeft_eq, Nat.shiftRight_eq_div_pow, rolBits, hkk, hhigh,
    ← Nat.two_pow_add_eq_or_of_lt hlow, ← Nat.mod_eq_of_lt hsum, ← hhigh, Nat.mod_add_mod]

/-- A bit vector is its lowest bit under the rest. -/
theorem exists_concat {w : Nat} (x : BitVec (w + 1)) : ∃ (y : BitVec w) (b : Bool), x = y.concat b :=
  ⟨(x >>> 1).setWidth w, x.getLsbD 0, by
    ext i hi
    rw [BitVec.getElem_concat]
    split
    case isTrue h => subst h; simp
    case isFalse h => simp [show 1 + (i - 1) = i by omega, show i - 1 < w by omega,
        ← BitVec.getLsbD_eq_getElem]⟩

theorem toNat_concat_mod_two {w : Nat} (x : BitVec w) (b : Bool) : (x.concat b).toNat % 2 = b.toNat := by
  have hb := b.toNat_lt
  rw [BitVec.toNat_concat]
  omega

theorem toNat_concat_div_two {w : Nat} (x : BitVec w) (b : Bool) : (x.concat b).toNat / 2 = x.toNat := by
  have hb := b.toNat_lt
  rw [BitVec.toNat_concat]
  omega

theorem reverse_concat {w : Nat} (x : BitVec w) (b : Bool) :
    (x.concat b).reverse = BitVec.cons b x.reverse := by
  ext i hi
  rw [BitVec.getElem_reverse, BitVec.getMsbD_concat, BitVec.getElem_cons]
  rcases Nat.eq_or_lt_of_le (Nat.le_of_lt_succ hi) with rfl | h
  · simp
  · rw [if_pos h, dif_neg (Nat.ne_of_lt h), BitVec.getElem_reverse]

theorem revBits_toNat {w : Nat} (x : BitVec w) : revBits w x.toNat = x.reverse.toNat := by
  induction w with
  | zero => simp [revBits, BitVec.toNat_of_zero_length]
  | succ w ih =>
    obtain ⟨y, b, rfl⟩ := exists_concat x
    rw [reverse_concat, BitVec.toNat_cons', ← ih, revBits, toNat_concat_mod_two, toNat_concat_div_two,
      Nat.shiftLeft_eq]

theorem onesOf_toNat {w : Nat} (x : BitVec w) : onesOf w x.toNat = x.cpop.toNat := by
  induction w with
  | zero => simp [onesOf, BitVec.toNat_of_zero_length]
  | succ w ih =>
    obtain ⟨y, b, rfl⟩ := exists_concat x
    rw [BitVec.toNat_cpop_concat, ← ih, onesOf, toNat_concat_mod_two, toNat_concat_div_two]

theorem toNat_clz_zero (w : Nat) : (0#w).clz.toNat = w := by
  rw [BitVec.clz_eq_iff_eq_zero.mpr rfl, BitVec.natCast_eq_ofNat, BitVec.toNat_ofNat,
    Nat.mod_eq_of_lt Nat.lt_two_pow_self]

theorem leadingZeros_toNat {w : Nat} (x : BitVec w) : leadingZeros w x.toNat = x.clz.toNat := by
  rw [leadingZeros]
  split
  case isTrue h =>
    have hx : x = 0#w := BitVec.eq_of_toNat_eq h
    rw [hx, toNat_clz_zero]
  case isFalse h =>
    have hx : x ≠ 0#w := fun h0 => h (by rw [h0]; rfl)
    have hw : 0 < w := Nat.pos_of_ne_zero fun h0 => by subst h0; exact h (BitVec.toNat_of_zero_length rfl x)
    have hlo := BitVec.two_pow_sub_clz_le_toNat_of_ne_zero hw hx
    have hhi := x.toNat_lt_two_pow_sub_clz
    have hlt : x.clz.toNat < w := by
      simpa [BitVec.lt_def] using BitVec.clz_lt_iff_ne_zero.mpr hx
    have hlog : x.toNat.log2 = w - 1 - x.clz.toNat :=
      (Nat.log2_eq_iff h).mpr ⟨hlo, by rwa [show w - 1 - x.clz.toNat + 1 = w - x.clz.toNat by omega]⟩
    omega

theorem trailingZeros_zero (w : Nat) : trailingZeros w 0 = w := by
  induction w with
  | zero => rfl
  | succ w ih => simp [trailingZeros, ih, Nat.add_comm]

/-- The count of trailing zeros is the place of the lowest 1 bit. -/
theorem trailingZeros_eq_of_lowest {w a n : Nat} (hn : n < w) (hz : ∀ i < n, a.testBit i = false)
    (h1 : a.testBit n = true) : trailingZeros w a = n := by
  induction w generalizing a n with
  | zero => omega
  | succ w ih =>
    cases n with
    | zero => simp_all [trailingZeros, Nat.testBit_zero]
    | succ n =>
      have h0 := hz 0 (Nat.succ_pos n)
      have := ih (a := a / 2) (n := n) (by omega)
        (fun i hi => by rw [Nat.testBit_div_two]; exact hz _ (by omega))
        (by rw [Nat.testBit_div_two]; exact h1)
      have heven : a % 2 ≠ 1 := by simpa [Nat.testBit_zero] using h0
      rw [trailingZeros, if_neg heven, this, Nat.add_comm]

theorem trailingZeros_toNat {w : Nat} (x : BitVec w) : trailingZeros w x.toNat = x.ctz.toNat := by
  by_cases hx : x = 0#w
  · rw [hx, BitVec.toNat_ofNat, Nat.zero_mod, trailingZeros_zero, BitVec.ctz,
      BitVec.reverse_eq_zero_iff.mpr rfl, toNat_clz_zero]
  · exact trailingZeros_eq_of_lowest
      (by simpa [BitVec.lt_def] using BitVec.ctz_lt_iff_ne_zero.mpr hx)
      (fun i hi => BitVec.getLsbD_false_of_lt_ctz hi)
      (BitVec.getLsbD_true_ctz_of_ne_zero hx)

/-! What the frames of the integer instructions answer once their sources are read. -/

/-- A number that is the value of a bit vector is written as that bit vector (R106). -/
theorem putBits_toNat (t : Ty) (v : BitVec (tyBits t)) : putBits t v.toNat = v.setWidth 128 := by
  rw [putBits, ofNatQ, Nat.mod_eq_of_lt v.isLt, BitVec.ofNat_toNat]

@[simp] theorem nth_zero (v : Quad × Bool) (vs : List (Quad × Bool)) : nth (v :: vs) 0 = v := rfl

@[simp] theorem nth_succ (v : Quad × Bool) (vs : List (Quad × Bool)) (i : Nat) :
    nth (v :: vs) (i + 1) = nth vs i := rfl

section
variable {s s1 : State} {cu : Cur} {gd : Guard} {t : Ty} {d a b : Opnd} {va vb : Quad × Bool}

theorem int1_of_reads {f : Int → Quad}
    (h : Reads s gd [(a, t.width)] [(d, t.width)] s1 cu [va]) :
    int1 s gd t d a f = cu.result s1 d t.width { value := f (asInt t va) } := by
  rw [int1, runA_of_reads h, nth_zero]

theorem int2_of_reads {f : Int → Int → Quad}
    (h : Reads s gd [(a, t.width), (b, t.width)] [(d, t.width)] s1 cu [va, vb]) :
    int2 s gd t d a b f = cu.result s1 d t.width { value := f (asInt t va) (asInt t vb) } := by
  rw [int2, runA_of_reads h, nth_zero, nth_succ, nth_zero]

theorem bits1_of_reads {wd : Width} {f : Nat → Nat → Nat} {n : Nat} {v : BitVec n}
    (h : Reads s gd [(a, t.width)] [(d, wd)] s1 cu [va])
    (hf : f (tyBits t) (va.1.setWidth (tyBits t)).toNat = v.toNat) :
    bits1 s gd t wd d a f = cu.result s1 d wd { value := v.setWidth 128 } := by
  rw [bits1, runA_of_reads h, nth_zero, asBits, hf, ofNatQ, BitVec.ofNat_toNat]

theorem bits2_of_reads {f : Nat → Nat → Nat → Nat} {v : BitVec (tyBits t)}
    (h : Reads s gd [(a, t.width), (b, t.width)] [(d, t.width)] s1 cu [va, vb])
    (hf : f (tyBits t) (va.1.setWidth (tyBits t)).toNat (vb.1.setWidth (tyBits t)).toNat = v.toNat) :
    bits2 s gd t d a b f = cu.result s1 d t.width { value := v.setWidth 128 } := by
  rw [bits2, runA_of_reads h, nth_zero, nth_succ, nth_zero, asBits, asBits, hf, putBits_toNat]

theorem bitsCount_of_reads {f : Nat → Nat → Nat → Nat} {v : BitVec (tyBits t)}
    (h : Reads s gd [(a, t.width), (b, .w32)] [(d, t.width)] s1 cu [va, vb])
    (hf : f (tyBits t) (va.1.setWidth (tyBits t)).toNat (lo32 vb).toNat = v.toNat) :
    bitsCount s gd t d a b f = cu.result s1 d t.width { value := v.setWidth 128 } := by
  rw [bitsCount, runA_of_reads h, nth_zero, nth_succ, nth_zero, asBits, hf, putBits_toNat]

end

/-- Settles O4: each instruction is the operation of R114 on bit vectors of the width of its type, and a
twin is its register form over the immediate as source B. -/
theorem bitInstructions : Obligations.BitInstructions := by
  unfold Obligations.BitInstructions
  intro s s1 cu gd t d a b imm va vb _ w x y n put
  refine ⟨fun h => ?_, fun h => ?_, fun h => ?_, fun h => ?_⟩
  · have hand : execAnd gd t d a b s = put (x &&& y) := bits2_of_reads h (BitVec.toNat_and ..).symm
    have hor : execOr gd t d a b s = put (x ||| y) := bits2_of_reads h (BitVec.toNat_or ..).symm
    have hxor : execXor gd t d a b s = put (x ^^^ y) := bits2_of_reads h (BitVec.toNat_xor ..).symm
    have handn : execAndn gd t d a b s = put (x &&& ~~~ y) :=
      bits2_of_reads h (by rw [notBits_toNat, BitVec.toNat_and])
    exact ⟨hand, hor, hxor, handn, by rintro rfl; exact ⟨hand, hor, hxor, handn⟩⟩
  · have hshl : execShl gd t d a b s = put (x <<< n) := bitsCount_of_reads h (shlBits_toNat x n)
    have hshr : execShr gd t d a b s = put (x >>> n) := bitsCount_of_reads h (shrBits_toNat x n)
    have hsar : execSar gd t d a b s = put (x.sshiftRight n) :=
      bitsCount_of_reads h (sarBits_toNat x n)
    have hrol : execRol gd t d a b s = put (x.rotateLeft n) :=
      bitsCount_of_reads h (rolBits_toNat x n)
    exact ⟨hshl, hshr, hsar, hrol, by rintro rfl; exact ⟨hshl, hshr, hsar, hrol⟩⟩
  · exact ⟨bits1_of_reads h (notBits_toNat x), bits1_of_reads h (revBits_toNat x)⟩
  · exact ⟨bits1_of_reads h (onesOf_toNat x), bits1_of_reads h (leadingZeros_toNat x),
      bits1_of_reads h (trailingZeros_toNat x)⟩

/-- Settles O1: the exact result, wrapped or clamped by `putSat`. -/
theorem integerArithmetic : Obligations.IntegerArithmetic := by
  unfold Obligations.IntegerArithmetic
  intro s s1 cu gd t sat d a b c imm va vb vc w x y z put
  refine ⟨fun h => ?_, fun h => ?_, fun h => ?_⟩
  · have hadd : execAdd gd t sat d a b s = put (x + y) := by rw [execAdd, int2_of_reads h, putSat]
    have hsub : execSub gd t sat d a b s = put (x - y) := by rw [execSub, int2_of_reads h, putSat]
    have hmul : execMul gd t sat d a b s = put (x * y) := by rw [execMul, int2_of_reads h, putSat]
    exact ⟨hadd, hsub, hmul, by rintro rfl; exact ⟨hadd, hsub, hmul⟩⟩
  · simp only [exec_mad, execMad, runA_of_reads h, nth_zero, nth_succ, putSat, put, x, y, z, w]
  · exact ⟨by rw [exec_neg, execNeg, int1_of_reads h, putSat],
      by rw [exec_abs, execAbs, int1_of_reads h, putSat]⟩

/-! The four cases of R112. -/

theorem divInt_zero (t : Ty) (x : Int) : divInt t x 0 = if tySigned t then -1 else tyHi t := if_pos rfl

theorem remInt_zero (t : Ty) (x : Int) : remInt t x 0 = x := if_pos rfl

theorem divInt_least {t : Ty} (ht : tySigned t = true) : divInt t (tyLo t) (-1) = tyLo t := by
  simp [divInt, ht]

theorem remInt_least {t : Ty} (ht : tySigned t = true) : remInt t (tyLo t) (-1) = 0 := by
  simp [remInt, ht]

theorem divInt_ordinary {t : Ty} {x y : Int} (hy : y ≠ 0)
    (hc : ¬ (tySigned t = true ∧ x = tyLo t ∧ y = -1)) : divInt t x y = Int.tdiv x y := by
  rw [divInt, if_neg hy, if_neg (by simpa [and_assoc] using hc)]

theorem remInt_ordinary {t : Ty} {x y : Int} (hy : y ≠ 0)
    (hc : ¬ (tySigned t = true ∧ x = tyLo t ∧ y = -1)) : remInt t x y = x - y * Int.tdiv x y := by
  rw [remInt, if_neg hy, if_neg (by simpa [and_assoc] using hc)]

/-- Settles O3: division by the four cases of R112. -/
theorem productsQuotientsOrder : Obligations.ProductsQuotientsOrder := by
  unfold Obligations.ProductsQuotientsOrder
  intro s s1 cu gd t d a b imm va vb w x y put corner h
  have hmulh : execMulh gd t d a b s = put (x * y / 2 ^ tyBits t) := by
    rw [execMulh, int2_of_reads h, mulHigh]
  have hdiv : execDiv gd t d a b s = put (divInt t x y) := by rw [execDiv, int2_of_reads h]
  have hrem : execRem gd t d a b s = put (remInt t x y) := by rw [execRem, int2_of_reads h]
  have hmin : execMin gd t d a b s = put (min x y) := by rw [execMin, int2_of_reads h]
  have hmax : execMax gd t d a b s = put (max x y) := by rw [execMax, int2_of_reads h]
  rw [exec_div, exec_rem, hdiv, hrem]
  refine ⟨hmulh, fun hy => ?_, fun hc => ?_, fun hy hc => ?_, hmin, hmax, ?_⟩
  · rw [hy, divInt_zero, remInt_zero]
    exact ⟨rfl, rfl⟩
  · obtain ⟨ht, hx, hy⟩ := hc
    rw [hx, hy, divInt_least ht, remInt_least ht]
    exact ⟨rfl, rfl⟩
  · rw [divInt_ordinary hy hc, remInt_ordinary hy hc]
    exact ⟨rfl, rfl⟩
  · rintro rfl
    exact ⟨rfl, hdiv, hrem, hmin, hmax⟩

/-- Settles O7: each writes its condition as a predicate and as 1 or 0. -/
theorem comparesAndPredicates : Obligations.ComparesAndPredicates := by
  unfold Obligations.ComparesAndPredicates
  intro s s1 cu gd t cond pd pa pb d a b imm va vb put p
  refine ⟨fun h => ?_, fun h => ?_⟩
  · intro x y holds
    have hcond : condInt cond x y = holds := by cases cond <;> rfl
    have hcmp : execCmp gd t pd cond d a b s = put holds := by
      rw [execCmp, cmpOp, runA_of_reads h, nth_zero, nth_succ, nth_zero, hcond, predRes, bitQ]
    exact ⟨hcmp, by rintro rfl; exact hcmp⟩
  · have hpred (f : Bool → Bool → Bool) (n : Fin 8) :
        predOp s gd pd pa n d f = put (f (p pa) (p n)) := by
      rw [predOp, runA_of_reads h, predRes, predOf, predOf, bitQ]
    exact ⟨hpred _ pb, hpred _ pb, hpred _ pb, hpred (fun v _ => !v) pa⟩

/-! The fields of R115 and R119. -/

theorem fieldPos_toNat (w : Nat) (k : Word) : fieldPos w k.toNat = min (k.extractLsb' 0 8).toNat w := by
  simp [fieldPos, BitVec.extractLsb'_toNat]

theorem fieldLen_toNat (w : Nat) (k : Word) :
    fieldLen w k.toNat = min (k.extractLsb' 8 8).toNat (w - min (k.extractLsb' 0 8).toNat w) := by
  have hlen : (k.extractLsb' 8 8).toNat = k.toNat / 256 % 256 := by
    rw [BitVec.extractLsb'_toNat, Nat.shiftRight_eq_div_pow]
  rw [fieldLen, fieldPos_toNat, hlen]

/-- The field that bfx takes, as a bit string of its length: its number of two's complement for .i types. -/
theorem extractField_toNat (t : Ty) (x : BitVec (tyBits t)) (k : Nat) {p l : Nat}
    (hp : fieldPos (tyBits t) k = p) (hl : fieldLen (tyBits t) k = l) :
    extractField t x.toNat k
      = if tySigned t then (x.extractLsb' p l).toInt else ((x.extractLsb' p l).toNat : Int) := by
  have hf : x.toNat / 2 ^ p % 2 ^ l = (x.extractLsb' p l).toNat := by
    rw [BitVec.extractLsb'_toNat, Nat.shiftRight_eq_div_pow]
  simp only [extractField, hp, hl, hf]
  cases tySigned t with
  | false => rfl
  | true =>
    cases l with
    | zero => simp [BitVec.toNat_of_zero_length]
    | succ l =>
      simp only [BitVec.toInt_eq_msb_cond, BitVec.msb_eq_decide, Bool.true_and, Nat.succ_pos, decide_true,
        if_true]
      rfl

/-- The 1 bits of a field of length `l` at position `p` (the mask of R115). -/
def fieldMask (w p l : Nat) : BitVec w := BitVec.ofNat w ((2 ^ l - 1) * 2 ^ p)

/-- The field of `x` at position `p` replaced by the low `l` bits of `y` (R115, R119). -/
def insertBits {w : Nat} (x y : BitVec w) (p l : Nat) : BitVec w :=
  (x &&& ~~~ fieldMask w p l) ||| ((y <<< p) &&& fieldMask w p l)

theorem toNat_fieldMask {w p l : Nat} (h : p + l ≤ w) : (fieldMask w p l).toNat = (2 ^ l - 1) * 2 ^ p := by
  have hlt : (2 ^ l - 1) * 2 ^ p < 2 ^ w := by
    calc (2 ^ l - 1) * 2 ^ p < 2 ^ l * 2 ^ p :=
          Nat.mul_lt_mul_of_pos_right (Nat.sub_lt (Nat.two_pow_pos l) Nat.one_pos) (Nat.two_pow_pos p)
      _ = 2 ^ (p + l) := by rw [Nat.add_comm, Nat.pow_add]
      _ ≤ 2 ^ w := Nat.pow_le_pow_right Nat.two_pos h
  rw [fieldMask, BitVec.toNat_ofNat, Nat.mod_eq_of_lt hlt]

theorem getLsbD_fieldMask {w p l : Nat} (h : p + l ≤ w) (i : Nat) :
    (fieldMask w p l).getLsbD i = (decide (p ≤ i) && decide (i - p < l)) := by
  rw [BitVec.getLsbD, toNat_fieldMask h, Nat.testBit_mul_two_pow, Nat.testBit_two_pow_sub_one]

theorem getLsbD_insertBits {w p l : Nat} (x y : BitVec w) (h : p + l ≤ w) (i : Nat) :
    (insertBits x y p l).getLsbD i
      = if i < p then x.getLsbD i else if i - p < l then y.getLsbD (i - p) else x.getLsbD i := by
  rw [insertBits, BitVec.getLsbD_or, BitVec.getLsbD_and, BitVec.getLsbD_and, BitVec.getLsbD_not,
    BitVec.getLsbD_shiftLeft, getLsbD_fieldMask h]
  by_cases hp : i < p
  · have hw : i < w := by omega
    simp [hp, hw]
  · by_cases hl : i - p < l
    · have hw : i < w := by omega
      simp [hp, hl, hw, Nat.le_of_not_lt hp]
    · by_cases hw : i < w
      · simp [hp, hl, hw]
      · simp [hp, hl, hw, BitVec.getLsbD_of_ge x i (Nat.le_of_not_lt hw)]

/-- As a number: the new bits inside the field, the old ones below and above it. -/
theorem toNat_insertBits {w p l : Nat} (x y : BitVec w) (h : p + l ≤ w) :
    (insertBits x y p l).toNat
      = x.toNat % 2 ^ p + y.toNat % 2 ^ l * 2 ^ p + x.toNat / 2 ^ (p + l) * 2 ^ (p + l) := by
  have hlow : x.toNat % 2 ^ p < 2 ^ p := Nat.mod_lt _ (Nat.two_pow_pos p)
  have hmid : y.toNat % 2 ^ l < 2 ^ l := Nat.mod_lt _ (Nat.two_pow_pos l)
  have hsum : x.toNat % 2 ^ p + y.toNat % 2 ^ l * 2 ^ p + x.toNat / 2 ^ (p + l) * 2 ^ (p + l)
      = 2 ^ p * (2 ^ l * (x.toNat / 2 ^ (p + l)) + y.toNat % 2 ^ l) + x.toNat % 2 ^ p := by
    rw [Nat.pow_add, Nat.mul_add, Nat.mul_comm _ (2 ^ p), Nat.mul_left_comm _ (2 ^ p) (2 ^ l),
      Nat.mul_comm _ (2 ^ l)]
    omega
  refine Nat.eq_of_testBit_eq fun i => ?_
  rw [BitVec.testBit_toNat, getLsbD_insertBits x y h, hsum, Nat.testBit_two_pow_mul_add _ hlow,
    Nat.testBit_two_pow_mul_add _ hmid, Nat.testBit_mod_two_pow, Nat.testBit_mod_two_pow,
    Nat.testBit_div_two_pow]
  simp only [BitVec.testBit_toNat]
  by_cases hp : i < p
  · simp [hp]
  · by_cases hl : i - p < l
    · simp [hp, hl]
    · simp [hp, hl, show i - p - l + (p + l) = i by omega]

theorem insertField_toNat {w : Nat} (x y : BitVec w) (k : Nat) {p l : Nat}
    (hp : fieldPos w k = p) (hl : fieldLen w k = l) :
    insertField w x.toNat y.toNat k = (insertBits x y p l).toNat := by
  have hle : p + l ≤ w := by rw [← hp, ← hl, fieldLen, fieldPos]; omega
  rw [insertBits, BitVec.toNat_or, BitVec.toNat_and, BitVec.toNat_and, BitVec.toNat_shiftLeft,
    Nat.shiftLeft_eq, ← notBits_toNat, toNat_fieldMask hle, insertField, hp, hl]

/-- Settles O5: bfx takes and bfi replaces the field that the control word gives, clamped. -/
theorem fieldInstructions : Obligations.FieldInstructions := by
  unfold Obligations.FieldInstructions
  intro s s1 cu gd t d a b c imm va vb vc w bits x pos len
  refine ⟨fun _ h => ?_, fun _ h => ?_⟩
  · intro k field put
    have hbfx : execBfx gd t d a b s = put := by
      rw [execBfx, bfxOp, runA_of_reads h, nth_zero, nth_succ, nth_zero, asBits,
        extractField_toNat t _ _ (fieldPos_toNat _ k) (fieldLen_toNat _ k)]
    exact ⟨hbfx, by rintro rfl; exact hbfx⟩
  · intro k mask
    rw [exec_bfi, execBfi, runA_of_reads h]
    simp only [nth_zero, nth_succ, asBits]
    rw [insertField_toNat _ _ _ (fieldPos_toNat _ k) (fieldLen_toNat _ k), putBits_toNat]
    rfl

/-- lea's sum modulo the width, of a source A that is read unsigned (R116). -/
theorem putInt_add_shifted {t : Ty} (ht : tySigned t = false) (hw : 32 ≤ tyBits t) (v : Quad × Bool)
    (i : Word) (n : Nat) :
    putInt t (asInt t v + i.toInt * 2 ^ n)
      = (v.1.setWidth (tyBits t) + i.signExtend (tyBits t) <<< n).setWidth 128 := by
  have hpow : BitVec.ofInt (tyBits t) (2 ^ n) = BitVec.twoPow (tyBits t) n := by
    apply BitVec.eq_of_toNat_eq
    rw [BitVec.toNat_twoPow, ← BitVec.toNat_ofNat, ← BitVec.ofInt_natCast]
    norm_cast
  have hv : BitVec.ofInt (tyBits t) (asInt t v) = v.1.setWidth (tyBits t) := by
    rw [asInt, if_neg (by simp [ht]), BitVec.ofInt_natCast, BitVec.ofNat_toNat, BitVec.setWidth_eq]
  rw [putInt, if_neg (Nat.not_lt.mpr hw), BitVec.ofInt_add, hv, BitVec.ofInt_mul, hpow,
    BitVec.shiftLeft_eq_mul_twoPow, BitVec.signExtend]

/-- The mask of movi's 20 bits. -/
theorem shifted_ones_eq_fieldMask (w p : Nat) : (0xFFFFF : BitVec w) <<< p = fieldMask w p 20 := by
  apply BitVec.eq_of_toNat_eq
  rw [show (0xFFFFF : BitVec w) = BitVec.ofNat w (2 ^ 20 - 1) from rfl, fieldMask,
    BitVec.toNat_shiftLeft, Nat.shiftLeft_eq, BitVec.toNat_ofNat, BitVec.toNat_ofNat, Nat.mod_mul_mod]

/-- movi past .s0 keeps the bits of D outside its 20 (R119). -/
theorem moveImm_toNat {w p : Nat} (x y : BitVec w) (hp : p ≠ 0) (h : p + 20 ≤ w) :
    moveImm w p x.toNat y.toNat = (insertBits x y p 20).toNat := by
  have hle : x.toNat / 2 ^ (p + 20) * 2 ^ (p + 20) < 2 ^ w :=
    Nat.lt_of_le_of_lt (Nat.div_mul_le_self _ _) x.isLt
  rw [moveImm, if_neg hp, toNat_insertBits x y h, Nat.mod_eq_of_lt hle]

/-- A position that its type allows leaves room for the 20 bits (R107). -/
theorem shift_add_le_tyBits {t : Ty} {pos : Pos} (ht : t ∈ bitTys) (hp : 32 ≤ pos.shift → t = .b64) :
    pos.shift + 20 ≤ tyBits t := by
  by_cases h : 32 ≤ pos.shift
  · rw [hp h]
    cases pos <;> decide
  · have h32 : 32 ≤ tyBits t := by revert ht; cases t <;> decide
    have h12 : pos.shift ≤ 12 := by revert h; cases pos <;> decide
    omega

/-- Settles O6: of what its sources read, lea is a sum modulo the width, sel a choice, and movi past .s0 an
insertion of 20 bits. -/
theorem addressesAndMoves : Obligations.AddressesAndMoves := by
  unfold Obligations.AddressesAndMoves
  intro s s1 cu gd t sh inv pn pos d a b imm va vb vd w
  refine ⟨fun ht h => ?_, fun h => ?_, fun h => ?_, fun ht hs h => ?_⟩
  · intro put
    have hlea : execLea gd t sh d a b s = put := by
      have ⟨hu, hw⟩ : tySigned t = false ∧ 32 ≤ tyBits t := by
        revert ht; cases t <;> decide
      rw [execLea, leaOp, runA_of_reads h, nth_zero, nth_succ, nth_zero, putInt_add_shifted hu hw]
    exact ⟨hlea, by rintro rfl; exact hlea⟩
  · intro p v
    have hsel : execSel gd t inv pn d a b s = cu.result s1 d w { value := v.1, tag := v.2 } := by
      rw [execSel, selOp, runA_of_reads h, nth_zero, nth_succ, nth_zero]
      rfl
    exact ⟨hsel, by rintro rfl; exact hsel⟩
  · rw [exec_mov, execMov, runA_of_reads h, nth_zero]
  · intro y mask put
    have hvalue : putBits t (moveImm (tyBits t) pos.shift (asBits t vd) (asBits t vb))
        = if pos = .s0 then y.setWidth 128
          else (insertBits (vd.1.setWidth (tyBits t)) y pos.shift 20).setWidth 128 := by
      split
      case isTrue h0 => subst h0; exact putBits_toNat t y
      case isFalse h0 =>
        have hp : pos.shift ≠ 0 := by revert h0; cases pos <;> decide
        rw [asBits, asBits, moveImm_toNat _ _ hp (shift_add_le_tyBits ht hs), putBits_toNat]
    have hmovi : execMovi gd t pos d b s = put := by
      rw [execMovi, moviOp, runA_of_reads h, nth_zero, nth_succ, nth_zero, hvalue, insertBits,
        ← shifted_ones_eq_fieldMask]
    exact ⟨hmovi, by rintro rfl; exact hmovi⟩

end Sys2Proof.Machine

/-! The floating instructions of R134 to R141 (family 07): what their frames answer once their sources are
read, what the sum and the product of two values are in each class of operands, and the statements settled. -/

namespace Sys2Proof.Machine

/-! What the frames of the floating instructions answer once their sources are read. -/

section
variable {s s1 : State} {cu : Cur} {gd : Guard} {t : Ty} {d a b c : Opnd} {va vb vc : Quad × Bool}

theorem flt1_of_reads {f : Fmt → Nat → Nat × Word}
    (h : Reads s gd [(a, t.width)] [(d, t.width)] s1 cu [va]) :
    flt1 s gd t d a f = cu.result s1 d t.width (fres (f (fmtOf t) (fbitsOf t va))) := by
  rw [flt1, runA_of_reads h, nth_zero]

theorem flt2_of_reads {f : Fmt → Nat → Nat → Nat × Word}
    (h : Reads s gd [(a, t.width), (b, t.width)] [(d, t.width)] s1 cu [va, vb]) :
    flt2 s gd t d a b f
      = cu.result s1 d t.width (fres (f (fmtOf t) (fbitsOf t va) (fbitsOf t vb))) := by
  rw [flt2, runA_of_reads h, nth_zero, nth_succ, nth_zero]

theorem flt3_of_reads {f : Fmt → Nat → Nat → Nat → Nat × Word}
    (h : Reads s gd [(a, t.width), (b, t.width), (c, t.width)] [(d, t.width)] s1 cu [va, vb, vc]) :
    flt3 s gd t d a b c f = cu.result s1 d t.width
      (fres (f (fmtOf t) (fbitsOf t va) (fbitsOf t vb) (fbitsOf t vc))) := by
  rw [flt3, runA_of_reads h, nth_zero, nth_succ, nth_zero, nth_succ, nth_succ, nth_zero]

theorem half_zero (v : Quad × Bool) : half v 0 = (lo32 v).toNat % 2 ^ 16 := by
  rw [half, Nat.mul_zero, Nat.pow_zero, Nat.div_one]

theorem half_one (v : Quad × Bool) : half v 1 = (lo32 v).toNat / 2 ^ 16 := by
  have hv := (lo32 v).isLt
  rw [half]
  omega

theorem pair2_of_reads {f : Fmt → Nat → Nat → Nat × Word}
    (h : Reads s gd [(a, .w32), (b, .w32)] [(d, .w32)] s1 cu [va, vb]) :
    pair2 s gd t d a b f = cu.result s1 d .w32
      (packed (f (fmtOf t) ((lo32 va).toNat % 2 ^ 16) ((lo32 vb).toNat % 2 ^ 16))
        (f (fmtOf t) ((lo32 va).toNat / 2 ^ 16) ((lo32 vb).toNat / 2 ^ 16))) := by
  rw [pair2, runA_of_reads h, nth_zero, nth_succ, nth_zero, half_zero, half_zero, half_one, half_one]

theorem execHfma2_of_reads {rnd : Rnd}
    (h : Reads s gd [(a, .w32), (b, .w32), (c, .w32)] [(d, .w32)] s1 cu [va, vb, vc]) :
    execHfma2 gd t rnd d a b c s = cu.result s1 d .w32
      (packed ((fmtOf t).fma rnd ((lo32 va).toNat % 2 ^ 16) ((lo32 vb).toNat % 2 ^ 16)
          ((lo32 vc).toNat % 2 ^ 16))
        ((fmtOf t).fma rnd ((lo32 va).toNat / 2 ^ 16) ((lo32 vb).toNat / 2 ^ 16)
          ((lo32 vc).toNat / 2 ^ 16))) := by
  rw [execHfma2, runA_of_reads h, nth_zero, nth_succ, nth_zero, nth_succ, nth_succ, nth_zero, half_zero,
    half_zero, half_zero, half_one, half_one, half_one]

theorem fcmpOp_of_reads {pd : Fin 7} {cond : Cond}
    (h : Reads s gd [(a, t.width), (b, t.width)] [(d, .w32)] s1 cu [va, vb]) :
    fcmpOp s gd t pd cond d a b = cu.result s1 d .w32
      { predRes pd (condFloat cond ((fmtOf t).read (fbitsOf t va)) ((fmtOf t).read (fbitsOf t vb))) with
        flags := condFlags cond ((fmtOf t).read (fbitsOf t va)) ((fmtOf t).read (fbitsOf t vb)) } := by
  rw [fcmpOp, runA_of_reads h, nth_zero, nth_succ, nth_zero]

end

/-! Exact values in units of a power of two. -/

/-- A finite value as a signed multiple of 2^u. -/
def unitsAt (n : Bool) (m : Nat) (e u : Int) : Int := (if n then -1 else 1) * (m * 2 ^ (e - u).toNat : Nat)

theorem unitsAt_not (n : Bool) (m : Nat) (e u : Int) : unitsAt (!n) m e u = -unitsAt n m e u := by
  cases n <;> simp [unitsAt]

theorem unitsAt_self (n : Bool) (m : Nat) (e : Int) : unitsAt n m e e = if n then -(m : Int) else m := by
  cases n <;> simp [unitsAt]

/-- An exact sum is the sum of its terms in units of the lesser exponent. -/
theorem sumNum_eq (n1 : Bool) (m1 : Nat) (e1 : Int) (n2 : Bool) (m2 : Nat) (e2 : Int) :
    sumNum n1 m1 e1 n2 m2 e2
      = (unitsAt n1 m1 e1 (min e1 e2) + unitsAt n2 m2 e2 (min e1 e2), min e1 e2) := by
  cases n1 <;> cases n2 <;> simp [sumNum, unitsAt]

/-! The sum of two values, by the class of each (R131, R132, R135). -/

/-- An exact sum v times 2^u rounded once, an exact zero with the sign given. -/
def Fmt.roundSum (f : Fmt) (r : Rnd) (v u : Int) (zeroNeg : Bool) : Nat × Word :=
  if v = 0 then (f.signed zeroNeg 0, 0) else f.roundNum r false (decide (v < 0)) v.natAbs u

theorem round_eq_roundSum (f : Fmt) (r : Rnd) (n : Bool) (m : Nat) (e : Int) :
    f.round r false n m e = f.roundSum r (unitsAt n m 0 0) e n := by
  rw [Fmt.round, Fmt.roundSum, unitsAt_self]
  rcases Nat.eq_zero_or_pos m with rfl | hm
  · cases n <;> rfl
  · have hnot : ¬ (m : Int) < 0 := by omega
    cases n <;> simp [Nat.ne_of_gt hm, hm, hnot]

theorem addVal_num (f : Fmt) (r : Rnd) (n1 : Bool) (m1 : Nat) (e1 : Int) (n2 : Bool) (m2 : Nat) (e2 : Int) :
    f.addVal r (.num n1 m1 e1) (.num n2 m2 e2)
      = f.roundSum r (unitsAt n1 m1 e1 (min e1 e2) + unitsAt n2 m2 e2 (min e1 e2)) (min e1 e2)
        (zeroSign r n1 n2) := by
  rw [Fmt.addVal, sumNum_eq, Fmt.roundSum]

theorem exists_nan_of_isNan {x : FVal} (h : x.isNan = true) : ∃ s, x = .nan s := by
  cases x with
  | nan s => exact ⟨s, rfl⟩
  | inf n => cases h
  | num n m e => cases h

theorem addVal_of_nan (f : Fmt) (r : Rnd) {x y : FVal} (h : (x.isNan || y.isNan) = true) :
    f.addVal r x y = (f.nan, flagIf (x.isSignalling || y.isSignalling) flNV) := by
  rcases Bool.or_eq_true_iff.mp h with hx | hy
  · obtain ⟨s, rfl⟩ := exists_nan_of_isNan hx
    rfl
  · obtain ⟨s, rfl⟩ := exists_nan_of_isNan hy
    cases x <;> rfl

theorem addVal_inf_left (f : Fmt) (r : Rnd) (n : Bool) {y : FVal} (hy : y.isNan = false) :
    f.addVal r (.inf n) y = if y = .inf (!n) then (f.nan, flNV) else (f.signed n f.infBits, 0) := by
  cases y with
  | nan s => simp [FVal.isNan] at hy
  | inf n' => cases n <;> cases n' <;> rfl
  | num n' m' e' => rw [if_neg (by simp)]; rfl

theorem addVal_num_inf (f : Fmt) (r : Rnd) (n : Bool) (m : Nat) (e : Int) (n' : Bool) :
    f.addVal r (.num n m e) (.inf n') = (f.signed n' f.infBits, 0) := rfl

@[simp] theorem isNan_negate (x : FVal) : x.negate.isNan = x.isNan := by cases x <;> rfl

@[simp] theorem isSignalling_negate (x : FVal) : x.negate.isSignalling = x.isSignalling := by
  cases x <;> rfl

theorem negate_eq_inf_not {x : FVal} {n : Bool} : x.negate = .inf (!n) ↔ x = .inf n := by
  cases x <;> simp [FVal.negate]

/-! The product of two values, by the class of each (R132, R135). -/

/-- Whether a product is zero times infinity (R132). -/
def undefinedProduct (x y : FVal) : Bool := x.isZero && y.isInf || x.isInf && y.isZero

theorem mulVal_num (n1 : Bool) (m1 : Nat) (e1 : Int) (n2 : Bool) (m2 : Nat) (e2 : Int) :
    mulVal (.num n1 m1 e1) (.num n2 m2 e2) = (.num (n1 != n2) (m1 * m2) (e1 + e2), false) := rfl

theorem mulVal_of_nan {x y : FVal} (h : (x.isNan || y.isNan) = true) :
    mulVal x y = (.nan false, x.isSignalling || y.isSignalling) := by
  rcases Bool.or_eq_true_iff.mp h with hx | hy
  · obtain ⟨s, rfl⟩ := exists_nan_of_isNan hx
    rfl
  · obtain ⟨s, rfl⟩ := exists_nan_of_isNan hy
    cases x <;> rfl

theorem mulVal_of_inf {x y : FVal} (hx : x.isNan = false) (hy : y.isNan = false)
    (h : (x.isInf || y.isInf) = true) :
    mulVal x y = if undefinedProduct x y then (.nan false, true) else (.inf (x.neg != y.neg), false) := by
  cases x with
  | nan s => simp [FVal.isNan] at hx
  | inf n => cases y with
    | nan s => simp [FVal.isNan] at hy
    | inf n' => rfl
    | num n' m' e' => simp [mulVal, undefinedProduct, FVal.isZero, FVal.isInf, FVal.neg]
  | num n m e => cases y with
    | nan s => simp [FVal.isNan] at hy
    | inf n' => simp [mulVal, undefinedProduct, FVal.isZero, FVal.isInf, FVal.neg]
    | num n' m' e' => simp [FVal.isInf] at h

/-- A NaN operand is neither a zero nor an infinity. -/
theorem undefinedProduct_of_nan {x y : FVal} (h : (x.isNan || y.isNan) = true) :
    undefinedProduct x y = false := by
  rcases Bool.or_eq_true_iff.mp h with hx | hy
  · obtain ⟨s, rfl⟩ := exists_nan_of_isNan hx
    rfl
  · obtain ⟨s, rfl⟩ := exists_nan_of_isNan hy
    cases x <;> simp [undefinedProduct, FVal.isZero, FVal.isInf]

theorem isSignalling_of_isNan_false {x : FVal} (h : x.isNan = false) : x.isSignalling = false := by
  cases x with
  | nan s => simp [FVal.isNan] at h
  | inf n => rfl
  | num n m e => rfl

theorem eq_num_of_finite {x : FVal} (hn : x.isNan = false) (hi : x.isInf = false) :
    ∃ n m e, x = .num n m e := by
  cases x with
  | nan s => simp [FVal.isNan] at hn
  | inf n => simp [FVal.isInf] at hi
  | num n m e => exact ⟨n, m, e, rfl⟩

/-- A product that is a NaN is the quiet one; it is invalid for a signalling operand and for zero times
infinity, and for nothing else (R132). -/
theorem mulVal_invalid (x y : FVal) :
    (mulVal x y).1.isSignalling = false
    ∧ (mulVal x y).2 = (x.isSignalling || y.isSignalling || undefinedProduct x y) := by
  by_cases hnan : (x.isNan || y.isNan) = true
  · rw [mulVal_of_nan hnan, undefinedProduct_of_nan hnan, Bool.or_false]
    exact ⟨rfl, rfl⟩
  · obtain ⟨hx, hy⟩ := Bool.or_eq_false_iff.mp (Bool.eq_false_iff.mpr hnan)
    rw [isSignalling_of_isNan_false hx, isSignalling_of_isNan_false hy, Bool.false_or, Bool.false_or]
    by_cases hinf : (x.isInf || y.isInf) = true
    · rw [mulVal_of_inf hx hy hinf]
      cases undefinedProduct x y <;> exact ⟨rfl, rfl⟩
    · obtain ⟨hxi, hyi⟩ := Bool.or_eq_false_iff.mp (Bool.eq_false_iff.mpr hinf)
      obtain ⟨n, m, e, rfl⟩ := eq_num_of_finite hx hxi
      obtain ⟨n', m', e', rfl⟩ := eq_num_of_finite hy hyi
      simp [mulVal_num, undefinedProduct, FVal.isSignalling, FVal.isInf]

/-! fadd, fsub, fmul and fma on the bits of their operands. -/

section
variable {f : Fmt} {r : Rnd} {a b c : Nat}

theorem flagIf_or (p q : Bool) (w : Word) : flagIf p w ||| flagIf q w = flagIf (p || q) w := by
  cases p <;> cases q <;> simp [flagIf]

theorem add_of_num {n n' : Bool} {m m' : Nat} {e e' : Int} (ha : f.read a = .num n m e)
    (hb : f.read b = .num n' m' e') :
    f.add r a b = f.roundSum r (unitsAt n m e (min e e') + unitsAt n' m' e' (min e e')) (min e e')
      (zeroSign r n n') := by
  rw [Fmt.add, ha, hb, addVal_num]

theorem sub_of_num {n n' : Bool} {m m' : Nat} {e e' : Int} (ha : f.read a = .num n m e)
    (hb : f.read b = .num n' m' e') :
    f.sub r a b = f.roundSum r (unitsAt n m e (min e e') - unitsAt n' m' e' (min e e')) (min e e')
      (zeroSign r n (!n')) := by
  rw [Fmt.sub, ha, hb, FVal.negate, addVal_num, unitsAt_not, Int.sub_eq_add_neg]

theorem add_of_nan (h : ((f.read a).isNan || (f.read b).isNan) = true) :
    f.add r a b = (f.nan, flagIf ((f.read a).isSignalling || (f.read b).isSignalling) flNV) :=
  addVal_of_nan f r h

theorem sub_of_nan (h : ((f.read a).isNan || (f.read b).isNan) = true) :
    f.sub r a b = (f.nan, flagIf ((f.read a).isSignalling || (f.read b).isSignalling) flNV) := by
  rw [Fmt.sub, addVal_of_nan f r (by rwa [isNan_negate]), isSignalling_negate]

theorem add_of_inf_left {n : Bool} (ha : f.read a = .inf n) (hb : (f.read b).isNan = false) :
    f.add r a b = if f.read b = .inf (!n) then (f.nan, flNV) else (f.signed n f.infBits, 0) := by
  rw [Fmt.add, ha, addVal_inf_left f r n hb]

theorem sub_of_inf_left {n : Bool} (ha : f.read a = .inf n) (hb : (f.read b).isNan = false) :
    f.sub r a b = if f.read b = .inf n then (f.nan, flNV) else (f.signed n f.infBits, 0) := by
  rw [Fmt.sub, ha, addVal_inf_left f r n (by rwa [isNan_negate])]
  simp only [negate_eq_inf_not]

theorem add_of_inf_right {n n' : Bool} {m : Nat} {e : Int} (ha : f.read a = .num n m e)
    (hb : f.read b = .inf n') : f.add r a b = (f.signed n' f.infBits, 0) := by
  rw [Fmt.add, ha, hb, addVal_num_inf]

theorem sub_of_inf_right {n n' : Bool} {m : Nat} {e : Int} (ha : f.read a = .num n m e)
    (hb : f.read b = .inf n') : f.sub r a b = (f.signed (!n') f.infBits, 0) := by
  rw [Fmt.sub, ha, hb, FVal.negate, addVal_num_inf]

theorem mul_eq : f.mul r a b = ((f.putVal r (mulVal (f.read a) (f.read b)).1).1,
    (f.putVal r (mulVal (f.read a) (f.read b)).1).2 ||| flagIf (mulVal (f.read a) (f.read b)).2 flNV) := rfl

theorem fma_eq : f.fma r a b c = ((f.addVal r (mulVal (f.read a) (f.read b)).1 (f.read c)).1,
    (f.addVal r (mulVal (f.read a) (f.read b)).1 (f.read c)).2
      ||| flagIf (mulVal (f.read a) (f.read b)).2 flNV) := rfl

/-- With a valid product, fma is the sum of the product and c. -/
theorem fma_of_valid {p : FVal} (h : mulVal (f.read a) (f.read b) = (p, false)) :
    f.fma r a b c = f.addVal r p (f.read c) := by
  rw [fma_eq, h]
  exact Prod.ext rfl BitVec.or_zero

theorem fma_of_num {n n' n3 : Bool} {m m' m3 : Nat} {e e' e3 : Int} (ha : f.read a = .num n m e)
    (hb : f.read b = .num n' m' e') (hc : f.read c = .num n3 m3 e3) :
    f.fma r a b c = f.roundSum r (unitsAt (n != n') (m * m') (e + e') (min (e + e') e3)
      + unitsAt n3 m3 e3 (min (e + e') e3)) (min (e + e') e3) (zeroSign r (n != n') n3) := by
  rw [fma_of_valid (by rw [ha, hb, mulVal_num]), hc, addVal_num]

theorem fma_of_inf_addend {n n' n3 : Bool} {m m' : Nat} {e e' : Int} (ha : f.read a = .num n m e)
    (hb : f.read b = .num n' m' e') (hc : f.read c = .inf n3) :
    f.fma r a b c = (f.signed n3 f.infBits, 0) := by
  rw [fma_of_valid (by rw [ha, hb, mulVal_num]), hc, addVal_num_inf]

/-- A product or an addend that is a NaN makes fma the default NaN. -/
theorem fma_of_nan (h : ((mulVal (f.read a) (f.read b)).1.isNan || (f.read c).isNan) = true) :
    f.fma r a b c = (f.nan, flagIf ((f.read a).isSignalling || (f.read b).isSignalling
      || (f.read c).isSignalling || undefinedProduct (f.read a) (f.read b)) flNV) := by
  obtain ⟨hs, hv⟩ := mulVal_invalid (f.read a) (f.read b)
  rw [fma_eq, addVal_of_nan f r h, flagIf_or, hs, hv, Bool.false_or, Bool.or_comm, Bool.or_right_comm]

/-- So does a NaN among the three operands. -/
theorem fma_of_nan_operand (h : ((f.read a).isNan || (f.read b).isNan || (f.read c).isNan) = true) :
    f.fma r a b c = (f.nan, flagIf ((f.read a).isSignalling || (f.read b).isSignalling
      || (f.read c).isSignalling || undefinedProduct (f.read a) (f.read b)) flNV) := by
  refine fma_of_nan ?_
  by_cases hab : ((f.read a).isNan || (f.read b).isNan) = true
  · rw [mulVal_of_nan hab]
    rfl
  · rw [Bool.eq_false_iff.mpr hab, Bool.false_or] at h
    rw [h, Bool.or_true]

theorem mul_of_nan (h : ((f.read a).isNan || (f.read b).isNan) = true) :
    f.mul r a b = (f.nan, flagIf ((f.read a).isSignalling || (f.read b).isSignalling) flNV) := by
  rw [mul_eq, mulVal_of_nan h]
  exact Prod.ext rfl BitVec.zero_or

/-- An infinite factor: the product is invalid or an infinity (R132). -/
theorem mul_of_inf (ha : (f.read a).isNan = false) (hb : (f.read b).isNan = false)
    (h : ((f.read a).isInf || (f.read b).isInf) = true) :
    f.mul r a b = if undefinedProduct (f.read a) (f.read b) then (f.nan, flNV)
      else (f.signed ((f.read a).neg != (f.read b).neg) f.infBits, 0) := by
  rw [mul_eq, mulVal_of_inf ha hb h]
  cases undefinedProduct (f.read a) (f.read b) <;> exact Prod.ext rfl BitVec.zero_or

/-- An infinite factor and an addend that is no NaN. -/
theorem fma_of_inf (ha : (f.read a).isNan = false) (hb : (f.read b).isNan = false)
    (h : ((f.read a).isInf || (f.read b).isInf) = true) (hc : (f.read c).isNan = false) :
    f.fma r a b c = if undefinedProduct (f.read a) (f.read b)
        || f.read c == .inf (!((f.read a).neg != (f.read b).neg)) then (f.nan, flNV)
      else (f.signed ((f.read a).neg != (f.read b).neg) f.infBits, 0) := by
  have hp := mulVal_of_inf ha hb h
  by_cases hu : undefinedProduct (f.read a) (f.read b) = true
  · rw [if_pos hu] at hp
    rw [fma_of_nan (by rw [hp]; rfl), hu, Bool.or_true, Bool.true_or, if_pos rfl, flagIf, if_pos rfl]
  · rw [if_neg hu] at hp
    rw [fma_of_valid hp, addVal_inf_left f r _ hc, Bool.eq_false_iff.mpr hu, Bool.false_or]
    simp only [beq_iff_eq]

/-- A product of finite values, rounded once (R135). -/
theorem mul_of_num {n n' : Bool} {m m' : Nat} {e e' : Int} (ha : f.read a = .num n m e)
    (hb : f.read b = .num n' m' e') :
    f.mul r a b = f.roundSum r (unitsAt (n != n') (m * m') 0 0) (e + e') (n != n') := by
  have hround : f.mul r a b = f.round r false (n != n') (m * m') (e + e') := by
    rw [mul_eq, ha, hb, mulVal_num]
    exact Prod.ext rfl BitVec.or_zero
  rw [hround, round_eq_roundSum]

end

/-- The fmin group picks by value, with -0 below +0 (R137). -/
theorem pick_eq (f : Fmt) (greater number : Bool) (a b : Nat) :
    f.pick greater number a b =
      (if (f.read a).isNan && (f.read b).isNan then f.nan
        else if (f.read a).isNan then (if number then b else f.nan)
        else if (f.read b).isNan then (if number then a else f.nan)
        else if (f.read a).leMin (f.read b) then (if greater then b else a) else if greater then a else b,
       flagIf ((f.read a).isSignalling || (f.read b).isSignalling) flNV) := by
  rw [Fmt.pick]
  cases greater <;> cases (f.read a).leMin (f.read b) <;> rfl

/-- Settles O9: each instruction is the operation of its format, an operation on finite values is the exact
one rounded once, and on the others that of its table. -/
theorem floatArithmetic : Obligations.FloatArithmetic := by
  unfold Obligations.FloatArithmetic
  refine ⟨?_, fun f greater number a b => pick_eq f greater number a b, ?_⟩
  · intro s s1 cu gd t rnd d a b c imm va vb vc w f x y z put pair lower upper
    refine ⟨fun h => ?_, fun h => ?_, fun h => ?_, fun h => ?_⟩
    · have hadd : execFadd gd t rnd d a b s = put (f.add rnd x y) := flt2_of_reads h
      have hsub : execFsub gd t rnd d a b s = put (f.sub rnd x y) := flt2_of_reads h
      have hmul : execFmul gd t rnd d a b s = put (f.mul rnd x y) := flt2_of_reads h
      have hmin : execFmin gd t d a b s = put (f.pick false false x y) := flt2_of_reads h
      have hmax : execFmax gd t d a b s = put (f.pick true false x y) := flt2_of_reads h
      have hminm : execFminm gd t d a b s = put (f.pick false true x y) := flt2_of_reads h
      have hmaxm : execFmaxm gd t d a b s = put (f.pick true true x y) := flt2_of_reads h
      refine ⟨hadd, hsub, hmul, hmin, hmax, hminm, hmaxm, ?_⟩
      rintro rfl
      exact ⟨hadd, hsub, hmul, hmin, hmax, hminm, hmaxm⟩
    · rw [exec_fma, execFma, flt3_of_reads h, fres]
    · have hadd : execHadd2 gd t rnd d a b s
          = pair (f.add rnd (lower va) (lower vb)) (f.add rnd (upper va) (upper vb)) := pair2_of_reads h
      have hmul : execHmul2 gd t rnd d a b s
          = pair (f.mul rnd (lower va) (lower vb)) (f.mul rnd (upper va) (upper vb)) := pair2_of_reads h
      exact ⟨hadd, hmul⟩
    · rw [exec_hfma2, execHfma2_of_reads h, packed, fres]
  · intro f r a b c x y z units once zero inf nan product undefined
    exact ⟨fun n m e n' m' e' hx hy => ⟨add_of_num hx hy, sub_of_num hx hy, mul_of_num hx hy,
        fun n3 m3 e3 hz => fma_of_num hx hy hz, fun n3 hz => fma_of_inf_addend hx hy hz⟩,
      fun h => ⟨add_of_nan h, sub_of_nan h, mul_of_nan h⟩,
      fun h => fma_of_nan_operand h,
      fun n hx hy => ⟨add_of_inf_left hx hy, sub_of_inf_left hx hy⟩,
      fun n m e n' hx hy => ⟨add_of_inf_right hx hy, sub_of_inf_right hx hy⟩,
      fun hx hy h => ⟨mul_of_inf hx hy h, fma_of_inf hx hy h⟩⟩

/-! fcmp, fsgn, fclass and frnd (R138 to R141). -/

/-- The flags of fcmp: NV for any NaN under the ordered conditions, else for a signalling one (R138). -/
theorem condFlags_eq (cond : Cond) (x y : FVal) :
    condFlags cond x y = if (if cond ∈ [Cond.lt, .le, .gt, .ge] then x.isNan || y.isNan
      else x.isSignalling || y.isSignalling) then flNV else 0 := by
  cases cond <;> rfl

theorem newSign_eq (sop : Fin 3) (p q : Bool) :
    newSign sop p q = if sop.val = 0 then q else if sop.val = 1 then !q else p ^^ q := by
  match sop with
  | 0 => rfl
  | 1 => rfl
  | 2 => rfl

theorem signed_eq (f : Fmt) (neg : Bool) (mag : Nat) :
    f.signed neg mag = mag + if neg then f.signBit else 0 := by
  cases neg
  · rfl
  · exact Nat.add_comm _ _

theorem toIntegral_flags (f : Fmt) (r : Rnd) (bits : Nat) :
    (f.toIntegral r bits).2 = if (f.read bits).isSignalling then flNV else 0 := by
  rw [Fmt.toIntegral]
  cases f.read bits <;> rfl

/-- The value of a bit pattern with an exponent field of all ones, in a format with infinities (R127). -/
theorem read_top {f : Fmt} (hf : f.hasInf = true) {bits : Nat}
    (he : bits / 2 ^ f.fbits % 2 ^ f.ebits = 2 ^ f.ebits - 1) :
    f.read bits = if bits % 2 ^ f.fbits = 0 then .inf (f.neg bits)
      else .nan (bits % 2 ^ f.fbits / 2 ^ (f.fbits - 1) == 0 && f != fpE5M2) := by
  simp only [Fmt.read, hf, he, beq_self_eq_true, Bool.and_self, if_true, Fmt.neg]

/-- The value of a bit pattern with any other exponent field. -/
theorem read_below_top {f : Fmt} (hf : f.hasInf = true) {bits : Nat}
    (he : bits / 2 ^ f.fbits % 2 ^ f.ebits ≠ 2 ^ f.ebits - 1) :
    f.read bits = if bits / 2 ^ f.fbits % 2 ^ f.ebits = 0
      then .num (f.neg bits) (bits % 2 ^ f.fbits) f.qmin
      else .num (f.neg bits) (2 ^ f.fbits + bits % 2 ^ f.fbits)
        (f.qmin + (bits / 2 ^ f.fbits % 2 ^ f.ebits : Nat) - 1) := by
  simp only [Fmt.read, hf, beq_eq_false_iff_ne.mpr he, Bool.and_false, Bool.not_true, Bool.false_and,
    Bool.false_eq_true, if_false, Fmt.neg]

/-- The class of an infinity or a NaN: a NaN signals where its quiet bit is clear (R127, R140). -/
theorem classOf_top {f : Fmt} (hf : f.hasInf = true) (h8 : f ≠ fpE5M2) {bits : Nat}
    (he : bits / 2 ^ f.fbits % 2 ^ f.ebits = 2 ^ f.ebits - 1) :
    f.classOf bits = if bits % 2 ^ f.fbits = 0 then (if f.neg bits then 1 else 128)
      else if bits % 2 ^ f.fbits < 2 ^ (f.fbits - 1) then 256 else 512 := by
  have hquiet : (bits % 2 ^ f.fbits / 2 ^ (f.fbits - 1) == 0 && f != fpE5M2)
      = decide (bits % 2 ^ f.fbits < 2 ^ (f.fbits - 1)) := by
    rw [bne_iff_ne.mpr h8, Bool.and_true, Bool.beq_eq_decide_eq, decide_eq_decide]
    exact Nat.div_eq_zero_iff_lt (Nat.two_pow_pos _)
  rw [Fmt.classOf, read_top hf he, hquiet]
  by_cases hm : bits % 2 ^ f.fbits = 0
  · rw [if_pos hm, if_pos hm]
  · rw [if_neg hm, if_neg hm]
    simp only [decide_eq_true_eq]

/-- The class of a zero or a subnormal. -/
theorem classOf_subnormal {f : Fmt} (hf : f.hasInf = true) {bits : Nat}
    (he : bits / 2 ^ f.fbits % 2 ^ f.ebits ≠ 2 ^ f.ebits - 1) (h0 : bits / 2 ^ f.fbits % 2 ^ f.ebits = 0) :
    f.classOf bits = if bits % 2 ^ f.fbits = 0 then (if f.neg bits then 8 else 16)
      else if f.neg bits then 4 else 32 := by
  have hlt : bits % 2 ^ f.fbits < 2 ^ f.fbits := Nat.mod_lt _ (Nat.two_pow_pos _)
  rw [Fmt.classOf, read_below_top hf he, if_pos h0]
  simp only [hlt, decide_true, beq_self_eq_true, Bool.and_self, if_true]

/-- The class of a normal number. -/
theorem classOf_normal {f : Fmt} (hf : f.hasInf = true) {bits : Nat}
    (he : bits / 2 ^ f.fbits % 2 ^ f.ebits ≠ 2 ^ f.ebits - 1) (h0 : bits / 2 ^ f.fbits % 2 ^ f.ebits ≠ 0) :
    f.classOf bits = if f.neg bits then 2 else 64 := by
  have hpos : 2 ^ f.fbits + bits % 2 ^ f.fbits ≠ 0 := by
    have := Nat.two_pow_pos f.fbits
    omega
  have hge : ¬ 2 ^ f.fbits + bits % 2 ^ f.fbits < 2 ^ f.fbits := by omega
  rw [Fmt.classOf, read_below_top hf he, if_neg h0]
  simp only [hpos, hge, decide_false, Bool.false_and, Bool.false_eq_true, if_false]

/-- Settles O10: the flags and signs by their tables, and the class by the exponent field. -/
theorem floatCompareSignClass : Obligations.FloatCompareSignClass := by
  unfold Obligations.FloatCompareSignClass
  refine ⟨?_, fun t bits ht _ => ?_⟩
  · intro s s1 cu gd t rnd cond pd sop d a b imm va vb _ f x y
    refine ⟨fun h => ?_, fun h => ?_, fun h => ?_⟩
    · intro holds r
      have hcmp : execFcmp gd t pd cond d a b s = cu.result s1 d .w32 r := by
        rw [execFcmp, fcmpOp_of_reads h, condFlags_eq, predRes, bitQ]
      exact ⟨hcmp, by rintro rfl; exact hcmp⟩
    · intro sa sb sign
      rw [exec_fsgn, execFsgn, flt2_of_reads h, fres, newSign_eq, signed_eq]
    · exact ⟨by rw [exec_fclass, execFclass, flt1_of_reads h, fres],
        by rw [exec_frnd, execFrnd, flt1_of_reads h, fres, toIntegral_flags]⟩
  · intro f e m top
    have ⟨hf, h8⟩ : f.hasInf = true ∧ f ≠ fpE5M2 := by
      revert ht; cases t <;> decide
    by_cases he : e = top
    · exact (classOf_top hf h8 he).trans (if_pos he).symm
    · rw [if_neg he]
      by_cases h0 : e = 0
      · exact (classOf_subnormal hf he h0).trans (if_pos h0).symm
      · exact (classOf_normal hf he h0).trans (if_neg h0).symm

end Sys2Proof.Machine

/-! The special functions and f2i (R142, R143, R146; family 07): exact values in common units, the integral
square root, the values whose digits are exact and those that keep a tail, and the statement settled. -/

namespace Sys2Proof.Machine

/-! Exact values m times 2^e, in order. -/

/-- One exact value below another, in units of the lesser exponent. -/
def ScaledLt (a : Nat) (p : Int) (b : Nat) (q : Int) : Prop :=
  a * 2 ^ (p - min p q).toNat < b * 2 ^ (q - min p q).toNat

/-- Neither of two exact values below the other. -/
def ScaledEq (a : Nat) (p : Int) (b : Nat) (q : Int) : Prop := ¬ ScaledLt a p b q ∧ ¬ ScaledLt b q a p

/-- The value m times 2^e in units of 2^u, for u no more than e. -/
def inUnits (m : Nat) (e u : Int) : Nat := m * 2 ^ (e - u).toNat

theorem inUnits_self (m : Nat) (e : Int) : inUnits m e e = m := by
  rw [inUnits, Int.sub_self, Int.toNat_zero, Nat.pow_zero, Nat.mul_one]

theorem inUnits_eq {m : Nat} {e u : Int} {n : Nat} (h : e - u = n) : inUnits m e u = m * 2 ^ n := by
  rw [inUnits, h, Int.toNat_natCast]

/-- The units of a value in two steps. -/
theorem inUnits_inUnits (m : Nat) {e u v : Int} (hv : v ≤ u) (hu : u ≤ e) :
    inUnits (inUnits m e u) u v = inUnits m e v := by
  rw [inUnits, inUnits, inUnits, Nat.mul_assoc, ← Nat.pow_add]
  congr 2
  omega

/-- Any common unit decides which of two values is the lesser. -/
theorem scaledLt_iff {a b : Nat} {p q u : Int} (hp : u ≤ p) (hq : u ≤ q) :
    ScaledLt a p b q ↔ inUnits a p u < inUnits b q u := by
  have hmin : u ≤ min p q := Int.le_min.mpr ⟨hp, hq⟩
  rw [← inUnits_inUnits a hmin (Int.min_le_left p q), ← inUnits_inUnits b hmin (Int.min_le_right p q)]
  exact (Nat.mul_lt_mul_right (Nat.two_pow_pos _)).symm

theorem scaledEq_iff {a b : Nat} {p q u : Int} (hp : u ≤ p) (hq : u ≤ q) :
    ScaledEq a p b q ↔ inUnits a p u = inUnits b q u := by
  rw [ScaledEq, scaledLt_iff hp hq, scaledLt_iff hq hp]
  omega

theorem exists_common_unit (p q : Int) : ∃ u, u ≤ p ∧ u ≤ q := ⟨min p q, Int.min_le_left p q, Int.min_le_right p q⟩

/-- A value in a lesser unit is the same value. -/
theorem scaledEq_inUnits (m : Nat) {e u : Int} (h : u ≤ e) : ScaledEq (inUnits m e u) u m e := by
  rw [scaledEq_iff (Int.le_refl u) h, inUnits_self]

theorem scaledEq_zero (p q : Int) : ScaledEq 0 p 0 q := by
  obtain ⟨u, hp, hq⟩ := exists_common_unit p q
  rw [scaledEq_iff hp hq, inUnits, inUnits, Nat.zero_mul, Nat.zero_mul]

/-- A value is above another where it is neither below nor equal. -/
theorem scaledLt_iff_not {a b : Nat} {p q : Int} :
    ScaledLt b q a p ↔ ¬ ScaledLt a p b q ∧ ¬ ScaledEq a p b q := by
  obtain ⟨u, hp, hq⟩ := exists_common_unit p q
  rw [scaledLt_iff hq hp, scaledLt_iff hp hq, scaledEq_iff hp hq]
  omega

/-- A value below a power of two has its leading digit below it. -/
theorem scaledLt_two_pow {m : Nat} (hm : m ≠ 0) {e k : Int} :
    ScaledLt m e 1 k ↔ e + m.log2 < k := by
  rcases Int.le_total e k with h | h
  · rw [scaledLt_iff (Int.le_refl e) h, inUnits_self, inUnits, Nat.one_mul, ← Nat.log2_lt hm]
    omega
  · rw [scaledLt_iff h (Int.le_refl k), inUnits_self, inUnits]
    have hpos : 0 < m * 2 ^ (e - k).toNat := Nat.mul_pos (Nat.pos_of_ne_zero hm) (Nat.two_pow_pos _)
    omega

/-- A value is a power of two where it is its leading digit alone. -/
theorem scaledEq_two_pow {m : Nat} (hm : m ≠ 0) {e k : Int} :
    ScaledEq m e 1 k ↔ m = 2 ^ m.log2 ∧ e + m.log2 = k := by
  constructor
  · intro h
    have hge : ¬ e + m.log2 < k := fun hlt => h.1 ((scaledLt_two_pow hm).mpr hlt)
    have hlt : e + m.log2 < k + 1 := by
      obtain ⟨u, hp, hq⟩ := exists_common_unit e k
      rw [← scaledLt_two_pow hm, scaledLt_iff hp (by omega), (scaledEq_iff hp hq).mp h,
        inUnits, inUnits, Nat.one_mul, Nat.one_mul]
      exact Nat.pow_lt_pow_right Nat.one_lt_two (by omega)
    have hlog : e + m.log2 = k := by omega
    rw [← hlog, scaledEq_iff (Int.le_refl e) (by omega), inUnits_self, inUnits_eq (n := m.log2) (by omega),
      Nat.one_mul] at h
    exact ⟨h, hlog⟩
  · rintro ⟨h, rfl⟩
    rw [scaledEq_iff (Int.le_refl e) (by omega), inUnits_self, inUnits_eq (n := m.log2) (by omega), Nat.one_mul]
    exact h

/-! The integral square root. -/

/-- Each bit keeps the root between r and r + 2^i. -/
theorem isqrtFrom_bounds (i : Nat) {n r : Nat} (hlo : r * r ≤ n) (hhi : n < (r + 2 ^ i) * (r + 2 ^ i)) :
    isqrtFrom i n r * isqrtFrom i n r ≤ n ∧ n < (isqrtFrom i n r + 1) * (isqrtFrom i n r + 1) := by
  induction i generalizing r with
  | zero => exact ⟨hlo, hhi⟩
  | succ i ih =>
    rw [isqrtFrom]
    by_cases h : (r + 2 ^ i) * (r + 2 ^ i) ≤ n
    · rw [if_pos h]
      exact ih h (by rwa [Nat.add_assoc, ← Nat.two_mul, ← Nat.pow_succ'])
    · rw [if_neg h]
      exact ih hlo (Nat.lt_of_not_le h)

theorem isqrt_bounds (n : Nat) : isqrt n * isqrt n ≤ n ∧ n < (isqrt n + 1) * (isqrt n + 1) := by
  refine isqrtFrom_bounds _ (Nat.zero_le n) ?_
  rw [Nat.zero_add, ← Nat.pow_add]
  exact Nat.lt_of_lt_of_le Nat.lt_log2_self (Nat.pow_le_pow_right Nat.two_pos (by omega))

theorem le_isqrt {c n : Nat} (h : c * c ≤ n) : c ≤ isqrt n := by
  obtain ⟨-, hhi⟩ := isqrt_bounds n
  exact Nat.le_of_lt_succ (Nat.mul_self_lt_mul_self_iff.mp (Nat.lt_of_le_of_lt h hhi))

/-! rcp, sqrt and rsq: exact digits, or digits with a tail strictly between two neighbours (R143). -/

/-- A significand d in units of 2^p that is exact, or that stands for the open interval between j and j + 1
in units of 2^(p + 1), with two bits to spare for the rounding. -/
def Stands (f : Fmt) (d : Nat) (p : Int) (exact under above : Nat → Int → Prop) : Prop :=
  exact d p ∨ ∃ j, d = 2 * j + 1 ∧ 2 ^ (f.fbits + 2) ≤ j ∧ under j (p + 1) ∧ above (j + 1) (p + 1)

theorem stands_digits {f : Fmt} {b : Bool} {j : Nat} {p : Int} {exact under above : Nat → Int → Prop}
    (hj : 2 ^ (f.fbits + 2) ≤ j) (hexact : b = true → exact j p)
    (htail : b = false → under j p ∧ above (j + 1) p) :
    Stands f (digits b j p).1 (digits b j p).2 exact under above := by
  cases b with
  | true => exact .inl (hexact rfl)
  | false =>
    refine .inr ⟨j, rfl, hj, ?_⟩
    rw [digits, if_neg Bool.false_ne_true, Int.sub_add_cancel]
    exact htail rfl

/-- What one bit short of a wide enough quotient leaves room for. -/
theorem two_pow_mul_le {c m n : Nat} (h : c + m.log2 + 1 ≤ n) : 2 ^ c * m ≤ 2 ^ n :=
  calc 2 ^ c * m ≤ 2 ^ c * 2 ^ (m.log2 + 1) := Nat.mul_le_mul_left _ (Nat.le_of_lt Nat.lt_log2_self)
    _ = 2 ^ (c + m.log2 + 1) := by rw [← Nat.pow_add, Nat.add_assoc]
    _ ≤ 2 ^ n := Nat.pow_le_pow_right Nat.two_pos h

/-- The value 1 in units of 2^-n. -/
theorem inUnits_one (n : Nat) : inUnits 1 0 (-n) = 2 ^ n := by
  rw [inUnits_eq (n := n) (by omega), Nat.one_mul]

/-- rcp: its digits are those of 1 over the value. -/
theorem rcpNum_stands {f : Fmt} (hf : f.fbits ≤ 23) {m : Nat} (hm : m ≠ 0) (e : Int) :
    Stands f (rcpNum m e).1 (rcpNum m e).2 (fun d p => ScaledEq (d * m) (p + e) 1 0)
      (fun j q => ScaledLt (j * m) (q + e) 1 0) (fun j q => ScaledLt 1 0 (j * m) (q + e)) := by
  have hpos : 0 < m := Nat.pos_of_ne_zero hm
  generalize hk : m.log2 + 64 = k
  have hdiv := Nat.div_add_mod (2 ^ k) m
  have hrem := Nat.mod_lt (2 ^ k) hpos
  have hexp : -e - (k : Int) + e = -(k : Int) := by omega
  have hle : -(k : Int) ≤ 0 := by omega
  rw [rcpNum, hk]
  refine stands_digits ?_ (fun h => ?_) (fun h => ?_)
  · exact (Nat.le_div_iff_mul_le hpos).mpr (two_pow_mul_le (by omega))
  · rw [hexp, scaledEq_iff (Int.le_refl _) hle, inUnits_self, inUnits_one]
    exact Nat.div_mul_cancel (Nat.dvd_of_mod_eq_zero (eq_of_beq h))
  · have hne : 2 ^ k % m ≠ 0 := ne_of_beq_false h
    rw [hexp, scaledLt_iff (Int.le_refl _) hle, scaledLt_iff hle (Int.le_refl _), inUnits_self, inUnits_self,
      inUnits_one, Nat.add_mul, Nat.one_mul, Nat.mul_comm _ m]
    omega

/-- The even exponent of a value, and the value unchanged. -/
theorem evenExp_eq (m : Nat) (e : Int) : ∃ h, 2 * h ≤ e ∧ evenExp m e = (inUnits m e (2 * h), 2 * h) := by
  refine ⟨e / 2, by omega, ?_⟩
  by_cases he : e % 2 = 0
  · rw [evenExp, if_pos he, show 2 * (e / 2) = e by omega, inUnits_self]
  · rw [evenExp, if_neg he, show 2 * (e / 2) = e - 1 by omega, inUnits_eq (n := 1) (by omega), Nat.pow_one,
      Nat.mul_comm]

theorem inUnits_pos {m : Nat} (hm : m ≠ 0) (e u : Int) : 0 < inUnits m e u :=
  Nat.mul_pos (Nat.pos_of_ne_zero hm) (Nat.two_pow_pos _)

/-- sqrt: its digits are those of the square root. -/
theorem sqrtNum_stands {f : Fmt} (hf : f.fbits ≤ 23) {m : Nat} (hm : m ≠ 0) (e : Int) :
    Stands f (sqrtNum m e).1 (sqrtNum m e).2 (fun d p => ScaledEq (d * d) (2 * p) m e)
      (fun j q => ScaledLt (j * j) (2 * q) m e) (fun j q => ScaledLt m e (j * j) (2 * q)) := by
  obtain ⟨h, hle, heq⟩ := evenExp_eq m e
  have hpos := inUnits_pos hm e (2 * h)
  have hunit : inUnits m e (2 * h - 128) = inUnits m e (2 * h) * 2 ^ 128 := by
    rw [← inUnits_inUnits m (show 2 * h - 128 ≤ 2 * h by omega) hle]
    exact inUnits_eq (by omega)
  generalize inUnits m e (2 * h) = m' at heq hpos hunit
  have hexp : 2 * (2 * h / 2 - 64) = 2 * h - 128 := by omega
  have hle' : 2 * h - 128 ≤ e := by omega
  obtain ⟨hlo, hhi⟩ := isqrt_bounds (m' * 2 ^ 128)
  simp only [sqrtNum, heq]
  refine stands_digits ?_ (fun h => ?_) (fun h => ?_)
  · refine le_isqrt ?_
    calc 2 ^ (f.fbits + 2) * 2 ^ (f.fbits + 2) = 2 ^ (f.fbits + 2 + (f.fbits + 2)) := (Nat.pow_add ..).symm
      _ ≤ 2 ^ 128 := Nat.pow_le_pow_right Nat.two_pos (by omega)
      _ ≤ m' * 2 ^ 128 := Nat.le_mul_of_pos_left _ hpos
  · rw [hexp, scaledEq_iff (Int.le_refl _) hle', inUnits_self, hunit]
    exact eq_of_beq h
  · rw [hexp, scaledLt_iff (Int.le_refl _) hle', scaledLt_iff hle' (Int.le_refl _), inUnits_self, inUnits_self,
      hunit]
    exact ⟨Nat.lt_of_le_of_ne hlo (ne_of_beq_false h), hhi⟩

/-- rsq: its digits are those of 1 over the square root. -/
theorem rsqNum_stands {f : Fmt} (hf : f.fbits ≤ 23) {m : Nat} (hm : m ≠ 0) (e : Int) :
    Stands f (rsqNum m e).1 (rsqNum m e).2 (fun d p => ScaledEq (d * d * m) (2 * p + e) 1 0)
      (fun j q => ScaledLt (j * j * m) (2 * q + e) 1 0)
      (fun j q => ScaledLt 1 0 (j * j * m) (2 * q + e)) := by
  obtain ⟨h, hle, heq⟩ := evenExp_eq m e
  have hpos := inUnits_pos hm e (2 * h)
  generalize hk : (inUnits m e (2 * h)).log2 + 64 = k
  have hone : -((2 * k : Nat) : Int) ≤ 0 := by omega
  have hexp : -((2 * k : Nat) : Int) ≤ 2 * (-(2 * h / 2) - (k : Int)) + e := by omega
  have hsquare (d : Nat) : inUnits (d * d * m) (2 * (-(2 * h / 2) - (k : Int)) + e) (-((2 * k : Nat) : Int))
      = d * d * inUnits m e (2 * h) := by
    rw [inUnits, inUnits, Nat.mul_assoc (d * d)]
    congr 3
    omega
  generalize inUnits m e (2 * h) = m' at heq hpos hk hsquare
  obtain ⟨hlo, hhi⟩ := isqrt_bounds (2 ^ (2 * k) / m')
  simp only [rsqNum, heq, hk]
  refine stands_digits ?_ (fun h => ?_) (fun h => ?_)
  · refine le_isqrt ((Nat.le_div_iff_mul_le hpos).mpr ?_)
    rw [← Nat.pow_add]
    exact two_pow_mul_le (by omega)
  · rw [scaledEq_iff hexp hone, hsquare, inUnits_one]
    exact eq_of_beq h
  · rw [scaledLt_iff hexp hone, scaledLt_iff hone hexp, hsquare, hsquare, inUnits_one]
    exact ⟨Nat.lt_of_le_of_ne ((Nat.le_div_iff_mul_le hpos).mp hlo) (ne_of_beq_false h),
      (Nat.div_lt_iff_lt_mul hpos).mp hhi⟩

/-! Reading and rounding: a value that its format holds is kept, and an odd significand below the last bit
kept is inexact (R127, R130). -/

/-- What both formats of the special functions have: infinities, and their widths. -/
theorem specialFmt_bounds {f : Fmt} (hf : f ∈ [fp16, fp32]) :
    f.hasInf = true ∧ 2 ≤ f.ebits ∧ 10 ≤ f.fbits ∧ f.fbits ≤ 23
    ∧ -149 ≤ f.qmin ∧ f.qmin ≤ -24 ∧ 15 ≤ f.bias ∧ f.bias ≤ 127 := by
  simp only [List.mem_cons, List.not_mem_nil, or_false] at hf
  rcases hf with rfl | rfl <;> decide

theorem two_mul_bias {f : Fmt} (he : 2 ≤ f.ebits) : 2 * f.bias + 2 = 2 ^ f.ebits ∧ 1 ≤ f.bias := by
  have hpow : 2 ^ f.ebits = 2 * 2 ^ (f.ebits - 1) := by rw [← Nat.pow_succ']; congr 1; omega
  have htwo : 2 ^ 1 ≤ 2 ^ (f.ebits - 1) := Nat.pow_le_pow_right Nat.two_pos (by omega)
  rw [Fmt.bias]
  omega

theorem signed_fields (f : Fmt) (neg : Bool) {mag : Nat} (h : mag < f.signBit) :
    f.neg (f.signed neg mag) = neg ∧ f.signed neg mag / 2 ^ f.fbits % 2 ^ f.ebits = mag / 2 ^ f.fbits
    ∧ f.signed neg mag % 2 ^ f.fbits = mag % 2 ^ f.fbits := by
  have hsplit : f.signBit = 2 ^ f.fbits * 2 ^ f.ebits := by rw [Fmt.signBit, Nat.pow_add, Nat.mul_comm]
  have hexp : mag / 2 ^ f.fbits < 2 ^ f.ebits := Nat.div_lt_of_lt_mul (by rwa [← hsplit])
  have hmod := Nat.mod_eq_of_lt hexp
  cases neg with
  | false =>
    rw [Fmt.signed, if_neg Bool.false_ne_true]
    exact ⟨by rw [Fmt.neg, Nat.div_eq_of_lt h]; rfl, hmod, rfl⟩
  | true =>
    rw [Fmt.signed, if_pos rfl]
    refine ⟨?_, ?_, ?_⟩
    · rw [Fmt.neg, Nat.add_div_left _ (by omega), Nat.div_eq_of_lt h]
      rfl
    · rw [hsplit, Nat.mul_add_div (Nat.two_pow_pos _), Nat.add_mod_left, hmod]
    · rw [hsplit, Nat.mul_add_mod]

theorem infBits_le_signBit (f : Fmt) : f.infBits ≤ f.signBit := by
  rw [Fmt.infBits, Fmt.signBit, Nat.pow_add]
  exact Nat.mul_le_mul_right _ (Nat.sub_le _ 1)

/-- A magnitude below infinity reads as a subnormal or a normal number of its sign (R127). -/
theorem read_signed {f : Fmt} (hf : f.hasInf = true) (neg : Bool) {mag : Nat} (h : mag < f.infBits) :
    f.read (f.signed neg mag) = if mag / 2 ^ f.fbits = 0 then .num neg (mag % 2 ^ f.fbits) f.qmin
      else .num neg (2 ^ f.fbits + mag % 2 ^ f.fbits) (f.qmin + (mag / 2 ^ f.fbits : Nat) - 1) := by
  have hexp : mag / 2 ^ f.fbits < 2 ^ f.ebits - 1 :=
    Nat.div_lt_of_lt_mul (by rwa [Nat.mul_comm, ← Fmt.infBits])
  obtain ⟨hneg, hfield, hfrac⟩ := signed_fields f neg (Nat.lt_of_lt_of_le h (infBits_le_signBit f))
  rw [read_below_top hf (by omega), hneg, hfield, hfrac]

section
variable {f : Fmt} (he : 2 ≤ f.ebits) {k : Nat} {q : Int} (hq : f.qmin ≤ q) (htop : q + f.fbits ≤ f.bias)
  (hk : k < 2 ^ (f.fbits + 1))
include he hq htop hk

/-- A significand k in units of 2^q, placed as a magnitude, lies below infinity. -/
theorem placed_lt_infBits : (q - f.qmin).toNat * 2 ^ f.fbits + k < f.infBits := by
  obtain ⟨hbias, -⟩ := two_mul_bias he
  have hqmin : f.qmin = 1 - (f.bias : Int) - f.fbits := rfl
  rw [Nat.pow_succ] at hk
  calc (q - f.qmin).toNat * 2 ^ f.fbits + k < ((q - f.qmin).toNat + 2) * 2 ^ f.fbits := by
        rw [Nat.add_mul]
        omega
    _ ≤ (2 ^ f.ebits - 1) * 2 ^ f.fbits := Nat.mul_le_mul_right _ (by omega)

/-- Placed so, it reads as itself: as a subnormal in the least unit, else with its leading digit implied. -/
theorem read_placed (hf : f.hasInf = true) (neg : Bool) (hn : q = f.qmin ∨ 2 ^ f.fbits ≤ k) :
    f.read (f.signed neg ((q - f.qmin).toNat * 2 ^ f.fbits + k)) = .num neg k q := by
  have hpos := Nat.two_pow_pos f.fbits
  obtain ⟨g, hg⟩ : ∃ g : Nat, q = f.qmin + g := ⟨(q - f.qmin).toNat, by omega⟩
  rw [read_signed hf neg (placed_lt_infBits he hq htop hk), show (q - f.qmin).toNat = g by omega]
  rcases Nat.lt_or_ge k (2 ^ f.fbits) with hlt | hge
  · obtain rfl : g = 0 := by omega
    rw [Nat.zero_mul, Nat.zero_add, if_pos (Nat.div_eq_of_lt hlt), Nat.mod_eq_of_lt hlt, hg]
    simp
  · obtain ⟨j, rfl⟩ := Nat.exists_eq_add_of_le hge
    have hj : j < 2 ^ f.fbits := by
      rw [Nat.pow_succ] at hk
      omega
    have hmag : g * 2 ^ f.fbits + (2 ^ f.fbits + j) = 2 ^ f.fbits * (g + 1) + j := by
      rw [Nat.mul_add, Nat.mul_one, Nat.mul_comm g, Nat.add_assoc]
    rw [hmag, Nat.mul_add_div hpos, Nat.div_eq_of_lt hj, Nat.mul_add_mod, Nat.mod_eq_of_lt hj, if_neg (by omega), hg]
    congr 1
    omega

end

/-- The finite values of a format: a significand of its width, and an exponent of its range. -/
theorem read_num_bounds {f : Fmt} (hf : f.hasInf = true) (he : 2 ≤ f.ebits) {x : Nat} {n : Bool} {m : Nat}
    {e : Int} (h : f.read x = .num n m e) :
    f.qmin ≤ e ∧ m < 2 ^ (f.fbits + 1) ∧ e + f.fbits ≤ f.bias := by
  obtain ⟨hbias, hone⟩ := two_mul_bias he
  have hqmin : f.qmin = 1 - (f.bias : Int) - f.fbits := rfl
  have hfrac : x % 2 ^ f.fbits < 2 ^ f.fbits := Nat.mod_lt _ (Nat.two_pow_pos _)
  have hexp : x / 2 ^ f.fbits % 2 ^ f.ebits < 2 ^ f.ebits := Nat.mod_lt _ (Nat.two_pow_pos _)
  rw [Nat.pow_succ]
  by_cases htop : x / 2 ^ f.fbits % 2 ^ f.ebits = 2 ^ f.ebits - 1
  · rw [read_top hf htop] at h
    split at h <;> cases h
  · rw [read_below_top hf htop] at h
    split at h <;> cases h <;> omega

theorem roundAt_of_le (r : Rnd) (neg : Bool) (m : Nat) {e q : Int} (h : q ≤ e) :
    roundAt r neg m e q = (m * 2 ^ (e - q).toNat, false) := if_pos h

/-- A significand in units of the last bit kept fills the format's width, or that bit is the least of all. -/
theorem kept_significand {f : Fmt} {m : Nat} {e q : Int} (hm : m ≠ 0)
    (hq : q = max (e + m.log2 - f.fbits) f.qmin) (hle : q ≤ e) :
    m * 2 ^ (e - q).toNat < 2 ^ (f.fbits + 1) ∧ (q = f.qmin ∨ 2 ^ f.fbits ≤ m * 2 ^ (e - q).toNat) := by
  have hlo := Nat.log2_self_le hm
  have hhi : m < 2 ^ (m.log2 + 1) := Nat.lt_log2_self
  refine ⟨?_, ?_⟩
  · calc m * 2 ^ (e - q).toNat < 2 ^ (m.log2 + 1) * 2 ^ (e - q).toNat :=
          Nat.mul_lt_mul_of_pos_right hhi (Nat.two_pow_pos _)
      _ = 2 ^ (m.log2 + 1 + (e - q).toNat) := (Nat.pow_add ..).symm
      _ ≤ 2 ^ (f.fbits + 1) := Nat.pow_le_pow_right Nat.two_pos (by omega)
  · rcases Int.le_total (e + m.log2 - f.fbits) f.qmin with h | h
    · exact .inl (by omega)
    · refine .inr ?_
      calc 2 ^ f.fbits = 2 ^ m.log2 * 2 ^ (e - q).toNat := by rw [← Nat.pow_add]; congr 1; omega
        _ ≤ m * 2 ^ (e - q).toNat := Nat.mul_le_mul_right _ hlo

/-- Rounding a value that the format holds keeps it, with no flag. -/
theorem round_exact {f : Fmt} (hf : f.hasInf = true) (he : 2 ≤ f.ebits) (r : Rnd) (sat neg : Bool) {m : Nat}
    {e : Int} (hm : m.log2 ≤ f.fbits) (hmin : f.qmin ≤ e) (htop : e + m.log2 ≤ f.bias) :
    (f.round r sat neg m e).2 = 0
    ∧ ∃ k q, f.read (f.round r sat neg m e).1 = .num neg k q ∧ ScaledEq k q m e := by
  obtain ⟨-, hone⟩ := two_mul_bias he
  have hqmin : f.qmin = 1 - (f.bias : Int) - f.fbits := rfl
  by_cases h0 : m = 0
  · subst h0
    have hread := read_placed he (Int.le_refl f.qmin) (by omega) (Nat.two_pow_pos _) hf neg (.inl rfl)
    rw [Fmt.round, if_pos rfl]
    refine ⟨rfl, 0, f.qmin, ?_, scaledEq_zero _ _⟩
    rwa [Int.sub_self, Int.toNat_zero, Nat.zero_mul] at hread
  · generalize hqq : max (e + m.log2 - f.fbits) f.qmin = q
    have hle : q ≤ e := by omega
    obtain ⟨hk, hn⟩ := kept_significand h0 hqq.symm hle
    have hmin' : f.qmin ≤ q := by omega
    have htop' : q + f.fbits ≤ f.bias := by omega
    have hread := read_placed he hmin' htop' hk hf neg hn
    have hmax : (q - f.qmin).toNat * 2 ^ f.fbits + m * 2 ^ (e - q).toNat ≤ f.maxFinite := by
      rw [Fmt.maxFinite, if_pos hf]
      exact Nat.le_sub_one_of_lt (placed_lt_infBits he hmin' htop' hk)
    have hround : f.round r sat neg m e
        = (f.signed neg ((q - f.qmin).toNat * 2 ^ f.fbits + m * 2 ^ (e - q).toNat), 0) := by
      rw [Fmt.round, if_neg h0, Fmt.roundNum]
      simp only [hqq, roundAt_of_le r neg m hle, if_neg (Nat.not_lt.mpr hmax), Bool.false_and]
      exact Prod.ext rfl BitVec.or_self
    rw [hround]
    exact ⟨rfl, _, q, hread, scaledEq_inUnits m hle⟩

theorem roundAt_inexact_of_odd (r : Rnd) (neg : Bool) {m : Nat} {e q : Int} (hm : m % 2 = 1) (h : e < q) :
    (roundAt r neg m e q).2 = true := by
  obtain ⟨s, hs⟩ : ∃ s, (q - e).toNat = s + 1 := ⟨(q - e).toNat - 1, by omega⟩
  have hodd : m % 2 ^ (s + 1) ≠ 0 := fun h0 => by
    have hmod : m % 2 ^ (s + 1) % 2 = m % 2 := Nat.mod_mod_of_dvd m ⟨2 ^ s, Nat.pow_succ'⟩
    omega
  rw [roundAt, if_neg (by omega)]
  simp only [hs]
  exact bne_iff_ne.mpr hodd

/-- An inexact rounding sets NX, whether it overflows or not (R130). -/
theorem roundNum_inexact {f : Fmt} {r : Rnd} {sat neg : Bool} {m : Nat} {e : Int}
    (h : (roundAt r neg m e (max (e + m.log2 - f.fbits) f.qmin)).2 = true) :
    (f.roundNum r sat neg m e).2 &&& flNX = flNX := by
  have hover : (flOF ||| flNX) &&& flNX = flNX := by decide
  have hkept (tiny : Bool) : (flagIf true flNX ||| flagIf tiny flUF) &&& flNX = flNX := by
    cases tiny <;> decide
  simp only [Fmt.roundNum, h]
  split
  · exact hover
  · exact hkept _

/-- An odd significand with digits past the last one kept is inexact. -/
theorem round_inexact_of_odd {f : Fmt} {r : Rnd} {sat neg : Bool} {m : Nat} {e : Int} (hm : m % 2 = 1)
    (h : f.fbits < m.log2 ∨ e < f.qmin) : (f.round r sat neg m e).2 &&& flNX = flNX := by
  rw [Fmt.round, if_neg (by omega)]
  exact roundNum_inexact (roundAt_inexact_of_odd r neg hm (by omega))

/-! The results within a bound (R143): their flags are those of the nearest value; with .f16, and where it is
exact, they are the nearest value. -/

section
variable (f : Fmt) (fn x : Nat) (b : Bound) (keep neg : Bool) (m : Nat) (e : Int)

theorem bounded_eq : bounded f fn x b keep (neg, m, e) =
    if f == fp32 && (f.round .rn false neg m e).2 &&& flNX != 0 then
      (offsetBits (Config.specialOffset fn (BitVec.ofNat 32 x)) b keep (f.round .rn false neg m e).1 neg m e,
        (f.round .rn false neg m e).2)
    else f.round .rn false neg m e := rfl

theorem bounded_flags : (bounded f fn x b keep (neg, m, e)).2 = (f.round .rn false neg m e).2 := by
  rw [bounded_eq]
  split <;> rfl

theorem bounded_of_exact (h : (f.round .rn false neg m e).2 &&& flNX = 0) :
    bounded f fn x b keep (neg, m, e) = f.round .rn false neg m e := by
  rw [bounded_eq, h, bne_self_eq_false, Bool.and_false, if_neg Bool.false_ne_true]

theorem bounded_fp16 : bounded fp16 fn x b keep (neg, m, e) = fp16.round .rn false neg m e := rfl

end

/-! ex2 (R143). -/

theorem natCast_mul_two_pow (m n : Nat) : ((m * 2 ^ n : Nat) : Int) = m * 2 ^ n :=
  (Int.natCast_mul m (2 ^ n)).trans (congrArg _ (Int.natCast_pow 2 n))

/-- 2 to an integer is that power of two, exactly. -/
theorem ex2Num_of_int {n : Bool} {m : Nat} {e k : Int} (hm : m ≠ 0) (he : -160 ≤ e)
    (hval : ScaledEq m e k.natAbs 0) (hsign : decide (k < 0) = n) (hk : k.natAbs < 2 ^ 9) :
    ex2Num n m e = (1, k) := by
  have hfix : m * 2 ^ (e + 160).toNat = k.natAbs * 2 ^ 160 := (scaledEq_iff he (by decide)).mp hval
  have htop : e + m.log2 < 9 := by
    rw [← scaledLt_two_pow hm, scaledLt_iff he (by decide), inUnits_eq (e := 9) (n := 169) rfl]
    exact Nat.lt_of_le_of_lt (Nat.le_of_eq hfix) (by omega)
  have hx : (if n then -((m : Int) * 2 ^ (e + 160).toNat) else (m : Int) * 2 ^ (e + 160).toNat)
      = k * 2 ^ 160 := by
    rw [← natCast_mul_two_pow, hfix]
    subst hsign
    by_cases h : k < 0
    · rw [if_pos (decide_eq_true h)]
      omega
    · rw [if_neg (fun hd => h (of_decide_eq_true hd))]
      omega
  rw [ex2Num, if_neg (by omega)]
  simp only [hx]
  rw [Int.mul_ediv_cancel _ (by decide), Int.mul_emod_left]
  rfl

/-- 2 to any other value has a tail, or lies past every format. -/
theorem ex2Num_of_not_int {n : Bool} {m : Nat} {e : Int} (he : -160 ≤ e)
    (hval : ∀ k, ¬ ScaledEq m e k 0) :
    ex2Num n m e = (1, if n then -512 else 512) ∨ ∃ j q, ex2Num n m e = (2 * j + 1, q) ∧ 2 ^ 160 ≤ j := by
  by_cases htop : 9 ≤ e + m.log2
  · exact .inl (by rw [ex2Num, if_pos htop])
  · refine .inr ?_
    generalize hx : (if n then -((m : Int) * 2 ^ (e + 160).toNat) else (m : Int) * 2 ^ (e + 160).toNat) = x
    have hfrac : (x % 2 ^ 160).toNat ≠ 0 := fun h0 => by
      have hdvd : m * 2 ^ (e + 160).toNat % 2 ^ 160 = 0 := by
        rw [← natCast_mul_two_pow] at hx
        generalize m * 2 ^ (e + 160).toNat = y at hx ⊢
        cases n with
        | true =>
          rw [if_pos rfl] at hx
          omega
        | false =>
          rw [if_neg Bool.false_ne_true] at hx
          omega
      obtain ⟨k, hk⟩ := Nat.dvd_of_mod_eq_zero hdvd
      exact hval k ((scaledEq_iff he (by decide)).mpr (hk.trans (Nat.mul_comm _ _)))
    rw [ex2Num, if_neg htop]
    simp only [hx, if_neg hfrac]
    exact ⟨_, _, rfl, Nat.le_add_right _ _⟩

/-- 2 to a value that is no integer is inexact. -/
theorem ex2_inexact {f : Fmt} (hf : f ∈ [fp16, fp32]) {n : Bool} {m : Nat} {e : Int} (he : -160 ≤ e)
    (hval : ∀ k, ¬ ScaledEq m e k 0) :
    (f.round .rn false false (ex2Num n m e).1 (ex2Num n m e).2).2 &&& flNX = flNX := by
  obtain ⟨-, -, -, hfbits, hlow, -, -, -⟩ := specialFmt_bounds hf
  rcases ex2Num_of_not_int he hval with h | ⟨j, q, h, hj⟩
  · rw [h]
    cases n with
    | true => exact round_inexact_of_odd rfl (.inr (by simp only [if_true]; omega))
    | false =>
      simp only [List.mem_cons, List.not_mem_nil, or_false] at hf
      rcases hf with rfl | rfl <;> decide
  · rw [h]
    have hlog : 160 ≤ (2 * j + 1).log2 := (Nat.le_log2 (by omega)).mpr (by omega)
    exact round_inexact_of_odd (by omega) (.inl (Nat.lt_of_le_of_lt hfbits (Nat.lt_of_lt_of_le (by decide) hlog)))

/-! lg2 (R143). -/

/-- The logarithm of a power of two is that integer, exactly. -/
theorem lg2Num_of_two_pow {m : Nat} {e k : Int} (hm : m = 2 ^ m.log2) (hk : e + m.log2 = k) :
    lg2Num m e = (decide (k < 0), k.natAbs, 0) := by
  rw [lg2Num, if_pos hm, hk]

theorem lg2Num_of_not_two_pow {m : Nat} {e : Int} (hm : m ≠ 2 ^ m.log2) :
    ∃ s j, lg2Num m e = (s, 2 * j + 1, -161) := by
  rw [lg2Num, if_neg hm]
  exact ⟨_, _, rfl⟩

/-- lg2's argument lies in [0.5, 2] where it is neither below 0.5 nor above 2. -/
theorem nearOne_iff {m : Nat} (hm : m ≠ 0) (e : Int) :
    nearOne m e = true ↔ ¬ (ScaledLt m e 1 (-1) ∨ ScaledLt 1 1 m e) := by
  have habove : ScaledLt 1 1 m e ↔ 1 ≤ e + m.log2 ∧ ¬ (m = 2 ^ m.log2 ∧ e + m.log2 = 1) := by
    rw [scaledLt_iff_not, scaledLt_two_pow hm, scaledEq_two_pow hm, Int.not_lt]
  rw [scaledLt_two_pow hm, habove, nearOne]
  simp only [Bool.and_eq_true, Bool.or_eq_true, decide_eq_true_eq, beq_iff_eq]
  omega

/-! sin and cos (R143). -/

theorem waveNum_true (m : Nat) (e : Int) :
    waveNum true m e = ((waveNum false m e).1, -(waveNum false m e).2.1, (waveNum false m e).2.2) := by
  simp only [waveNum, if_true, Bool.false_eq_true, if_false]

theorem waveDigits_odd (v : Int) : ∃ s j, waveDigits v = (s, 2 * j + 1, -301) := ⟨_, _, rfl⟩

theorem waveDigits_neg (v : Int) : (waveDigits (-v)).2 = (waveDigits v).2 := by
  rw [waveDigits, waveDigits, Int.natAbs_neg]

theorem sinNum_odd (n : Bool) (m : Nat) (e : Int) : ∃ s j, sinNum n m e = (s, 2 * j + 1, -301) := by
  rw [sinNum]
  obtain ⟨q, sn, cs⟩ := waveNum n m e
  exact waveDigits_odd _

theorem cosNum_odd (n : Bool) (m : Nat) (e : Int) : ∃ s j, cosNum n m e = (s, 2 * j + 1, -301) := by
  rw [cosNum]
  obtain ⟨q, sn, cs⟩ := waveNum n m e
  exact waveDigits_odd _

/-- The sine of a negative argument has the digits of its magnitude's. -/
theorem sinNum_true (m : Nat) (e : Int) : (sinNum true m e).2 = (sinNum false m e).2 := by
  rw [sinNum, sinNum, waveNum_true]
  obtain ⟨q, sn, cs⟩ := waveNum false m e
  simp only [if_true, Bool.false_eq_true, if_false]
  rw [← waveDigits_neg]
  congr 2
  split <;> rw [Int.neg_neg]

/-- The cosine does not depend on the argument's sign. -/
theorem cosNum_true (m : Nat) (e : Int) : cosNum true m e = cosNum false m e := by
  rw [cosNum, cosNum, waveNum_true]
  obtain ⟨q, sn, cs⟩ := waveNum false m e
  simp only [if_true, Bool.false_eq_true, if_false, Int.neg_neg]

/-! The offset of a result within a bound (R143, log 3). -/

/-- The distance that a bound allows from a value, in units of a power of two. -/
def Bound.most (b : Bound) (m : Nat) (e : Int) : Nat × Int :=
  match b with
  | .ulps k => (k, max (e + m.log2) (-126) - 23)
  | .absolute k => (1, -(k : Int))

theorem unitsAt_of_le (n : Bool) (m : Nat) {e u v : Int} (hv : v ≤ u) (hu : u ≤ e) :
    unitsAt n m e v = unitsAt n m e u * 2 ^ (u - v).toNat := by
  rw [unitsAt, unitsAt, show (e - v).toNat = (e - u).toNat + (u - v).toNat by omega, Nat.pow_add, ← Nat.mul_assoc,
    natCast_mul_two_pow (m * 2 ^ (e - u).toNat), Int.mul_assoc]

theorem unitsAt_false (m : Nat) (e u : Int) : unitsAt false m e u = (m * 2 ^ (e - u).toNat : Nat) := by
  simp [unitsAt]

theorem unitsAt_true (m : Nat) (e u : Int) : unitsAt true m e u = -(m * 2 ^ (e - u).toNat : Nat) := by
  simp [unitsAt]

theorem withinBound_of_num {b : Bound} {cand : Nat} {neg : Bool} {m : Nat} {e : Int} {n' : Bool} {m' : Nat}
    {e' : Int} (hread : fp32.read cand = .num n' m' e') :
    withinBound b cand neg m e = decide ((sumNum false (sumNum n' m' e' (!neg) m e).1.natAbs
      (sumNum n' m' e' (!neg) m e).2 true (b.most m e).1 (b.most m e).2).1 ≤ 0) := by
  cases b with
  | ulps k =>
    have hulp : max (e + (m.log2 : Int) - 23) (-149) = max (e + m.log2) (-126) - 23 := by omega
    simp only [withinBound, hread, Bound.most, hulp]
    rfl
  | absolute k =>
    simp only [withinBound, hread, Bound.most]
    rfl

/-- Within a bound, the distance from the exact value is at most what the bound allows, in common units. -/
theorem withinBound_distance {b : Bound} {cand : Nat} {neg : Bool} {m : Nat} {e : Int}
    (h : withinBound b cand neg m e = true) :
    ∃ n' m' e', fp32.read cand = .num n' m' e' ∧
      let u := min (min e e') (b.most m e).2
      (unitsAt n' m' e' u - unitsAt neg m e u).natAbs
        ≤ (b.most m e).1 * 2 ^ ((b.most m e).2 - u).toNat := by
  cases hread : fp32.read cand with
  | nan s => simp [withinBound, hread] at h
  | inf n' => simp [withinBound, hread] at h
  | num n' m' e' =>
    refine ⟨n', m', e', rfl, ?_⟩
    have hle : min e' e ≤ e' ∧ min e' e ≤ e := ⟨Int.min_le_left _ _, Int.min_le_right _ _⟩
    rw [withinBound_of_num hread, decide_eq_true_eq, sumNum_eq, sumNum_eq, unitsAt_not] at h
    generalize b.most m e = most at h ⊢
    rw [Int.min_comm e e']
    dsimp only at h ⊢
    generalize min e' e = w at hle h ⊢
    generalize hu : min w most.2 = u at h ⊢
    have huw : u ≤ w := by omega
    rw [unitsAt_of_le n' m' huw hle.1, unitsAt_of_le neg m huw hle.2, ← Int.sub_mul, Int.natAbs_mul,
      Int.natAbs_pow, show Int.natAbs 2 = 2 from rfl, Int.sub_eq_add_neg]
    simp only [unitsAt_false, unitsAt_true] at h
    omega

/-- A result is the nearest value or lies within its bound; with keep, only where the nearest is normal. -/
theorem offsetBits_cases (offset : Int) (b : Bound) (keep : Bool) (near : Nat) (neg : Bool) (m : Nat) (e : Int) :
    offsetBits offset b keep near neg m e = near
    ∨ withinBound b (offsetBits offset b keep near neg m e) neg m e = true
      ∧ (keep = true → 2 ^ 23 ≤ near % 2 ^ 31) := by
  unfold offsetBits
  extract_lets mag at0 cand normal
  split
  case isTrue h =>
    simp only [Bool.and_eq_true, Bool.or_eq_true, decide_eq_true_eq] at h
    obtain ⟨⟨-, hin⟩, hnormal⟩ := h
    refine .inr ⟨hin, fun hk => ?_⟩
    subst hk
    have hnormal : normal = true := by simpa using hnormal
    simp only [normal, Bool.and_eq_true, decide_eq_true_eq] at hnormal
    obtain ⟨⟨hnear, -⟩, -⟩ := hnormal
    exact hnear
  case isFalse => exact .inl rfl

/-- A .f32 result: the nearest value, or one within its bound; with keep, the nearest where that is not normal. -/
theorem bounded_fp32_cases (fn x : Nat) (b : Bound) (keep neg : Bool) (m : Nat) (e : Int) :
    bounded fp32 fn x b keep (neg, m, e) = fp32.round .rn false neg m e
    ∨ withinBound b (bounded fp32 fn x b keep (neg, m, e)).1 neg m e = true
      ∧ (keep = true → 2 ^ 23 ≤ (fp32.round .rn false neg m e).1 % 2 ^ 31) := by
  rw [bounded_eq]
  generalize fp32.round .rn false neg m e = near
  split
  case isTrue => exact (offsetBits_cases ..).imp_left fun h => Prod.ext h rfl
  case isFalse => exact .inl rfl

/-! The tables of R142 and R146. -/

theorem read_infBits {f : Fmt} (hf : f ∈ [fp16, fp32]) (n : Bool) :
    f.read (f.signed n f.infBits) = .inf n := by
  simp only [List.mem_cons, List.not_mem_nil, or_false] at hf
  rcases hf with rfl | rfl <;> cases n <;> decide

theorem read_zero {f : Fmt} (hf : f ∈ [fp16, fp32]) (n : Bool) :
    f.read (f.signed n 0) = .num n 0 f.qmin := by
  simp only [List.mem_cons, List.not_mem_nil, or_false] at hf
  rcases hf with rfl | rfl <;> cases n <;> decide

/-- f2i of a finite value: its integral value, checked against the range of the type. -/
theorem floatToInt_num (t : Ty) {f : Fmt} (r : Rnd) (sat : Bool) {x : Nat} {n : Bool} {m : Nat} {e : Int}
    (h : f.read x = .num n m e) :
    let k := roundAt r n m e 0
    let v : Int := if n then -(k.1 : Int) else k.1
    floatToInt t f r sat x =
      if tyLo t ≤ v ∧ v ≤ tyHi t then (v, if k.2 then flNX else 0)
      else (if sat then (if v < tyLo t then tyLo t else tyHi t) else v, flNV) := by
  intro k v
  have hmodel : floatToInt t f r sat x = if v < tyLo t then (if sat then tyLo t else v, flNV)
      else if tyHi t < v then (if sat then tyHi t else v, flNV) else (v, flagIf k.2 flNX) := by
    simp only [floatToInt, h]
    rfl
  clear_value v
  rw [hmodel]
  by_cases hrange : tyLo t ≤ v ∧ v ≤ tyHi t
  · rw [if_pos hrange, if_neg (by omega), if_neg (by omega)]
    rfl
  · rw [if_neg hrange]
    by_cases hlo : v < tyLo t
    · rw [if_pos hlo, if_pos hlo]
    · rw [if_neg hlo, if_pos (by omega), if_neg hlo]

section
variable {f : Fmt} {x m : Nat} {e : Int} {n : Bool} (r : Rnd) (hm : m ≠ 0)
include hm

/-! Each function at a number other than zero. -/

theorem rcpOp_num (h : f.read x = .num n m e) :
    rcpOp f r x = f.roundNum r false n (rcpNum m e).1 (rcpNum m e).2 := by
  simp only [rcpOp, h, if_neg hm]

theorem sqrtOp_num (h : f.read x = .num false m e) :
    sqrtOp f r x = f.roundNum r false false (sqrtNum m e).1 (sqrtNum m e).2 := by
  simp only [sqrtOp, h, if_neg hm, Bool.false_eq_true, if_false]

theorem rsqOp_num (h : f.read x = .num false m e) :
    rsqOp f x = bounded f 1 x (.ulps 1) false (false, (rsqNum m e).1, (rsqNum m e).2) := by
  simp only [rsqOp, h, if_neg hm, Bool.false_eq_true, if_false]

theorem ex2Op_num (h : f.read x = .num n m e) :
    ex2Op f x = bounded f 3 x (.ulps 2) true (false, (ex2Num n m e).1, (ex2Num n m e).2) := by
  simp only [ex2Op, h, if_neg hm]

theorem lg2Op_num (h : f.read x = .num false m e) :
    lg2Op f x = bounded f 4 x (if nearOne m e then .absolute 22 else .ulps 2) false (lg2Num m e) := by
  simp only [lg2Op, h, if_neg hm, Bool.false_eq_true, if_false]

theorem sinOp_num (h : f.read x = .num n m e) :
    sinOp f x = bounded f 5 x (.absolute 21) false (sinNum n m e) := by
  simp only [sinOp, h, if_neg hm]

theorem cosOp_num (h : f.read x = .num n m e) :
    cosOp f x = bounded f 6 x (.absolute 21) false (cosNum n m e) := by
  simp only [cosOp, h, if_neg hm]

end

/-- lg2's bound is absolute where its argument lies in [0.5, 2]. -/
theorem lg2Op_bound {f : Fmt} {x m : Nat} {e : Int} (hm : m ≠ 0) (h : f.read x = .num false m e)
    {_ : Decidable (ScaledLt m e 1 (-1) ∨ ScaledLt 1 1 m e)} :
    lg2Op f x = bounded f 4 x (if ScaledLt m e 1 (-1) ∨ ScaledLt 1 1 m e then .ulps 2 else .absolute 22) false
      (lg2Num m e) := by
  rw [lg2Op_num hm h]
  congr 1
  by_cases hnear : nearOne m e = true
  · rw [if_pos hnear, if_neg ((nearOne_iff hm e).mp hnear)]
  · rw [if_neg hnear, if_pos (Classical.not_not.mp fun hn => hnear ((nearOne_iff hm e).mpr hn))]

/-- The negative numbers have no root and no logarithm. -/
theorem specialOps_of_negative {f : Fmt} (r : Rnd) {x m : Nat} {e : Int} (h : f.read x = .num true m e)
    (hm : m ≠ 0) : rsqOp f x = (f.nan, flNV) ∧ sqrtOp f r x = (f.nan, flNV) ∧ lg2Op f x = (f.nan, flNV) := by
  simp only [rsqOp, sqrtOp, lg2Op, h, if_neg hm, if_true, invalid, and_self]

theorem specialOps_of_nan {f : Fmt} (r : Rnd) {x : Nat} {sig : Bool} (h : f.read x = .nan sig) :
    let nan := (f.nan, if sig then flNV else 0)
    rcpOp f r x = nan ∧ rsqOp f x = nan ∧ sqrtOp f r x = nan ∧ ex2Op f x = nan ∧ lg2Op f x = nan
    ∧ sinOp f x = nan ∧ cosOp f x = nan := by
  simp only [rcpOp, rsqOp, sqrtOp, ex2Op, lg2Op, sinOp, cosOp, h, specialNan, flagIf, and_self]

/-- At minus infinity only rcp and ex2 have a value. -/
theorem specialOps_of_neg_inf {f : Fmt} (r : Rnd) {x : Nat} (h : f.read x = .inf true) :
    rcpOp f r x = (f.signed true 0, 0) ∧ rsqOp f x = (f.nan, flNV) ∧ sqrtOp f r x = (f.nan, flNV)
    ∧ ex2Op f x = (0, 0) ∧ lg2Op f x = (f.nan, flNV) ∧ sinOp f x = (f.nan, flNV)
    ∧ cosOp f x = (f.nan, flNV) := by
  simp only [rcpOp, rsqOp, sqrtOp, ex2Op, lg2Op, sinOp, cosOp, h, if_true, invalid, and_self]

/-- At plus infinity only sin and cos have none. -/
theorem specialOps_of_pos_inf {f : Fmt} (r : Rnd) {x : Nat} (h : f.read x = .inf false) :
    rcpOp f r x = (0, 0) ∧ rsqOp f x = (0, 0) ∧ sqrtOp f r x = (x, 0)
    ∧ ex2Op f x = (f.signed false f.infBits, 0) ∧ lg2Op f x = (f.signed false f.infBits, 0)
    ∧ sinOp f x = (f.nan, flNV) ∧ cosOp f x = (f.nan, flNV) := by
  simp only [rcpOp, rsqOp, sqrtOp, ex2Op, lg2Op, sinOp, cosOp, h, Bool.false_eq_true, if_false, invalid,
    infOf, Fmt.signed, and_self]

/-- At a zero: a division by zero for rcp, rsq and lg2, and the zero or 1 for the rest. -/
theorem specialOps_of_zero {f : Fmt} (r : Rnd) {x : Nat} {n : Bool} {e : Int} (h : f.read x = .num n 0 e) :
    rcpOp f r x = (f.signed n f.infBits, flDZ) ∧ rsqOp f x = (f.signed n f.infBits, flDZ)
    ∧ sqrtOp f r x = (f.signed n 0, 0) ∧ ex2Op f x = (f.one, 0) ∧ lg2Op f x = (f.signed true f.infBits, flDZ)
    ∧ sinOp f x = (f.signed n 0, 0) ∧ cosOp f x = (f.one, 0) := by
  simp only [rcpOp, rsqOp, sqrtOp, ex2Op, lg2Op, sinOp, cosOp, h, if_true, infOf, and_self]

/-! Exact and inexact results at numbers (R143). -/

section
variable {f : Fmt} (hf : f ∈ [fp16, fp32]) {x m : Nat} {e : Int} {n : Bool} (h : f.read x = .num n m e)
  (hm : m ≠ 0)
include hf h hm

/-- ex2 of an integer within the exponent range is that power of two, with no flag. -/
theorem ex2Op_of_int {k : Int} (hval : ScaledEq m e k.natAbs 0) (hsign : decide (k < 0) = n)
    (hlo : f.qmin ≤ k) (hhi : k ≤ f.bias) :
    ∃ m' e', f.read (ex2Op f x).1 = .num false m' e' ∧ ScaledEq m' e' 1 k ∧ (ex2Op f x).2 = 0 := by
  obtain ⟨hinf, hebits, -, -, hqmin, -, -, hbias⟩ := specialFmt_bounds hf
  obtain ⟨he, -, -⟩ := read_num_bounds hinf hebits h
  obtain ⟨hfl, m', e', hread, heq⟩ := round_exact hinf hebits .rn false false (m := 1) (e := k)
    (Nat.zero_le _) hlo (by rw [show Nat.log2 1 = 0 from rfl]; omega)
  have hop : ex2Op f x = f.round .rn false false 1 k := by
    rw [ex2Op_num hm h, ex2Num_of_int hm (by omega) hval hsign (by omega)]
    exact bounded_of_exact _ _ _ _ _ _ _ _ (by rw [hfl]; rfl)
  rw [hop]
  exact ⟨m', e', hread, heq, hfl⟩

theorem ex2Op_inexact (hval : ∀ k, ¬ ScaledEq m e k 0) : (ex2Op f x).2 &&& flNX = flNX := by
  obtain ⟨hinf, hebits, -, -, hqmin, -, -, -⟩ := specialFmt_bounds hf
  obtain ⟨he, -, -⟩ := read_num_bounds hinf hebits h
  rw [ex2Op_num hm h, bounded_flags]
  exact ex2_inexact hf (by omega) hval

theorem sinOp_inexact : (sinOp f x).2 &&& flNX = flNX := by
  obtain ⟨-, -, -, -, hqmin, -, -, -⟩ := specialFmt_bounds hf
  obtain ⟨s, j, hs⟩ := sinNum_odd n m e
  rw [sinOp_num hm h, hs, bounded_flags]
  exact round_inexact_of_odd (by omega) (.inr (by omega))

theorem cosOp_inexact : (cosOp f x).2 &&& flNX = flNX := by
  obtain ⟨-, -, -, -, hqmin, -, -, -⟩ := specialFmt_bounds hf
  obtain ⟨s, j, hs⟩ := cosNum_odd n m e
  rw [cosOp_num hm h, hs, bounded_flags]
  exact round_inexact_of_odd (by omega) (.inr (by omega))

end

section
variable {f : Fmt} (hf : f ∈ [fp16, fp32]) {x m : Nat} {e : Int} (h : f.read x = .num false m e) (hm : m ≠ 0)
include hf h hm

/-- lg2 of a power of two is its exponent, with no flag; that of 1 is +0 (log 96). -/
theorem lg2Op_of_two_pow {k : Int} (hval : ScaledEq m e 1 k) :
    ∃ m' e', f.read (lg2Op f x).1 = .num (decide (k < 0)) m' e' ∧ ScaledEq m' e' k.natAbs 0
      ∧ (lg2Op f x).2 = 0 := by
  obtain ⟨hinf, hebits, hfbits, -, hqmin, hqmax, hbias, hmax⟩ := specialFmt_bounds hf
  obtain ⟨he, hwidth, htop⟩ := read_num_bounds hinf hebits h
  obtain ⟨hpow, hlog⟩ := (scaledEq_two_pow hm).mp hval
  have hdigits : m.log2 < f.fbits + 1 := (Nat.log2_lt hm).mpr hwidth
  have hsmall : k.natAbs.log2 ≤ 7 := by
    by_cases h0 : k.natAbs = 0
    · rw [h0]
      decide
    · exact Nat.le_of_lt_succ ((Nat.log2_lt h0).mpr (by omega))
  obtain ⟨hfl, m', e', hread, heq⟩ := round_exact hinf hebits .rn false (decide (k < 0)) (m := k.natAbs) (e := 0)
    (by omega) (by omega) (by omega)
  have hop : lg2Op f x = f.round .rn false (decide (k < 0)) k.natAbs 0 := by
    rw [lg2Op_num hm h, lg2Num_of_two_pow hpow hlog]
    exact bounded_of_exact _ _ _ _ _ _ _ _ (by rw [hfl]; rfl)
  rw [hop]
  exact ⟨m', e', hread, heq, hfl⟩

theorem lg2Op_inexact (hval : ∀ k, ¬ ScaledEq m e 1 k) : (lg2Op f x).2 &&& flNX = flNX := by
  obtain ⟨-, -, -, -, hqmin, -, -, -⟩ := specialFmt_bounds hf
  have hpow : m ≠ 2 ^ m.log2 := fun hpow => hval _ ((scaledEq_two_pow hm).mpr ⟨hpow, rfl⟩)
  obtain ⟨s, j, hs⟩ := lg2Num_of_not_two_pow (e := e) hpow
  rw [lg2Op_num hm h, hs, bounded_flags]
  exact round_inexact_of_odd (by omega) (.inr (by omega))

end

/-- Settles O12: the tables by class, the digits of each function at numbers, which of their results are exact,
and the bounds. -/
theorem specialFunctionClasses : Obligations.SpecialFunctionClasses := by
  unfold Obligations.SpecialFunctionClasses
  refine ⟨?_, ?_, ?_, ?_⟩
  · intro f rnd x hf inf nanNV one
    refine ⟨fun sig h => specialOps_of_nan rnd h, ?_, ?_, ?_, fun m e h hm => specialOps_of_negative rnd h hm⟩
    · rintro rfl
      exact specialOps_of_neg_inf rnd (read_infBits hf true)
    · rintro rfl
      exact specialOps_of_pos_inf rnd (read_infBits hf false)
    · rintro n rfl
      exact specialOps_of_zero rnd (read_zero hf n)
  · intro t f rnd sat x
    refine ⟨fun sig h => ?_, fun n h => ?_, fun n m e h => floatToInt_num t rnd sat h⟩
    · simp only [floatToInt, h]
    · simp only [floatToInt, h]
  · intro f rnd x n m e hf h hm below same stands
    obtain ⟨-, -, -, hfbits, -, -, -, -⟩ := specialFmt_bounds hf
    refine ⟨⟨_, _, rcpOp_num rnd hm h, rcpNum_stands hfbits hm e⟩, ?_, ?_, ex2Op_num hm h, ?_, sinOp_num hm h,
      cosOp_num hm h, sinNum_true m e, cosNum_true m e, ?_, ?_, ?_, ?_, sinOp_inexact hf h hm,
      cosOp_inexact hf h hm⟩
    · rintro rfl
      exact ⟨_, _, sqrtOp_num rnd hm h, sqrtNum_stands hfbits hm e⟩
    · rintro rfl
      exact ⟨_, _, rsqOp_num hm h, rsqNum_stands hfbits hm e⟩
    · rintro rfl
      exact lg2Op_bound hm h
    · exact fun k hk hsign hlo hhi => ex2Op_of_int hf h hm hk hsign hlo hhi
    · exact fun hk => ex2Op_inexact hf h hm hk
    · rintro k rfl hk
      exact lg2Op_of_two_pow hf h hm hk
    · rintro rfl hk
      exact lg2Op_inexact hf h hm hk
  · intro fn x b keep neg m e hm units near v
    have hround : fp32.round .rn false neg m e = near := if_neg hm
    have hflags := bounded_flags fp32 fn x b keep neg m e
    have hexact := bounded_of_exact fp32 fn x b keep neg m e
    have hcases : v = _ ∨ withinBound b v.1 neg m e = true ∧ _ := bounded_fp32_cases fn x b keep neg m e
    rw [hround] at hflags hexact hcases
    refine ⟨(bounded_fp16 fn x b keep neg m e).trans (if_neg hm), hflags, hexact, fun hkeep hsub => ?_, ?_⟩
    · exact hcases.resolve_right fun ⟨_, hnormal⟩ => absurd (hnormal hkeep) (Nat.not_le.mpr hsub)
    · clear_value v
      refine hcases.imp_right fun ⟨hin, _⟩ => ?_
      obtain ⟨n', m', e', hread, hle⟩ := withinBound_distance hin
      cases b with
      | ulps k => exact ⟨n', m', e', hread, hle⟩
      | absolute k => exact ⟨n', m', e', hread, hle⟩

end Sys2Proof.Machine

/-! The control transfers and the cross-lane reads of R166 to R168, R180 and R181 (family 09): what the
frames of the transfers answer once their sources are read, which member a group picks and which lanes a
mask holds, and the statements settled. -/

namespace Sys2Proof.Machine

/-! What the frames of the control transfers answer once their sources are read. -/

section
variable {s s1 : State} {cu : Cur} {gd : Guard} {d a b : Opnd} {va vb : Quad × Bool}

theorem directTarget_eq (c : Cur) (v : Quad × Bool) :
    directTarget c v = c.iss.addr + 8 * (lo32 v).signExtend 64 := by
  rw [directTarget, BitVec.mul_comm]

theorem brOp_of_reads (h : Reads s gd [(b, .w32)] [] s1 cu [vb]) :
    brOp s gd b = .next (s1.modThread cu.r fun t =>
      { t with jump := some (cu.iss.addr + 8 * (lo32 vb).signExtend 64, 0) }) := by
  rw [brOp, readingIf_of_reads h, conclude_ok, nth_zero, directTarget_eq]
  rfl

theorem callOp_of_reads (h : Reads s gd [(b, .w32)] [] s1 cu [vb]) :
    callOp s gd d b = .next ((s1.touch cu.r (d.names .w64)).modThread cu.r fun t =>
      { t.writeOpnd d .w64 (cu.iss.successor.setWidth 128) false with
        jump := some (cu.iss.addr + 8 * (lo32 vb).signExtend 64, 0) }) := by
  rw [callOp, readingIf_of_reads h, conclude_ok, nth_zero, directTarget_eq]
  rfl

/-- R167: an aligned indirect target, after the return address is written. -/
theorem indirect_of_aligned {land : Bool} (h : Reads s gd [(a, .w64)] [] s1 cu [va])
    (hx : (lo64 va).toNat % 8 = 0) :
    indirect s gd land d a = .next ((s1.touch cu.r (d.names .w64)).modThread cu.r fun t =>
      { t.writeOpnd d .w64 (cu.iss.successor.setWidth 128) false with
        jump := some (lo64 va, 0), landFrom := if land then some cu.iss.addr else none }) := by
  rw [indirect, readingIf_of_reads h]
  exact congrArg (conclude s1 cu) (if_neg (not_not_intro hx))

/-- R168: a misaligned one, which traps in the state before D is touched. -/
theorem indirect_of_misaligned {land : Bool} (h : Reads s gd [(a, .w64)] [] s1 cu [va])
    (hx : (lo64 va).toNat % 8 ≠ 0) :
    indirect s gd land d a = .next (s1.trapAt cu .align (lo64 va)) := by
  rw [indirect, readingIf_of_reads h]
  exact congrArg (conclude s1 cu) (if_pos hx)

end

/-- Settles O23: a direct transfer goes to the clause address plus 8 times its source, and an indirect one
to its source where that is aligned; brx and ret are the indirect transfer without a D. -/
theorem controlTransfers : Obligations.ControlTransfers := by
  unfold Obligations.ControlTransfers
  intro s s1 cu gd d a b imm va vb direct back x go
  refine ⟨fun h => ?_, fun h hx => ?_, fun h hx => ?_⟩
  · intro br call
    have hbr : execBr gd b s = br := brOp_of_reads h
    have hcall : execCall gd d b s = call := callOp_of_reads h
    exact ⟨hbr, hcall, by rintro rfl; exact ⟨hbr, hcall⟩⟩
  · exact ⟨indirect_of_aligned h hx, indirect_of_aligned h hx, indirect_of_aligned h hx⟩
  · exact ⟨indirect_of_misaligned h hx, indirect_of_misaligned h hx, indirect_of_misaligned h hx⟩

/-! Masks of lanes. -/

theorem testBit_foldl_lanes (ls : List Nat) (m i : Nat) :
    (ls.foldl (fun m x => m ||| 2 ^ x) m).testBit i = (m.testBit i || decide (i ∈ ls)) := by
  induction ls generalizing m with
  | nil => simp
  | cons x ls ih => simp [ih, Nat.testBit_or, Nat.testBit_two_pow, Bool.or_assoc, eq_comm]

theorem testBit_laneMask (ls : List Nat) (i : Nat) : (laneMask ls).testBit i = decide (i ∈ ls) := by
  rw [laneMask, testBit_foldl_lanes, Nat.zero_testBit, Bool.false_or]

/-- The mask of the lanes of the members that a condition holds of. -/
theorem getLsbD_laneMask_filter (con : List Con) (p : Con → Bool) {i : Nat} (hi : i < 128) :
    (ofNatQ (laneMask ((con.filter p).map (·.lane)))).getLsbD i = true
      ↔ ∃ x ∈ con, x.lane = i ∧ p x = true := by
  rw [ofNatQ, BitVec.getLsbD_ofNat, testBit_laneMask, decide_eq_true hi, Bool.true_and,
    decide_eq_true_iff]
  simp only [List.mem_map, List.mem_filter, and_assoc, and_comm (a := _ = i)]

/-! Which member of a list in rising order of lane is the one at a lane, the last and the first. -/

section
variable {con : List Con} {x : Con} (h : con.Pairwise fun x y => x.lane < y.lane)
include h

theorem find?_lane_of_mem (hx : x ∈ con) : con.find? (fun y => y.lane == x.lane) = some x := by
  induction con with
  | nil => cases hx
  | cons y con ih =>
    obtain ⟨hy, hcon⟩ := List.pairwise_cons.mp h
    rcases List.mem_cons.mp hx with rfl | hx
    · exact List.find?_cons_of_pos (beq_self_eq_true _)
    · rw [List.find?_cons_of_neg (by simpa using Nat.ne_of_lt (hy x hx)), ih hcon hx]

theorem getLast?_of_greatest (hx : x ∈ con) (hmax : ∀ y ∈ con, y.lane ≤ x.lane) :
    con.getLast? = some x := by
  obtain ⟨ys, z, rfl⟩ : ∃ ys z, con = ys ++ [z] :=
    ⟨con.dropLast, con.getLast (List.ne_nil_of_mem hx), (List.dropLast_concat_getLast _).symm⟩
  obtain ⟨_, _, hlt⟩ := List.pairwise_append.mp h
  rcases List.mem_append.mp hx with hx | hx
  · have hz := hmax z (by simp)
    exact absurd (hlt x hx z (by simp)) (Nat.not_lt.mpr hz)
  · rw [List.mem_singleton.mp hx, List.getLast?_concat]

theorem head?_of_least (hx : x ∈ con) (hmin : ∀ y ∈ con, x.lane ≤ y.lane) : con.head? = some x := by
  cases con with
  | nil => cases hx
  | cons y con =>
    rcases List.mem_cons.mp hx with rfl | hx
    · rfl
    · exact absurd (List.rel_of_pairwise_cons h hx) (Nat.not_lt.mpr (hmin y List.mem_cons_self))

end

/-! What one member receives (R180, R181). -/

/-- The lane that a member's source B names. -/
def Con.index (x : Con) (w : Nat) : Nat := (lo32 (x.b, false)).toNat % w

/-- The members that name a lane at xpush. -/
def senders (w : Nat) (con : List Con) (lane : Nat) : List Con := con.filter fun x => x.index w == lane

theorem mem_senders {w lane : Nat} {con : List Con} {x : Con} :
    x ∈ senders w con lane ↔ x ∈ con ∧ x.index w = lane := by
  simp [senders]

theorem senders_eq_nil {w lane : Nat} {con : List Con} (h : ∀ x ∈ con, x.index w ≠ lane) :
    senders w con lane = [] :=
  List.filter_eq_nil_iff.mpr fun x hx => by simpa using h x hx

section
variable {w : Nat} {con : List Con} {me x : Con} {t : Ty} {cm : Bool}

theorem pullRes_eq : pullRes t w con me
    = ⟨[(0, t.width, ((con.find? fun x => x.lane == me.index w).map (·.a)).getD 0)], 0⟩ := rfl

theorem pullRes_of_mem (h : con.Pairwise fun x y => x.lane < y.lane) (hx : x ∈ con)
    (hl : x.lane = me.index w) : pullRes t w con me = ⟨[(0, t.width, x.a)], 0⟩ := by
  rw [pullRes_eq, ← hl, find?_lane_of_mem h hx]
  rfl

theorem pullRes_of_absent (h : ∀ x ∈ con, x.lane ≠ me.index w) :
    pullRes t w con me = ⟨[(0, t.width, 0)], 0⟩ := by
  rw [pullRes_eq, List.find?_eq_none.mpr fun x hx => by simpa using h x hx]
  rfl

/-- The value of the last sender, and with .cm the mask of all of them. -/
theorem pushRes_eq : pushRes t cm w con me
    = ⟨((senders w con me.lane).getLast?.map fun x => (0, t.width, x.a)).toList
        ++ if cm then [(t.width.regs, .w32, ofNatQ (laneMask ((senders w con me.lane).map (·.lane))))]
          else [], 0⟩ := by
  change (match (senders w con me.lane).getLast? with | some x => _ | none => _) = _
  cases (senders w con me.lane).getLast? <;> rfl

theorem pushRes_of_greatest (h : con.Pairwise fun x y => x.lane < y.lane) (hx : x ∈ con)
    (hi : x.index w = me.lane) (hmax : ∀ y ∈ con, y.index w = me.lane → y.lane ≤ x.lane) :
    pushRes t cm w con me = ⟨(0, t.width, x.a) ::
      if cm then [(t.width.regs, .w32, ofNatQ (laneMask ((senders w con me.lane).map (·.lane))))]
      else [], 0⟩ := by
  have hlast : (senders w con me.lane).getLast? = some x :=
    getLast?_of_greatest (h.filter _) (mem_senders.mpr ⟨hx, hi⟩) fun y hy =>
      hmax y (mem_senders.mp hy).1 (mem_senders.mp hy).2
  rw [pushRes_eq, hlast]
  rfl

theorem pushRes_of_no_sender (h : ∀ x ∈ con, x.index w ≠ me.lane) :
    pushRes t cm w con me = ⟨if cm then [(t.width.regs, .w32, 0)] else [], 0⟩ := by
  rw [pushRes_eq, senders_eq_nil h]
  rfl

theorem voteRes_all : voteRes 0 con = ⟨[(0, .w32, if ∀ x ∈ con, x.a ≠ 0 then 1 else 0)], 0⟩ := by
  have hall : (con.filter fun x => x.a != 0).length = con.length ↔ ∀ x ∈ con, x.a ≠ 0 := by
    simp [List.length_filter_eq_length_iff]
  change (⟨[(0, .w32, ofNatQ (if (con.filter fun x => x.a != 0).length = con.length then 1 else 0))], 0⟩ : XRes)
    = _
  by_cases h : ∀ x ∈ con, x.a ≠ 0
  · rw [if_pos (hall.mpr h), if_pos h]
    rfl
  · rw [if_neg (mt hall.mp h), if_neg h]
    rfl

theorem voteRes_any : voteRes 1 con = ⟨[(0, .w32, if ∃ x ∈ con, x.a ≠ 0 then 1 else 0)], 0⟩ := by
  have hnone : (con.filter fun x => x.a != 0).isEmpty = true ↔ ¬ ∃ x ∈ con, x.a ≠ 0 := by
    simp [List.isEmpty_iff, List.filter_eq_nil_iff]
  change (⟨[(0, .w32, ofNatQ (if (con.filter fun x => x.a != 0).isEmpty then 0 else 1))], 0⟩ : XRes) = _
  by_cases h : ∃ x ∈ con, x.a ≠ 0
  · rw [if_neg fun he => hnone.mp he h, if_pos h]
    rfl
  · rw [if_pos (hnone.mpr h), if_neg h]
    rfl

end

/-- Settles O20: distinct lanes in rising order make the member at a lane, the last sender and the first
member the ones that the model picks; every mask is the set of the lanes of a filtered list. -/
theorem crossLaneValues : Obligations.CrossLaneValues := by
  unfold Obligations.CrossLaneValues
  intro w con me gd t d a b c imm hcon _ _ index one
  refine ⟨fun x hx hl => ?_, fun h => ?_, fun x hx hi hmax => ?_, fun h => ?_, voteRes_all, voteRes_any,
    ?_, fun x hx hmin => ?_, ?_⟩
  · exact ⟨pullRes_of_mem hcon hx hl, pullRes_of_mem hcon hx hl⟩
  · exact ⟨pullRes_of_absent h, pullRes_of_absent h⟩
  · refine ⟨pushRes_of_greatest hcon hx hi hmax, _, pushRes_of_greatest hcon hx hi hmax, fun i hlt => ?_⟩
    refine (getLsbD_laneMask_filter con _ (by omega)).trans ?_
    simp only [beq_iff_eq]
    rfl
  · exact ⟨pushRes_of_no_sender h, pushRes_of_no_sender h⟩
  · refine ⟨_, rfl, fun i hlt => (getLsbD_laneMask_filter con _ hlt).trans ?_⟩
    simp only [bne_iff_ne]
  · have hhead : crossRes w (.xfirst gd t d a c) con me = one t.width ((con.head?.map (·.a)).getD 0) := rfl
    rw [hhead, head?_of_least hcon hx hmin]
    rfl
  · refine ⟨_, rfl, fun i hlt => (getLsbD_laneMask_filter con _ hlt).trans ?_⟩
    simp only [beq_iff_eq]

end Sys2Proof.Machine

/-! The capability checks and the cap group of R201 and R251 to R255 (family 12): which check an access fails
first, what the frame of the group answers once its sources are read, and the statement settled. -/

namespace Sys2Proof.Machine

/-! The checks of R201 in their order. -/

section
variable {v : Quad} {tag : Bool} {perm : Nat} {a : Int} {n : Nat}

theorem capHas_iff : capHas v perm = true ↔ capPerms v &&& perm = perm := beq_iff_eq

theorem capFailure_of_untagged (ht : effTag v tag = false) :
    capFailure v tag perm a n = some .capTag := by
  rw [capFailure, ht]
  rfl

/-- Of a tagged quad the permissions are checked before the bounds. -/
theorem capFailure_of_tagged (ht : effTag v tag = true) :
    capFailure v tag perm a n = if capPerms v &&& perm = perm then
      if 0 ≤ a ∧ capBase v ≤ a ∧ a + n ≤ capTop v ∧ a + n ≤ 2 ^ 55 then none else some .capBounds
    else some .capPerm := by
  have hbounds : (a < 0 ∨ a < capBase v ∨ capTop v < a + n ∨ 2 ^ 55 < a + n)
      ↔ ¬ (0 ≤ a ∧ capBase v ≤ a ∧ a + n ≤ capTop v ∧ a + n ≤ 2 ^ 55) := by omega
  simp only [capFailure, ht, Bool.not_true, Bool.false_eq_true, if_false, Bool.not_eq_true', ← capHas_iff,
    ← Bool.not_eq_true, hbounds, ite_not]

end

section
variable {v : Quad} {tag : Bool} {perm : Nat} {off : Word} {n : Nat}

theorem checkCap_of_failure {c : Cause} (h : capFailure v tag perm (capAddr v off) n = some c) :
    checkCap v tag perm off n = .error (.trap c (BitVec.ofInt 64 (capAddr v off))) := by
  rw [checkCap, h, tvalOf]

theorem checkCap_of_none (h : capFailure v tag perm (capAddr v off) n = none) :
    checkCap v tag perm off n = .ok (capAddr v off).toNat := by
  rw [checkCap, h]

end

/-! The fields of cap.prm and cap.chk. -/

theorem capPerms_lt (v : Quad) : capPerms v < 2 ^ 12 := Nat.mod_lt _ (Nat.two_pow_pos 12)

theorem toNat_append_eq_add {m n : Nat} (x : BitVec m) (y : BitVec n) :
    (x ++ y).toNat = x.toNat * 2 ^ n + y.toNat := by
  rw [BitVec.toNat_append, ← Nat.shiftLeft_add_eq_or_of_lt y.isLt, Nat.shiftLeft_eq]

/-- R253: narrowing keeps every bit but the permissions, and of those the ones in the mask. -/
theorem maskCap_eq (v : Quad) (tag : Bool) (mask : Word) :
    maskCap v tag mask = (v.extractLsb' 124 4
      ++ (BitVec.ofNat 12 (capPerms v) &&& mask.setWidth 12) ++ v.extractLsb' 0 112, effTag v tag) := by
  have hkept : (BitVec.ofNat 12 (capPerms v) &&& mask.setWidth 12).toNat
      = capPerms v &&& mask.toNat % 2 ^ 12 := by
    rw [BitVec.toNat_and, BitVec.toNat_ofNat, Nat.mod_eq_of_lt (capPerms_lt v), BitVec.toNat_setWidth]
  have hlt : capPerms v &&& mask.toNat % 2 ^ 12 < 2 ^ 12 :=
    Nat.and_lt_two_pow _ (Nat.mod_lt _ (Nat.two_pow_pos 12))
  refine Prod.ext (BitVec.eq_of_toNat_eq ?_) rfl
  rw [toNat_append_eq_add, toNat_append_eq_add, hkept, BitVec.extractLsb'_toNat, BitVec.extractLsb'_toNat,
    maskCap, BitVec.toNat_ofNat, Nat.shiftRight_eq_div_pow, Nat.shiftRight_zero]
  have hv := v.isLt
  generalize capPerms v &&& mask.toNat % 2 ^ 12 = k at hlt
  omega

/-- cap.chk's answer by the outcome of the check (R254). -/
def chkAnswer (r : Except Stop Nat) : Quad :=
  match r with
  | .ok _ => 0
  | .error (.trap .capTag _) => 1
  | .error (.trap .capPerm _) => 2
  | .error _ => 3

theorem ofNatQ_chkCap (v : Quad) (tag : Bool) (off ctl : Word) :
    ofNatQ (chkCap v tag off ctl)
      = chkAnswer (checkCap v tag (ctl.toNat / 2 ^ 16 % 2 ^ 8) off (ctl.toNat % 2 ^ 16)) := by
  rw [chkCap, checkCap]
  cases capFailure v tag (ctl.toNat / 2 ^ 16 % 2 ^ 8) (capAddr v off) (ctl.toNat % 2 ^ 16) with
  | none => rfl
  | some c => cases c <;> rfl

/-! What the frame of the cap group answers once its sources are read. -/

section
variable {s s1 : State} {cu : Cur} {gd : Guard} {d a b c : Opnd} {va vb vc : Quad × Bool}
  {srcs : List (Opnd × Width)} {vs : List (Quad × Bool)}
  {f : Quad → Bool → List (Quad × Bool) → Except Stop (Quad × Bool)}

theorem capOp_of_ok {q : Quad × Bool} (h : Reads s gd ((a, .w128) :: srcs) [] s1 cu (va :: vs))
    (hf : f va.1 va.2 (va :: vs) = .ok q) :
    capOp s gd d a srcs f = .next (s1.modThread cu.r fun t => t.deferReg d .w128 q.1 q.2) := by
  rw [capOp, readingIf_of_reads h, nth_zero, hf, conclude_ok]

theorem capOp_of_trap {cause : Cause} {tval : DWord}
    (h : Reads s gd ((a, .w128) :: srcs) [] s1 cu (va :: vs))
    (hf : f va.1 va.2 (va :: vs) = .error (.trap cause tval)) :
    capOp s gd d a srcs f = .next (s1.trapAt cu cause tval) := by
  rw [capOp, readingIf_of_reads h, nth_zero, hf, conclude_trap]

theorem execCapChk_of_reads (h : Reads s gd [(a, .w128), (b, .w32), (c, .w32)] [] s1 cu [va, vb, vc]) :
    execCapChk gd d a b c s = .next (s1.modThread cu.r fun t => t.deferReg d .w32
      (chkAnswer (checkCap va.1 va.2 ((lo32 vc).toNat / 2 ^ 16 % 2 ^ 8) (lo32 vb)
        ((lo32 vc).toNat % 2 ^ 16))) false) := by
  rw [execCapChk, readingIf_of_reads h, conclude_ok]
  simp only [nth_zero, nth_succ, ofNatQ_chkCap]

theorem execCapGet_of_reads (h : Reads s gd [(a, .w128), (b, .w32)] [] s1 cu [va, vb]) :
    execCapGet gd d a b s = .next (s1.modThread cu.r fun t => t.deferReg d .w64
      ((BitVec.ofInt 64 (getCap va.1 va.2 (lo32 vb).toNat)).setWidth 128) false) := by
  rw [execCapGet, readingIf_of_reads h, conclude_ok, nth_zero, nth_succ, nth_zero]

end

/-- Settles O29: tag, permissions and bounds are checked in that order, and the cap group is one frame that
leaves its quad to the end of the clause or traps where a sub-capability is not made. -/
theorem capabilityInstructions : Obligations.CapabilityInstructions := by
  unfold Obligations.CapabilityInstructions
  refine ⟨fun v tag perm off n => ?_, fun s s1 cu gd d a b c va vb vc => ?_⟩
  · intro x tval inside
    refine ⟨fun ht => checkCap_of_failure (capFailure_of_untagged ht), fun ht hp => ?_,
      fun ht hp hin => ?_, fun ht hp hin => ?_⟩
    · exact checkCap_of_failure ((capFailure_of_tagged ht).trans (if_neg hp))
    · exact checkCap_of_failure ((capFailure_of_tagged ht).trans ((if_pos hp).trans (if_neg hin)))
    · exact checkCap_of_none ((capFailure_of_tagged ht).trans ((if_pos hp).trans (if_pos hin)))
  · intro later made
    refine ⟨fun h => ?_, fun h => ?_, fun h => ?_, fun h => execCapChk_of_reads h⟩
    · rw [exec_capNew]
      exact ⟨fun _ hq => capOp_of_ok h hq, fun _ _ hr => capOp_of_trap h hr⟩
    · rw [exec_capSet]
      exact capOp_of_ok h rfl
    · intro r narrowed
      have hadd : execCapAdd gd d a b s = later .w128 r.1 r.2 := capOp_of_ok h rfl
      have hbnd : made (subCap va.1 va.2 (capCursor va.1) (lo32 vb).toNat) (execCapBnd gd d a b s) :=
        ⟨fun _ hq => capOp_of_ok h hq, fun _ _ hr => capOp_of_trap h hr⟩
      have hprm : execCapPrm gd d a b s = later .w128
          (va.1.extractLsb' 124 4 ++ narrowed ++ va.1.extractLsb' 0 112) (effTag va.1 va.2) :=
        capOp_of_ok (q := (_, _)) h (congrArg Except.ok (maskCap_eq va.1 va.2 (lo32 vb)))
      exact ⟨hadd, hbnd, hprm, execCapGet_of_reads h⟩

end Sys2Proof.Machine

/-! The handle instructions and the event counters of R305 to R308 and R392 (families 15 and 18): the fields
that they read of a completion word, the list of the counters that may be read, what each instruction answers
once its sources are read, and the statement settled. -/

namespace Sys2Proof.Machine

/-! The numbers that the low bits of a source name, and the fields of a completion word (R297). -/

theorem low_bits_of_lo32 (v : Quad × Bool) {n : Nat} (h : n ≤ 32) :
    (lo32 v).toNat % 2 ^ n = (v.1.extractLsb' 0 n).toNat := by
  rw [lo32, BitVec.toNat_setWidth, BitVec.extractLsb'_toNat, Nat.shiftRight_zero,
    Nat.mod_mod_of_dvd _ (Nat.pow_dvd_pow 2 h)]

theorem handleNumber_of_lo32 (v : Quad × Bool) :
    (lo32 v).toNat % 16 = (v.1.extractLsb' 0 4).toNat := low_bits_of_lo32 v (n := 4) (by decide)

theorem handleStatus_eq (v : DWord) : handleStatus v = (v.extractLsb' 48 16).toNat := by
  have hv := v.isLt
  rw [handleStatus, BitVec.extractLsb'_toNat, Nat.shiftRight_eq_div_pow]
  omega

theorem handleCount_eq (v : DWord) : handleCount v = (v.extractLsb' 0 48).toNat := by
  rw [handleCount, BitVec.extractLsb'_toNat, Nat.shiftRight_zero]

theorem handleWord_eq_append (status : BitVec 16) (count : BitVec 48) :
    handleWord status.toNat count.toNat = status ++ count := by
  have hs := status.isLt
  have hc := count.isLt
  refine BitVec.eq_of_toNat_eq ?_
  rw [handleWord, toNat_append_eq_add, BitVec.toNat_ofNat]
  omega

theorem handleComplete_iff (v : DWord) : handleComplete v = true ↔ v.extractLsb' 48 16 ≠ 0x8000 := by
  rw [handleComplete, bne_iff_ne, handleStatus_eq, Ne, Ne, BitVec.toNat_eq]
  rfl

/-- R308: of a pair, a word whose status is pending or reserved moves as cancelled with its count. -/
theorem movedWord_eq (v : DWord) : movedWord v
    = if (v.extractLsb' 48 16).toNat ≤ 3
        ∨ (0x4000 ≤ (v.extractLsb' 48 16).toNat ∧ (v.extractLsb' 48 16).toNat < 0x8000) then v
      else (1 : BitVec 16) ++ v.extractLsb' 0 48 := by
  have hcancelled : handleWord 1 (handleCount v) = (1 : BitVec 16) ++ v.extractLsb' 0 48 := by
    rw [handleCount_eq]
    exact handleWord_eq_append 1 _
  simp only [movedWord, hcancelled, handleStatus_eq, ← Nat.lt_succ_iff (n := 0x7FFF)]

/-- The counters that perf.rd reads for a thread, with their numbers (R392). -/
def State.readableCounters (s : State) (c : Cur) : List (Nat × DWord) :=
  let k := s.core c.r.die c.r.core
  let x := k.counters? c.ctx
  [(0x000, x.clauses), (0x001, x.shoals), (0x002, x.issued), (0x003, x.serialIssues),
    (0x004, x.serialEntries), (0x005, x.l1Misses), (0x006, x.arrayOps), (0x007, x.rayRounds),
    (0x008, x.slips), (0x009, (s.vi c.r.die c.cv.vi).xretry.setWidth 64),
    (0x010, BitVec.ofNat 64 k.regErrors)]
  ++ if c.cv.system then [(0x011, BitVec.ofNat 64 (s.die c.r.die).memErrors),
      (0x012, BitVec.ofNat 64 (s.die c.r.die).poisonCount)] else []

/-- Each number of R392 stands once in the list, 0x011 and 0x012 for the system only, and no other number stands
there. -/
theorem perfReg_eq_some_iff {s : State} {c : Cur} {n : Nat} {v : DWord} :
    s.perfReg c n = some v ↔ (n, v) ∈ s.readableCounters c := by
  unfold State.perfReg State.readableCounters
  cases c.cv.system <;> split <;> simp_all [dw, eq_comm]

theorem perfReg_eq_none_iff {s : State} {c : Cur} {n : Nat} :
    s.perfReg c n = none ↔ ∀ v, (n, v) ∉ s.readableCounters c := by
  simp only [Option.eq_none_iff_forall_ne_some, Ne, perfReg_eq_some_iff]

/-! What each instruction answers once its sources are read. -/

section
variable {s s1 : State} {cu : Cur} {gd : Guard} {d a b : Opnd} {va vb : Quad × Bool}

theorem execHwait_of_reads (h : Reads s gd [(a, .w32)] [] s1 cu [va]) :
    execHwait gd a s = .next (s1.modThread cu.r fun t =>
      { t with status := .hwait (va.1.extractLsb' 0 16).toNat, passed := 0 }) := by
  rw [execHwait, readingIf_of_reads h, conclude_ok, nth_zero, low_bits_of_lo32 va (by decide)]

theorem execHtest_of_reads (h : Reads s gd [(a, .w32)] [] s1 cu [va]) :
    execHtest gd d a s = .next (s1.modThread cu.r fun t =>
      t.deferReg d .w64 ((t.handle (va.1.extractLsb' 0 4).toNat).setWidth 128) false) := by
  rw [execHtest, readingIf_of_reads h, conclude_ok, nth_zero, handleNumber_of_lo32]

/-- R307: hcancel leaves alone a handle that is complete and one whose operation always runs to its end. -/
theorem execHcancel_of_reads {n : Nat} (h : ReadsOnce s gd [(a, .w32)] s1 cu [va])
    (hn : (lo32 va).toNat % 16 = n) :
    execHcancel gd a s = .next (if handleComplete (cu.t.handle n)
      || (s1.core cu.r.die cu.r.core).keeps cu.r n then s1 else s1.cancelHandle cu.r n) := by
  subst hn
  rw [execHcancel, onceReading_of_reads h, nth_zero]

theorem cancelHandle_of_copy {r : TRef} {n : Nat} {op : CopyOp}
    (h : ((s.core r.die r.core).copies.find? fun x => x.owner == r && x.handle == some n) = some op) :
    s.cancelHandle r n = s.endCopy r.die r.core op (handleWord 1 op.progress) := by
  simp only [State.cancelHandle, h]

theorem execHmov_of_handle {n : Fin 16} (h : Reads s gd [(.h n, .w64)] [] s1 cu [va]) :
    execHmov gd d (.h n) s = .next (s1.modThread cu.r fun t =>
      (t.deferHandle (.h n) 0).deferHandle d (lo64 va)) := by
  rw [execHmov, readingIf_of_reads h, conclude_ok, nth_zero]

theorem execHmov_of_pair (ha : ∀ n, a ≠ .h n) (h : Reads s gd [(a, .w64)] [] s1 cu [va]) :
    execHmov gd d a s = .next (s1.modThread cu.r fun t => t.deferHandle d (movedWord (lo64 va))) := by
  rw [execHmov, readingIf_of_reads h, conclude_ok, nth_zero]
  cases a with
  | h n => exact absurd rfl (ha n)
  | _ => rfl

theorem perfRdOp_of_readable {v : DWord} (h : Reads s gd [(b, .w32)] [] s1 cu [vb])
    (hv : ((lo32 vb).toNat, v) ∈ s1.readableCounters cu) :
    perfRdOp s gd d b = .next ((s1.touch cu.r (d.names .w64)).modThread cu.r fun t =>
      t.writeOpnd d .w64 (v.setWidth 128) false) := by
  rw [perfRdOp, readingIf_of_reads h, nth_zero, perfReg_eq_some_iff.2 hv, conclude_ok]

theorem perfRdOp_of_unreadable (h : Reads s gd [(b, .w32)] [] s1 cu [vb])
    (hv : ∀ v, ((lo32 vb).toNat, v) ∉ s1.readableCounters cu) :
    perfRdOp s gd d b = .next (s1.trapAt cu .illegalOp ((lo32 vb).setWidth 64)) := by
  rw [perfRdOp, readingIf_of_reads h, nth_zero, perfReg_eq_none_iff.2 hv, conclude_trap]

end

/-- Settles O38: each instruction is one frame whose answer turns on the status of the handle that it names, on
the operation pending there, on the kind of its source, or on the list of readable counters. -/
theorem handlesAndCounters : Obligations.HandlesAndCounters := by
  unfold Obligations.HandlesAndCounters
  intro s s1 cu gd d a b va vb k x
  refine ⟨fun h => ⟨execHwait_of_reads h, execHtest_of_reads h⟩, fun h => ?_, fun h => ?_, fun h => ?_⟩
  · intro n
    have hcancel := execHcancel_of_reads h (handleNumber_of_lo32 va)
    refine ⟨fun hdone => ?_, fun op hpending hkeeps hcopy => ?_⟩
    · rw [exec_hcancel, hcancel, (handleComplete_iff _).2 hdone, Bool.true_or, if_pos rfl]
    · have hopen : handleComplete (cu.t.handle n) = false :=
        Bool.eq_false_iff.2 fun hdone => (handleComplete_iff _).1 hdone hpending
      rw [exec_hcancel, hcancel, hopen, hkeeps, Bool.false_or, if_neg Bool.false_ne_true,
        cancelHandle_of_copy hcopy]
  · intro v status
    refine ⟨fun n ha => ?_, fun ha => ?_⟩
    · subst ha
      exact execHmov_of_handle h
    · rw [exec_hmov, execHmov_of_pair ha h, movedWord_eq]
  · exact ⟨fun v hv => perfRdOp_of_readable h hv, fun hv => perfRdOp_of_unreadable h hv⟩

end Sys2Proof.Machine
